-- ==== Sys2Proof/Word.lean ====
section
/-!
DEFINITION. The word types of the device (spec/00_scope.md R2): bytes, 32-bit and 64-bit words, lane
masks and 56-bit device virtual addresses.
-/
namespace Sys2Proof

/-- One byte of any memory. -/
abbrev Byte := BitVec 8
/-- A 32-bit register element. -/
abbrev Word := BitVec 32
/-- A 64-bit value: a register pair. -/
abbrev DWord := BitVec 64
/-- One bit per lane, lane 0 in bit 0 (R8, R14). -/
abbrev Mask := BitVec 64
/-- A device virtual address (spec/11_memory_model.md, Pages and translation). -/
abbrev VA := BitVec 56

end Sys2Proof
end

