-- ==== Sys2Proof/Machine/Cells.lean ====
section
/-!
DEFINITION. Sparse memories: lists of address and value pairs in one canonical form (addresses strictly rising, no
value equal to 0, which is what an unlisted address reads as), and the small bit helpers the machine uses.
-/
namespace Sys2Proof.Machine

/-- A sparse map from addresses to w-bit values; an unlisted address reads as 0. -/
abbrev Cells (w : Nat) := List (Nat × BitVec w)

/-- The value at an address. -/
def peek {w : Nat} : Cells w → Nat → BitVec w
  | [], _ => 0
  | (b, x) :: m, a => if b = a then x else peek m a

/-- Forget an address. -/
def dropKey {w : Nat} : Cells w → Nat → Cells w
  | [], _ => []
  | (b, x) :: m, a => if b = a then dropKey m a else (b, x) :: dropKey m a

/-- Insert in address order. -/
def insKey {w : Nat} : Cells w → Nat → BitVec w → Cells w
  | [], a, x => [(a, x)]
  | (b, y) :: m, a, x => if a < b then (a, x) :: (b, y) :: m else (b, y) :: insKey m a x

/-- Write a value; writing 0 removes the entry, so that equal maps are equal lists. -/
def poke {w : Nat} (m : Cells w) (a : Nat) (x : BitVec w) : Cells w :=
  if x = 0 then dropKey m a else insKey (dropKey m a) a x

/-- Canonical from address lo on. -/
def cellsFrom {w : Nat} : Nat → Cells w → Bool
  | _, [] => true
  | lo, (a, x) :: m => decide (lo ≤ a) && decide (x ≠ 0) && cellsFrom (a + 1) m

/-- The canonical form: addresses strictly rising, no value 0. -/
def Cells.wf {w : Nat} (m : Cells w) : Bool := cellsFrom 0 m

/-- Write f 0 … f (n − 1) at a, a + 1, …. -/
def pokeN {w : Nat} (m : Cells w) (a : Nat) (f : Nat → BitVec w) : Nat → Cells w
  | 0 => m
  | n + 1 => poke (pokeN m a f n) (a + n) (f n)

/-- Write f l at a + l for the l below n with sel l. -/
def pokeIf {w : Nat} (m : Cells w) (a : Nat) (sel : Nat → Bool) (f : Nat → BitVec w) : Nat → Cells w
  | 0 => m
  | n + 1 => let m' := pokeIf m a sel f n; if sel n then poke m' (a + n) (f n) else m'

/-- Remove every address of a range. -/
def clearRange {w : Nat} (m : Cells w) (a n : Nat) : Cells w :=
  m.filter fun c => !(decide (a ≤ c.1) && decide (c.1 < a + n))

/-- The entries of a range, moved to start at 0. -/
def sliceOf {w : Nat} (m : Cells w) (a n : Nat) : Cells w :=
  (m.filter fun c => decide (a ≤ c.1) && decide (c.1 < a + n)).map fun c => (c.1 - a, c.2)

/-- n bytes from a, little-endian, as a number. -/
def bytesAt (m : Cells 8) (a : Nat) : Nat → Nat
  | 0 => 0
  | n + 1 => (peek m a).toNat + 256 * bytesAt m (a + 1) n

/-- Write the low n bytes of x at a, little-endian. -/
def pokeBytes (m : Cells 8) (a : Nat) (n x : Nat) : Cells 8 :=
  pokeN m a (fun i => BitVec.ofNat 8 (x / 256 ^ i)) n

/-- The mask whose bit l is f l, for l below n. -/
def maskUpTo (f : Nat → Bool) : Nat → Mask
  | 0 => 0
  | n + 1 => maskUpTo f n ||| (if f n then BitVec.twoPow 64 n else 0)

/-- The mask whose bit l is f l (R14). -/
def maskOf (f : Nat → Bool) : Mask := maskUpTo f 64

/-- One bit for each lane below n (R15). -/
def laneMask (n : Nat) : Mask := maskOf (fun l => decide (l < n))

/-- Lanes of a mask below 64, ascending. -/
def lanesOf (m : Mask) : List Nat := (List.range 64).filter (fun l => m.getLsbD l)

/-- The lowest lane of a mask, 0 when empty. -/
def lowLane (m : Mask) : Nat := (lanesOf m).headD 0

/-- Set bits, from bit 0 up to bit n − 1. -/
def popUpTo {w : Nat} (x : BitVec w) : Nat → Nat
  | 0 => 0
  | n + 1 => popUpTo x n + (if x.getLsbD n then 1 else 0)

/-- Number of set bits. -/
def popCount {w : Nat} (x : BitVec w) : Nat := popUpTo x w

/-- Leading zero bits, 0 to w. -/
def leadZeros {w : Nat} (x : BitVec w) : Nat := if x = 0 then w else w - 1 - Nat.log2 x.toNat

/-- Bits lo … lo + n − 1 of a number. -/
def bits (x lo n : Nat) : Nat := x / 2 ^ lo % 2 ^ n

/-- Bit i of a number. -/
def bit (x i : Nat) : Bool := x / 2 ^ i % 2 == 1

/-- Replace element i of a list. -/
def setAt {α : Type} : List α → Nat → α → List α
  | [], _, _ => []
  | _ :: xs, 0, y => y :: xs
  | x :: xs, i + 1, y => x :: setAt xs i y

/-- Change element i of a list. -/
def modAt {α : Type} : List α → Nat → (α → α) → List α
  | [], _, _ => []
  | x :: xs, 0, f => f x :: xs
  | x :: xs, i + 1, f => x :: modAt xs i f

/-- The bytes of a number, little-endian. -/
def natBytes (x n : Nat) : List Byte := (List.range n).map fun i => BitVec.ofNat 8 (x / 256 ^ i)

/-- A little-endian number from bytes. -/
def bytesNat : List Byte → Nat
  | [] => 0
  | b :: bs => b.toNat + 256 * bytesNat bs

end Sys2Proof.Machine
end

