-- ==== Sys2Proof/Syntax.lean ====
section
/-!
DEFINITION. The syntax of the machine: operand specifiers (spec/02 R53), the type, scope, rounding, comparison and
cache codes (spec/03 R74–R81), and Instr, one constructor per row of spec/opcode_table.json.
-/
namespace Sys2Proof

/-- An operand specifier (R53); the literal carries the value of the 96-bit form (R54, R56). -/
inductive Opnd where
  | v (n : BitVec 8)
  | g (n : BitVec 6)
  | o (n : BitVec 3)
  | h (n : BitVec 2)
  | p (n : BitVec 3)
  | zero
  | lane
  | gw
  | lit (l : Word)
  | imm (i : BitVec 8)
  deriving DecidableEq, Repr

/-- The guard (R51): predicate number and negate. -/
structure Guard where
  gp : BitVec 3
  gn : Bool
  deriving DecidableEq, Repr

/-- Guard, STAY (`.run`) and NWB (`.nw`) of an instruction that may stand anywhere in a run (R49). -/
structure Hdr extends Guard where
  stay : Bool
  nwb : Bool
  deriving DecidableEq, Repr

/-- The hint of a control transfer (R50). -/
inductive Hint where
  | none | likely | unlikely | uniform
  deriving DecidableEq, Repr

/-- Guard and hint of `bra`, `brx`, `call` and `callx` (R50). -/
structure CHdr extends Guard where
  hint : Hint
  deriving DecidableEq, Repr

/-- Integer types, in code order 0 to 6 (R75). -/
inductive IType where
  | i32 | n32 | i16 | n16 | i8 | n8 | i64
  deriving DecidableEq, Repr

/-- Floating-point types, in code order 0 to 5 (R76). -/
inductive FType where
  | f32 | f64 | f16 | bf16 | f16x2 | bf16x2
  deriving DecidableEq, Repr

/-- Rounding codes 0 to 3 (R77). -/
inductive Rnd where
  | rn | rz | rp | rm
  deriving DecidableEq, Repr

/-- Integer comparison codes 0 to 5 (R78). -/
inductive Cond where
  | eq | ne | lt | le | gt | ge
  deriving DecidableEq, Repr

/-- Float comparison codes 0 to 13 (R78). -/
inductive FCond where
  | eq | ne | lt | le | gt | ge | ord | uno | ueq | one | ult | ule | ugt | uge
  deriving DecidableEq, Repr

/-- Conversion types, in code order 0 to 12 (R79). -/
inductive CType where
  | f32 | f64 | f16 | bf16 | e4m3 | e5m2 | i32 | n32 | i16 | n16 | i8 | n8 | i64
  deriving DecidableEq, Repr

/-- Scopes, in code order 0 to 5 (R74). -/
inductive Scope where
  | grp | team | clu | slc | dev | sys
  deriving DecidableEq, Repr

/-- Address spaces of a memory operand (R80). -/
inductive Space where
  | global | pd | cl | cn
  deriving DecidableEq, Repr

/-- Cache policies (R80). -/
inductive CachePol where
  | dflt | strm | nl1
  deriving DecidableEq, Repr

/-- Access sizes, in code order 0 to 6 (R80). -/
inductive Size where
  | n8 | i8 | n16 | i16 | b32 | b64 | b128
  deriving DecidableEq, Repr

/-- Displacement and form of a memory operand (R191): the 8-bit immediate of the 64-bit form, the literal of the
96-bit form, or X1 with the order's scope in X0 of the 128-bit form. -/
inductive Disp where
  | short (i : BitVec 8)
  | long (d : Word)
  | ext (d : Word) (ord : Option Scope)
  deriving DecidableEq, Repr

/-- Address space of an atomic (R196). -/
inductive ASpace where
  | global | pd | cl
  deriving DecidableEq, Repr

/-- Displacement, space and order of an atomic by form (R81, R196). -/
inductive ADisp where
  | short
  | long (d : Word)
  | ext (sp : ASpace) (acq rel : Bool) (d : Word)
  deriving DecidableEq, Repr

/-- Atomic operations, in code order 0 to 10 (R81). -/
inductive AOp where
  | add | smin | umin | smax | umax | and | or | xor | xchg | cas | fadd
  deriving DecidableEq, Repr

/-- Modes of `shfl` (R87). -/
inductive ShflMode where
  | idx | up | dn | xor
  deriving DecidableEq, Repr

/-- Operations of `lred` and `scan` (R87). -/
inductive RedOp where
  | add | min | max | and | or | xor | fadd
  deriving DecidableEq, Repr

/-- `smp` level selection (R88). -/
inductive SmpMode where
  | implicit | lod | bias
  deriving DecidableEq, Repr

/-- `fence` kinds (R88). -/
inductive FenceKind where
  | full | acq | rel
  deriving DecidableEq, Repr

/-- `zdrn` conversions, in code order 0 to 5 (R89). -/
inductive DrnCv where
  | f32 | bf16 | f16 | e4m3 | i32 | i8
  deriving DecidableEq, Repr

/-- What the package's sensors read at one sample (R511, R512). -/
structure Sensors where
  tj : Nat
  thbm : Nat
  thub : Nat
  pavg1 : Nat
  pavg100 : Nat
  regulator : Bool
  flowLost : Bool
  deriving DecidableEq, Repr


/-- One constructor per row of spec/opcode_table.json. The first 137 are instructions of the Walard set, with
their operands as decoded; the others are device events, with what names the agent that moves and what the spec
leaves to it. The constructors without fields stand last. -/
inductive Instr where
  /-- `nop`, OPC 0x00 (R127). -/
  | nop (stay : Bool)
  /-- `bra`, OPC 0x01 (R128). -/
  | bra (ch : CHdr) (join : BitVec 20) (target : Word)
  /-- `brx`, OPC 0x02 (R129). -/
  | brx (ch : CHdr) (a : Opnd) (join : Word)
  /-- `call`, OPC 0x03 (R130). -/
  | call (ch : CHdr) (d : Opnd) (target : Word)
  /-- `callx`, OPC 0x04 (R130). -/
  | callx (ch : CHdr) (d a : Opnd)
  /-- `ret`, OPC 0x05 (R131). -/
  | ret (gd : Guard) (a : Opnd)
  /-- `exit`, OPC 0x06 (R132). -/
  | exit (gd : Guard)
  /-- `trap`, OPC 0x08 (R134). -/
  | trap (gd : Guard) (a : Opnd)
  /-- `brk`, OPC 0x0a (R135). -/
  | brk (h : Hdr)
  /-- `sysrd`, OPC 0x0c (R139). -/
  | sysrd (h : Hdr) (w64 : Bool) (d a : Opnd)
  /-- `syswr`, OPC 0x0d (R139). -/
  | syswr (h : Hdr) (w64 : Bool) (a b : Opnd)
  /-- `emrd`, OPC 0x0e (R137). -/
  | emrd (h : Hdr) (d : Opnd)
  /-- `emwr`, OPC 0x0f (R138). -/
  | emwr (gd : Guard) (a : Opnd)
  /-- `gmov`, OPC 0x10 (R149). -/
  | gmov (h : Hdr) (ty : IType) (d a : Opnd)
  /-- `gadd`, OPC 0x11 (R149). -/
  | gadd (h : Hdr) (ty : IType) (sat : Bool) (d a b : Opnd)
  /-- `gsub`, OPC 0x12 (R149). -/
  | gsub (h : Hdr) (ty : IType) (sat : Bool) (d a b : Opnd)
  /-- `gmul`, OPC 0x13 (R149). -/
  | gmul (h : Hdr) (ty : IType) (d a b : Opnd)
  /-- `gmulh`, OPC 0x14 (R149). -/
  | gmulh (h : Hdr) (ty : IType) (d a b : Opnd)
  /-- `gmad`, OPC 0x15 (R149). -/
  | gmad (h : Hdr) (ty : IType) (sat : Bool) (d a b c : Opnd)
  /-- `gand`, OPC 0x16 (R149). -/
  | gand (h : Hdr) (ty : IType) (d a b : Opnd)
  /-- `gor`, OPC 0x17 (R149). -/
  | gor (h : Hdr) (ty : IType) (d a b : Opnd)
  /-- `gxor`, OPC 0x18 (R149). -/
  | gxor (h : Hdr) (ty : IType) (d a b : Opnd)
  /-- `gshl`, OPC 0x19 (R149). -/
  | gshl (h : Hdr) (ty : IType) (d a b : Opnd)
  /-- `gshr`, OPC 0x1a (R149). -/
  | gshr (h : Hdr) (ty : IType) (d a b : Opnd)
  /-- `gsar`, OPC 0x1b (R149). -/
  | gsar (h : Hdr) (ty : IType) (d a b : Opnd)
  /-- `gmin`, OPC 0x1c (R149). -/
  | gmin (h : Hdr) (ty : IType) (d a b : Opnd)
  /-- `gmax`, OPC 0x1d (R149). -/
  | gmax (h : Hdr) (ty : IType) (d a b : Opnd)
  /-- `gcmp`, OPC 0x1e (R149). -/
  | gcmp (h : Hdr) (ty : IType) (cond : Cond) (d a b : Opnd)
  /-- `gsel`, OPC 0x1f (R149). -/
  | gsel (h : Hdr) (ty : IType) (d a b c : Opnd)
  /-- `glea`, OPC 0xd0 (R151). -/
  | glea (h : Hdr) (sh : BitVec 3) (d a b : Opnd)
  /-- `gbfx`, OPC 0xd1 (R150). -/
  | gbfx (h : Hdr) (ty : IType) (d a b : Opnd)
  /-- `gbfi`, OPC 0xd2 (R150). -/
  | gbfi (h : Hdr) (d a b c : Opnd)
  /-- `gclz`, OPC 0xd3 (R149). -/
  | gclz (h : Hdr) (ty : IType) (d a : Opnd)
  /-- `gpopc`, OPC 0xd4 (R149). -/
  | gpopc (h : Hdr) (ty : IType) (d a : Opnd)
  /-- `gld`, OPC 0xd5 (R192). -/
  | gld (h : Hdr) (sp : Space) (pol : CachePol) (sz : Size) (d a b : Opnd) (disp : Disp)
  /-- `gst`, OPC 0xd6 (R192). -/
  | gst (h : Hdr) (sp : Space) (pol : CachePol) (sz : Size) (d a b : Opnd) (disp : Disp)
  /-- `add`, OPC 0x20 (R156). -/
  | add (h : Hdr) (ty : IType) (sat : Bool) (d a b : Opnd)
  /-- `sub`, OPC 0x21 (R156). -/
  | sub (h : Hdr) (ty : IType) (sat : Bool) (d a b : Opnd)
  /-- `mul`, OPC 0x22 (R156). -/
  | mul (h : Hdr) (ty : IType) (d a b : Opnd)
  /-- `mulh`, OPC 0x23 (R156). -/
  | mulh (h : Hdr) (ty : IType) (d a b : Opnd)
  /-- `mad`, OPC 0x24 (R156). -/
  | mad (h : Hdr) (ty : IType) (sat : Bool) (d a b c : Opnd)
  /-- `and`, OPC 0x25 (R156). -/
  | and (h : Hdr) (ty : IType) (d a b : Opnd)
  /-- `or`, OPC 0x26 (R156). -/
  | or (h : Hdr) (ty : IType) (d a b : Opnd)
  /-- `xor`, OPC 0x27 (R156). -/
  | xor (h : Hdr) (ty : IType) (d a b : Opnd)
  /-- `shl`, OPC 0x28 (R156). -/
  | shl (h : Hdr) (ty : IType) (d a b : Opnd)
  /-- `shr`, OPC 0x29 (R156). -/
  | shr (h : Hdr) (ty : IType) (d a b : Opnd)
  /-- `sar`, OPC 0x2a (R156). -/
  | sar (h : Hdr) (ty : IType) (d a b : Opnd)
  /-- `min`, OPC 0x2b (R156). -/
  | min (h : Hdr) (ty : IType) (d a b : Opnd)
  /-- `max`, OPC 0x2c (R156). -/
  | max (h : Hdr) (ty : IType) (d a b : Opnd)
  /-- `abs`, OPC 0x2d (R156). -/
  | abs (h : Hdr) (ty : IType) (sat : Bool) (d a : Opnd)
  /-- `sel`, OPC 0x2e (R156). -/
  | sel (h : Hdr) (ty : IType) (d a b c : Opnd)
  /-- `cmp`, OPC 0x2f (R156). -/
  | cmp (h : Hdr) (ty : IType) (cond : Cond) (d a b : Opnd)
  /-- `bfx`, OPC 0x30 (R157). -/
  | bfx (h : Hdr) (ty : IType) (d a b : Opnd)
  /-- `bfi`, OPC 0x31 (R157). -/
  | bfi (h : Hdr) (d a b c : Opnd)
  /-- `clz`, OPC 0x32 (R157). -/
  | clz (h : Hdr) (ty : IType) (d a : Opnd)
  /-- `popc`, OPC 0x33 (R157). -/
  | popc (h : Hdr) (ty : IType) (d a : Opnd)
  /-- `brev`, OPC 0x34 (R157). -/
  | brev (h : Hdr) (ty : IType) (d a : Opnd)
  /-- `idp4`, OPC 0x35 (R157). -/
  | idp4 (h : Hdr) (aN bN sat : Bool) (d a b c : Opnd)
  /-- `sad`, OPC 0x36 (R157). -/
  | sad (h : Hdr) (ty : IType) (d a b c : Opnd)
  /-- `addc`, OPC 0x37 (R157). -/
  | addc (h : Hdr) (d a b c : Opnd)
  /-- `pand`, OPC 0x38 (R159). -/
  | pand (h : Hdr) (d a b : Opnd)
  /-- `por`, OPC 0x39 (R159). -/
  | por (h : Hdr) (d a b : Opnd)
  /-- `pxor`, OPC 0x3a (R159). -/
  | pxor (h : Hdr) (d a b : Opnd)
  /-- `pnot`, OPC 0x3b (R159). -/
  | pnot (h : Hdr) (d a : Opnd)
  /-- `vany`, OPC 0x3c (R160). -/
  | vany (h : Hdr) (d a : Opnd)
  /-- `vall`, OPC 0x3d (R160). -/
  | vall (h : Hdr) (d a : Opnd)
  /-- `vbal`, OPC 0x3e (R161). -/
  | vbal (h : Hdr) (d a : Opnd)
  /-- `mbcnt`, OPC 0x3f (R161). -/
  | mbcnt (h : Hdr) (d a : Opnd)
  /-- `fadd`, OPC 0x40 (R162). -/
  | fadd (h : Hdr) (fty : FType) (absa : Bool) (rnd : Rnd) (na nb : Bool) (d a b : Opnd)
  /-- `fsub`, OPC 0x41 (R162). -/
  | fsub (h : Hdr) (fty : FType) (absa : Bool) (rnd : Rnd) (na nb : Bool) (d a b : Opnd)
  /-- `fmul`, OPC 0x42 (R162). -/
  | fmul (h : Hdr) (fty : FType) (absa : Bool) (rnd : Rnd) (na nb : Bool) (d a b : Opnd)
  /-- `fma`, OPC 0x43 (R162). -/
  | fma (h : Hdr) (fty : FType) (absa : Bool) (rnd : Rnd) (na nc : Bool) (d a b c : Opnd)
  /-- `fmin`, OPC 0x44 (R163). -/
  | fmin (h : Hdr) (fty : FType) (absa na nb : Bool) (d a b : Opnd)
  /-- `fmax`, OPC 0x45 (R163). -/
  | fmax (h : Hdr) (fty : FType) (absa na nb : Bool) (d a b : Opnd)
  /-- `fcmp`, OPC 0x46 (R164). -/
  | fcmp (h : Hdr) (fty : FType) (absa : Bool) (fc : FCond) (d a b : Opnd)
  /-- `frnd`, OPC 0x47 (R165). -/
  | frnd (h : Hdr) (fty : FType) (rnd : Rnd) (d a : Opnd)
  /-- `fclass`, OPC 0x48 (R166). -/
  | fclass (h : Hdr) (fty : FType) (d a : Opnd)
  /-- `fscl`, OPC 0x49 (R167). -/
  | fscl (h : Hdr) (fty : FType) (rnd : Rnd) (d a b : Opnd)
  /-- `fdp2`, OPC 0x4a (R168). -/
  | fdp2 (h : Hdr) (fty : FType) (rnd : Rnd) (na nc : Bool) (d a b c : Opnd)
  /-- `rcp`, OPC 0x50 (R169). -/
  | rcp (h : Hdr) (fty : FType) (ieee : Bool) (d a : Opnd)
  /-- `rsq`, OPC 0x51 (R169). -/
  | rsq (h : Hdr) (fty : FType) (d a : Opnd)
  /-- `sqt`, OPC 0x52 (R169). -/
  | sqt (h : Hdr) (fty : FType) (ieee : Bool) (d a : Opnd)
  /-- `ex2`, OPC 0x53 (R169). -/
  | ex2 (h : Hdr) (fty : FType) (d a : Opnd)
  /-- `lg2`, OPC 0x54 (R169). -/
  | lg2 (h : Hdr) (fty : FType) (d a : Opnd)
  /-- `sin`, OPC 0x55 (R169). -/
  | sin (h : Hdr) (fty : FType) (d a : Opnd)
  /-- `cos`, OPC 0x56 (R169). -/
  | cos (h : Hdr) (fty : FType) (d a : Opnd)
  /-- `tnh`, OPC 0x57 (R169). -/
  | tnh (h : Hdr) (fty : FType) (d a : Opnd)
  /-- `cvt`, OPC 0x58 (R172). -/
  | cvt (h : Hdr) (dt st : CType) (rnd : Rnd) (sat : Bool) (d a : Opnd)
  /-- `cvtp`, OPC 0x59 (R173). -/
  | cvtp (h : Hdr) (fty : FType) (rnd : Rnd) (sat : Bool) (d a b : Opnd)
  /-- `cvtq`, OPC 0x5a (R174). -/
  | cvtq (h : Hdr) (e5 sat : Bool) (pos : BitVec 2) (d a b : Opnd)
  /-- `shfl`, OPC 0x60 (R176). -/
  | shfl (h : Hdr) (ty : IType) (mode : ShflMode) (d a b : Opnd)
  /-- `rdfl`, OPC 0x61 (R177). -/
  | rdfl (h : Hdr) (ty : IType) (d a : Opnd)
  /-- `rdln`, OPC 0x62 (R177). -/
  | rdln (h : Hdr) (ty : IType) (d a b : Opnd)
  /-- `lred`, OPC 0x63 (R178). -/
  | lred (h : Hdr) (ty : IType) (op : RedOp) (d a : Opnd)
  /-- `scan`, OPC 0x64 (R179). -/
  | scan (h : Hdr) (ty : IType) (op : RedOp) (exc : Bool) (d a : Opnd)
  /-- `cmpk`, OPC 0x65 (R180). -/
  | cmpk (h : Hdr) (ty : IType) (d a b c : Opnd)
  /-- `expd`, OPC 0x66 (R181). -/
  | expd (h : Hdr) (ty : IType) (d a b : Opnd)
  /-- `bperm`, OPC 0x67 (R182). -/
  | bperm (h : Hdr) (byte : Bool) (d a b : Opnd)
  /-- `ld`, OPC 0x70 (R192). -/
  | ld (h : Hdr) (sp : Space) (pol : CachePol) (sz : Size) (d a b : Opnd) (disp : Disp)
  /-- `st`, OPC 0x71 (R192). -/
  | st (h : Hdr) (sp : Space) (pol : CachePol) (sz : Size) (d a b : Opnd) (disp : Disp)
  /-- `prf`, OPC 0x72 (R195). -/
  | prf (h : Hdr) (l1 : Bool) (a b : Opnd) (disp : Disp)
  /-- `smp`, OPC 0x73 (R227). -/
  | smp (h : Hdr) (mask : BitVec 4) (mode : SmpMode) (d a b c : Opnd) (ou ov ow : BitVec 4)
  /-- `tld`, OPC 0x74 (R231). -/
  | tld (h : Hdr) (mask : BitVec 4) (d a b : Opnd)
  /-- `atm`, OPC 0x80 (R197). -/
  | atm (h : Hdr) (op : AOp) (sc : Scope) (w64 : Bool) (d a b c : Opnd) (ad : ADisp)
  /-- `ared`, OPC 0x81 (R197). -/
  | ared (h : Hdr) (op : AOp) (sc : Scope) (w64 : Bool) (a b c : Opnd) (ad : ADisp)
  /-- `atmc`, OPC 0x82 (R201). -/
  | atmc (h : Hdr) (sc : Scope) (w64 : Bool) (d a b c : Opnd) (tmpl : DWord)
  /-- `fence`, OPC 0x83 (R203). -/
  | fence (h : Hdr) (kind : FenceKind) (sc : Scope)
  /-- `bini`, OPC 0x84 (R207). -/
  | bini (h : Hdr) (a b c : Opnd)
  /-- `arv`, OPC 0x85 (R208). -/
  | arv (h : Hdr) (sc : Scope) (d a : Opnd)
  /-- `xpct`, OPC 0x86 (R208). -/
  | xpct (h : Hdr) (a b : Opnd)
  /-- `waitp`, OPC 0x87 (R209). -/
  | waitp (h : Hdr) (sc : Scope) (a b : Opnd)
  /-- `watch`, OPC 0x88 (R212). -/
  | watch (h : Hdr) (a b : Opnd)
  /-- `bcls`, OPC 0x89 (R211). -/
  | bcls (h : Hdr) (d : Opnd)
  /-- `acp`, OPC 0x90 (R217). -/
  | acp (h : Hdr) (out twoD : Bool) (d a b c : Opnd) (len : BitVec 20) (rows : BitVec 12) (gs : BitVec 20) (ps : BitVec 12)
  /-- `amc`, OPC 0x91 (R218). -/
  | amc (h : Hdr) (d a b c : Opnd) (len : BitVec 20)
  /-- `gang`, OPC 0xa0 (R247). -/
  | gang (stay : Bool) (k : BitVec 2) (a : Opnd)
  /-- `eset`, OPC 0xa1 (R247). -/
  | eset (stay : Bool) (e : BitVec 3) (a : Opnd)
  /-- `mma`, OPC 0xa2 (R249). -/
  | mma (ls : Bool) (k : BitVec 2) (a b c : Opnd) (er ec : BitVec 3) (kc : BitVec 8) (fbpd : Bool)
  /-- `zclr`, OPC 0xa3 (R251). -/
  | zclr (h : Hdr) (a b : Opnd)
  /-- `zld`, OPC 0xa4 (R253). -/
  | zld (h : Hdr) (a b : Opnd)
  /-- `zdrn`, OPC 0xa5 (R255). -/
  | zdrn (h : Hdr) (acc : Bool) (cv : DrnCv) (a b c : Opnd) (pd : Bool) (row0 rows cols : BitVec 6) (shift : BitVec 5) (col0 : BitVec 6) (stride : Word)
  /-- `zprg`, OPC 0xa6 (R258). -/
  | zprg (h : Hdr) (d a : Opnd)
  /-- `zgrow`, OPC 0xa7 (R252). -/
  | zgrow (h : Hdr) (d a : Opnd)
  /-- `zfree`, OPC 0xa8 (R251). -/
  | zfree (h : Hdr) (a b : Opnd)
  /-- `talc`, OPC 0xb0 (R263). -/
  | talc (h : Hdr) (d a : Opnd)
  /-- `tsub`, OPC 0xb1 (R265). -/
  | tsub (h : Hdr) (node : Bool) (sc : Scope) (a b : Opnd)
  /-- `tsig`, OPC 0xb2 (R267). -/
  | tsig (h : Hdr) (sc : Scope) (a : Opnd)
  /-- `role`, OPC 0xb4 (R269). -/
  | role (a : Opnd)
  /-- `covr`, OPC 0xb5 (R273). -/
  | covr (h : Hdr) (a b c : Opnd) (obj : BitVec 8)
  /-- `bqry`, OPC 0xc0 (R275). -/
  | bqry (h : Hdr) (d a b c : Opnd) (node : Word)
  /-- `bres`, OPC 0xc1 (R277). -/
  | bres (h : Hdr) (d a : Opnd)
  /-- `ctrd`, OPC 0xc2 (R278). -/
  | ctrd (h : Hdr) (d a : Opnd)
  /-- `mark`, OPC 0xc3 (R279). -/
  | mark (h : Hdr) (a b : Opnd)
  /-- LOAD_RETIRE (R190). -/
  | loadRetire (grp idx : Nat)
  /-- SFU_RETIRE (R155). -/
  | sfuRetire (grp : Nat)
  /-- PORT_ANSWER (R188). -/
  | portAnswer (grp : Nat)
  /-- WAITP_WAKE (R209). -/
  | waitpWake (grp : Nat)
  /-- WATCH_MONITOR_COMPLETE (R212). -/
  | watchMonitorComplete (core mon : Nat)
  /-- ACP_COMPLETION (R220). -/
  | acpCompletion (op : Nat)
  /-- AMC_COMPLETION (R220). -/
  | amcCompletion (op : Nat)
  /-- MMA_OPERATION_COMPLETE (R250). -/
  | mmaOperationComplete (op : Nat)
  /-- ZLD_COMPLETION (R253). -/
  | zldCompletion (op : Nat)
  /-- ZDRN_COMPLETION (R257). -/
  | zdrnCompletion (op : Nat)
  /-- RANGE_LOCK_ENTRY_FREE (R210). -/
  | rangeLockEntryFree (grp : Nat)
  /-- COVR_TILE_EMIT (R365). -/
  | covrTileEmit (op : Nat)
  /-- COVR_COMPLETION (R273). -/
  | covrCompletion (op : Nat)
  /-- BEAM_SPLIT (R378). -/
  | beamSplit (q beam child : Nat)
  /-- BEAM_SPAWN (R383). -/
  | beamSpawn (q beam child tri : Nat)
  /-- BEAM_QUERY_END (R385). -/
  | beamQueryEnd (q : Nat)
  /-- BEAM_TRAVERSAL_FAULT (R275). -/
  | beamTraversalFault (q : Nat)
  /-- STATION_LAUNCH (R359). -/
  | stationLaunch (st idx : Nat)
  /-- NODE_BATCH_TIMEOUT (R357). -/
  | nodeBatchTimeout (tag node : Nat)
  /-- TASK_PLACEMENT (R348). -/
  | taskPlacement (item core : Nat)
  /-- TASK_SLOTS_RETURN (R349). -/
  | taskSlotsReturn (team : Nat)
  /-- TEAM_TILES_RETURN (R244). -/
  | teamTilesReturn (team : Nat)
  /-- DISPATCHER_VISIT (R326). -/
  | dispatcherVisit (tag : Nat)
  /-- ASYNC_STOP_LANDS (R32). -/
  | asyncStopLands (grp : Nat)
  /-- FINE_PREEMPTION (R336). -/
  | finePreemption (team : Nat)
  /-- REMAP_ENTRY_INSTALL (R337). -/
  | remapEntryInstall (slice team : Nat)
  /-- REMAP_ENTRY_FREE (R338). -/
  | remapEntryFree (slice team : Nat)
  /-- TIME_SLICE_END (R339). -/
  | timeSliceEnd (slice : Nat)
  /-- BARRIER_POINT_SAVE (R339). -/
  | barrierPointSave (team : Nat)
  /-- BARRIER_POINT_LIMIT (R340). -/
  | barrierPointLimit (team : Nat)
  /-- TEAM_RESUME (R341). -/
  | teamResume (team : Nat)
  /-- WATCHDOG_FIRE (R343). -/
  | watchdogFire (slice tag : Nat)
  /-- EXTERNAL_WAIT_ADVISORY (R344). -/
  | externalWaitAdvisory (slice tag : Nat)
  /-- PC_MATCH_FIRE (R412). -/
  | pcMatchFire (grp : Nat)
  /-- WATCHPOINT_DELIVERY (R416). -/
  | watchpointDelivery (grp : Nat)
  /-- CLUSTER_HALT_LANDS (R432). -/
  | clusterHaltLands (core : Nat)
  /-- TRACE_SAMPLE (R408). -/
  | traceSample (cluster : Nat)
  /-- DBG_HALT (R419). -/
  | dbgHalt (fn slice cl : Nat)
  /-- DBG_RESUME (R422). -/
  | dbgResume (fn slice cl : Nat)
  /-- DBG_STEP (R421). -/
  | dbgStep (fn slice cl core slot : Nat)
  /-- TR_ENABLE (R408). -/
  | trEnable (fn slice cl : Nat) (val : Word)
  /-- TR_RPTR_WRITE (R408). -/
  | trRptrWrite (fn slice cl : Nat) (val : DWord)
  /-- CB_CLEAR (R426). -/
  | cbClear (fn slice bank : Nat) (val : Word)
  /-- HALF_WORD_LATCH_READ (R427). -/
  | halfWordLatchRead (fn off : Nat)
  /-- CX_LOAD (R445). -/
  | cxLoad (fn : Nat)
  /-- TI_INVALIDATE_RANGE (R446). -/
  | tiInvalidateRange (fn : Nat) (ctl : Word)
  /-- TI_INVALIDATE_ALL (R446). -/
  | tiInvalidateAll (fn : Nat) (ctl : Word)
  /-- INVALIDATION_COMPLETE (R446). -/
  | invalidationComplete (fn : Nat)
  /-- ELASTIC_HANDOVER (R448). -/
  | elasticHandover (cl : Nat)
  /-- LEASE_DURATION_EXPIRY (R456). -/
  | leaseDurationExpiry (handle : Nat)
  /-- SHED_NOTIFY (R452). -/
  | shedNotify (fn ring : Nat)
  /-- SHED_LEASE_END (R452). -/
  | shedLeaseEnd (fn ring : Nat)
  /-- SHED_ENTRY_COMPLETE (R452). -/
  | shedEntryComplete (fn ring : Nat)
  /-- COLLECTIVE_COMPLETE (R453). -/
  | collectiveComplete (fn ring : Nat) (peers : (List (List Byte)))
  /-- ABORT_FLIT (R475). -/
  | abortFlit (coll dev : Nat)
  /-- ENCODE_FRAME_START (R461). -/
  | encodeFrameStart (slice : Nat)
  /-- SUPERBLOCK_ROW_ENCODE (R461). -/
  | superblockRowEncode (slice : Nat)
  /-- FRAME_ABANDON (R461). -/
  | frameAbandon (slice : Nat)
  /-- PACKET_WRITE (R462). -/
  | packetWrite (slice : Nat)
  /-- HBM_UE_DETECTED (R471). -/
  | hbmUeDetected (pa : Nat) (gid : Word)
  /-- CORRECTED_EVENT_SUMMARY (R466). -/
  | correctedEventSummary (tag slice struct count : Nat)
  /-- PF_REPLAY (R302). -/
  | pfReplay (fn : Nat) (gid : Word)
  /-- PF_CANCEL (R302). -/
  | pfCancel (fn : Nat) (gid : Word)
  /-- SLICE_RESET (R474). -/
  | sliceReset (mask : (BitVec 16))
  /-- VF_RESET (R475). -/
  | vfReset (tag : Nat)
  /-- FUNCTION_LEVEL_RESET (R485). -/
  | functionLevelReset (fn : Nat)
  /-- DEVICE_FATAL (R476). -/
  | deviceFatal (cause : Nat)
  /-- SLICE_BRINGUP (R495). -/
  | sliceBringup (slice : Nat) (ok : Bool)
  /-- FW_ERASE (R497). -/
  | fwErase (port : Nat)
  /-- FW_WRITE_PAGE (R497). -/
  | fwWritePage (port : Nat)
  /-- FW_VERIFY (R497). -/
  | fwVerify (port : Nat)
  /-- FW_SELECT (R497). -/
  | fwSelect (port : Nat)
  /-- FW_RAISE_SVN (R497). -/
  | fwRaiseSvn (port : Nat)
  /-- SPDM_GET_CERTIFICATE (R498). -/
  | spdmGetCertificate (fn : Nat)
  /-- SPDM_CHALLENGE (R498). -/
  | spdmChallenge (fn nonce : Nat)
  /-- SPDM_GET_MEASUREMENTS (R519). -/
  | spdmGetMeasurements (fn nonce : Nat)
  /-- OWN_CLAIM (R500). -/
  | ownClaim (port prio : Nat)
  /-- OWN_WITHDRAW (R499). -/
  | ownWithdraw (port : Nat)
  /-- OWN_RENEW (R499). -/
  | ownRenew (port : Nat)
  /-- OWN_HAND (R500). -/
  | ownHand (port target : Nat)
  /-- SQ_ENABLE (R488). -/
  | sqEnable (fn q : Nat) (ctl : Word)
  /-- SQ_DOORBELL (R488). -/
  | sqDoorbell (fn q : Nat) (tail : Word)
  /-- ENTRY_READ (R490). -/
  | entryRead (fn q : Nat)
  /-- LAUNCH (R489). -/
  | launch (sub : Nat)
  /-- FENCE_WAIT (R492). -/
  | fenceWait (sub : Nat)
  /-- FENCE_WAIT_REREAD (R492). -/
  | fenceWaitReread (sub : Nat)
  /-- FENCE_SIGNAL (R492). -/
  | fenceSignal (sub : Nat)
  /-- NO_OPERATION (R492). -/
  | noOperation (sub : Nat)
  /-- SUBMISSION_COMPLETE (R362). -/
  | submissionComplete (sub : Nat)
  /-- APERTURE_WRITE (R486). -/
  | apertureWrite (fn off : Nat) (data : (List Byte))
  /-- APERTURE_READ (R486). -/
  | apertureRead (fn off len : Nat)
  /-- FLIT_RECEIVED (R482). -/
  | flitReceived (port : Nat) (seq ack : (BitVec 10)) (nak crcOk : Bool)
  /-- LINK_RETRAIN (R482). -/
  | linkRetrain (port : Nat)
  /-- PORT_DOWN (R482). -/
  | portDown (port : Nat)
  /-- PORT_RETRY (R482). -/
  | portRetry (port : Nat)
  /-- PEER_REQUEST (R502). -/
  | peerRequest (dev tag : Nat) (write : Bool) (addr : Nat) (data : (List Byte))
  /-- TELEMETRY_SAMPLE (R511). -/
  | telemetrySample (s : Sensors)
  /-- THERMAL_TRIP (R514). -/
  | thermalTrip (cause : Nat)
  /-- REGISTER_WRITE (R3). -/
  | registerWrite (fn off : Nat) (val : DWord) (wide : Bool)
  /-- UNASSIGNED_OPC (R71). -/
  | unassignedOpc (w : Word)
  /-- STORE_ACKNOWLEDGE (R318). -/
  | storeAcknowledge (grp : Nat)
  /-- ENGINE_BYTES_LAND (R217). -/
  | engineBytesLand (op n : Nat)
  /-- BEAM_ENDS (R385). -/
  | beamEnds (q beam : Nat)
  /-- EXTERNAL_INTERRUPT (R32). -/
  | externalInterrupt (grp : Nat)
  /-- ARITHMETIC_CLOCK (R423). -/
  | arithmeticClock (sched : Nat)
  /-- TOKEN_CHARGE (R450). -/
  | tokenCharge (tag amount : Nat)
  /-- LINK_RETRAINED (R482). -/
  | linkRetrained (port : Nat)
  /-- `yield`, OPC 0x07 (R133). -/
  | yield
  /-- `eret`, OPC 0x09 (R136). -/
  | eret
  /-- `mhret`, OPC 0x0b (R136). -/
  | mhret
  /-- `tend`, OPC 0xb3 (R268). -/
  | tend
  /-- WATCHPOINT_HIT (R415). -/
  | watchpointHit
  /-- ASSIGN (R441). -/
  | assign
  /-- ASSIGN_SHARED (R441). -/
  | assignShared
  /-- FUSE (R442). -/
  | fuse
  /-- SPLIT (R443). -/
  | split
  /-- SPLIT_TIMEOUT (R443). -/
  | splitTimeout
  /-- RELEASE (R441). -/
  | release
  /-- KEY_ASSIGN (R459). -/
  | keyAssign
  /-- KEY_SHARE (R459). -/
  | keyShare
  /-- KEY_RETURN (R459). -/
  | keyReturn
  /-- WINDOW (R460). -/
  | window
  /-- ELASTIC (R447). -/
  | elastic
  /-- ELASTIC_RELEASE (R447). -/
  | elasticRelease
  /-- LEASE (R454). -/
  | lease
  /-- REVOKE (R456). -/
  | revoke
  /-- TOKENS (R449). -/
  | tokens
  /-- WAYS (R457). -/
  | ways
  /-- LIMITS (R445). -/
  | limits
  /-- CLAIM (R463). -/
  | claim
  /-- CLAIM_RELEASE (R428). -/
  | claimRelease
  /-- TOKEN_PERIOD_BOUNDARY (R449). -/
  | tokenPeriodBoundary
  /-- RESET_ESCALATION (R474). -/
  | resetEscalation
  /-- POWER_GOOD (R495). -/
  | powerGood
  /-- STAGE_S2 (R495). -/
  | stageS2
  /-- PACKAGE_COLD_RESET (R495). -/
  | packageColdReset
  /-- ELECTION_CLOSE (R500). -/
  | electionClose
  /-- OWNER_LEASE_EXPIRY (R500). -/
  | ownerLeaseExpiry
  /-- LIFE_COUNTER_FLUSH (R515). -/
  | lifeCounterFlush
  /-- ORDERLY_POWER_DOWN (R515). -/
  | orderlyPowerDown
  /-- LC_SNAPSHOT (R516). -/
  | lcSnapshot
  /-- ABRUPT_LOSS_OF_POWER (R515). -/
  | abruptLossOfPower
  deriving DecidableEq, Repr

end Sys2Proof
end

