-- ==== Sys2Proof/Machine/Num.lean ====
section
/-!
DEFINITION. Number formats and arithmetic (spec/04 R91–R109): decoding to exact values, the four roundings, tininess
after rounding, flags, saturation, and the integer helpers sat and wrap.
-/
namespace Sys2Proof.Machine

/-- A floating-point format (R91): exponent and fraction bits, bias, and whether it is e4m3, which has no infinity. -/
structure Fmt where
  ebits : Nat
  mbits : Nat
  bias : Nat
  e4m3 : Bool
  snan : Bool
  deriving DecidableEq, Repr

def fmtF64 : Fmt := ⟨11, 52, 1023, false, true⟩
def fmtF32 : Fmt := ⟨8, 23, 127, false, true⟩
def fmtF16 : Fmt := ⟨5, 10, 15, false, true⟩
def fmtBf16 : Fmt := ⟨8, 7, 127, false, true⟩
def fmtE4m3 : Fmt := ⟨4, 3, 7, true, false⟩
def fmtE5m2 : Fmt := ⟨5, 2, 15, false, false⟩

/-- The sign bit of a format. -/
def Fmt.signBit (F : Fmt) : Nat := 2 ^ (F.ebits + F.mbits)
/-- Width of an encoding. -/
def Fmt.width (F : Fmt) : Nat := F.ebits + F.mbits + 1
/-- The encoding of +∞ (R91); unused for e4m3. -/
def Fmt.infEnc (F : Fmt) : Nat := (2 ^ F.ebits - 1) * 2 ^ F.mbits
/-- The encoding of the largest finite value (R91). -/
def Fmt.maxEnc (F : Fmt) : Nat := if F.e4m3 then 0x7E else F.infEnc - 1
/-- The canonical NaN (R94). -/
def Fmt.canonNan (F : Fmt) : Nat := if F.e4m3 then 0x7F else F.infEnc + 2 ^ (F.mbits - 1)
/-- The exponent of the smallest subnormal step. -/
def Fmt.qmin (F : Fmt) : Int := 1 - (F.bias : Int) - (F.mbits : Int)

/-- The exact value of an encoding: (−1)^s × m × 2^e, an infinity, or a NaN. -/
inductive FV where
  | nan (signalling : Bool)
  | inf (s : Bool)
  | fin (s : Bool) (m : Nat) (e : Int)
  deriving DecidableEq, Repr

/-- Classification of an encoding (R92, R93). -/
def Fmt.value (F : Fmt) (x : Nat) : FV :=
  let s := bit x (F.ebits + F.mbits)
  let ex := bits x F.mbits F.ebits
  let fr := bits x 0 F.mbits
  if F.e4m3 && ex == 15 && fr == 7 then .nan false
  else if !F.e4m3 && ex == 2 ^ F.ebits - 1 then
    if fr = 0 then .inf s else .nan (F.snan && !bit x (F.mbits - 1))
  else if ex = 0 then .fin s fr F.qmin
  else .fin s (2 ^ F.mbits + fr) (F.qmin + (ex : Int) - 1)

/-- Is the encoding a non-zero subnormal? -/
def Fmt.isSub (F : Fmt) (x : Nat) : Bool := bits x F.mbits F.ebits == 0 && bits x 0 F.mbits != 0

/-- The flags of SR_FFLAGS an operation raises: NV bit 0, DZ 1, OF 2, UF 3, NX 4, ID 5 (R103). -/
abbrev Flags := BitVec 6
def flNV : Flags := 1
def flDZ : Flags := 2
def flOF : Flags := 4
def flUF : Flags := 8
def flNX : Flags := 16
def flID : Flags := 32

/-- A result pattern and the flags raised. -/
structure FR where
  x : Nat
  fl : Flags
  deriving DecidableEq, Repr

/-- Does rounding increment? `rem` of 2^d was discarded after quotient n, plus a sticky amount below one unit. -/
def roundUp (md : Rnd) (s : Bool) (n rem d : Nat) (sticky : Bool) : Bool :=
  let inexact := rem != 0 || sticky
  match md with
  | .rz => false
  | .rp => inexact && !s
  | .rm => inexact && s
  | .rn =>
    if d = 0 then false
    else
      let half := 2 ^ (d - 1)
      decide (half < rem) || (rem == half && (sticky || n % 2 == 1))

/-- Round m × 2^e (plus a sticky amount below 2^e) to a multiple of 2^q: the quotient and whether it is inexact. -/
def roundAt (md : Rnd) (s : Bool) (m : Nat) (e q : Int) (sticky : Bool) : Nat × Bool :=
  if q ≤ e then (m * 2 ^ (e - q).toNat, sticky)
  else
    let d := (q - e).toNat
    let n := m / 2 ^ d
    let rem := m % 2 ^ d
    (if roundUp md s n rem d sticky then n + 1 else n, rem != 0 || sticky)

/-- The overflow result of R98, with e4m3's NaN. -/
def Fmt.overflow (F : Fmt) (md : Rnd) (s : Bool) : Nat :=
  let toInf := match md with | .rn => true | .rz => false | .rp => !s | .rm => s
  if toInf then (if F.e4m3 then F.canonNan else F.infEnc + (if s then F.signBit else 0))
  else F.maxEnc + (if s then F.signBit else 0)

/-- round(x, F, rm) for x = (−1)^s (m + sticky part) 2^e, m ≠ 0 (R97–R100). With sticky, m has more bits than F keeps. -/
def Fmt.round (F : Fmt) (md : Rnd) (s : Bool) (m : Nat) (e : Int) (sticky : Bool) : FR :=
  let sg := if s then F.signBit else 0
  let qU := (Nat.log2 m : Int) + e - (F.mbits : Int)
  let q := if qU < F.qmin then F.qmin else qU
  let (n, inexact) := roundAt md s m e q sticky
  let enc := (q - F.qmin).toNat * 2 ^ F.mbits + n
  if F.maxEnc < enc then ⟨F.overflow md s, flOF ||| flNX⟩
  else
    let tiny :=
      if qU < F.qmin then
        decide ((roundAt md s m e qU sticky).1 < 2 ^ ((F.qmin + (F.mbits : Int) - qU).toNat))
      else false
    ⟨enc + sg, (if inexact then flNX else 0) ||| (if inexact && tiny then flUF else 0)⟩

/-- round, of a value that may be zero; a zero takes the given sign. -/
def Fmt.roundZ (F : Fmt) (md : Rnd) (s : Bool) (m : Nat) (e : Int) : FR :=
  if m = 0 then ⟨if s then F.signBit else 0, 0⟩ else F.round md s m e false

/-- round_sat(x, F, rm): ±∞ and overflow NaN become ±max (R105). -/
def Fmt.satOf (F : Fmt) (s : Bool) (r : FR) : FR :=
  if (r.fl &&& flOF) ≠ 0 then ⟨F.maxEnc + (if s then F.signBit else 0), r.fl⟩ else r

/-- Does SR_FMODE flush this format? f64 by FZ64, f32, f16 and bf16 by FZ32, the 8-bit formats never (R102). -/
def Fmt.flush (F : Fmt) (fmode : BitVec 2) : Bool :=
  if F.ebits = 11 then fmode.getLsbD 1 else if F.snan then fmode.getLsbD 0 else false

/-- ftz_in(a, F) (R105). -/
def ftzIn (F : Fmt) (fz : Bool) (x : Nat) : FR :=
  if fz && F.isSub x then ⟨x / F.signBit * F.signBit, flID⟩ else ⟨x, 0⟩

/-- ftz_out(y, F) (R105). -/
def ftzOut (F : Fmt) (fz : Bool) (r : FR) : FR :=
  if fz && F.isSub r.x then ⟨r.x / F.signBit % 2 * F.signBit, r.fl ||| flUF ||| flNX⟩ else r

/-- An infinity or, in e4m3, the canonical NaN. -/
def Fmt.inf (F : Fmt) (s : Bool) : Nat :=
  if F.e4m3 then F.canonNan else F.infEnc + (if s then F.signBit else 0)

/-- The invalid result (R101). -/
def Fmt.invalid (F : Fmt) : FR := ⟨F.canonNan, flNV⟩

/-- The signed numerator of a finite value over 2^e. -/
def signedAt (s : Bool) (m : Nat) (e lo : Int) : Int :=
  let n : Int := ((m * 2 ^ (e - lo).toNat : Nat) : Int)
  if s then -n else n

/-- Sum of two finite values, rounded, with the zero signs of R99. -/
def addFin (F : Fmt) (md : Rnd) (s1 : Bool) (m1 : Nat) (e1 : Int) (s2 : Bool) (m2 : Nat) (e2 : Int) : FR :=
  let lo := if e1 ≤ e2 then e1 else e2
  let t := signedAt s1 m1 e1 lo + signedAt s2 m2 e2 lo
  if t = 0 then
    if m1 = 0 && m2 = 0 && s1 == s2 then ⟨if s1 then F.signBit else 0, 0⟩
    else ⟨if md = .rm then F.signBit else 0, 0⟩
  else F.round md (decide (t < 0)) t.natAbs lo false

/-- a + b on values; NaNs excluded by the caller. -/
def addVal (F : Fmt) (md : Rnd) (a b : FV) : FR :=
  match a, b with
  | .inf s, .inf t => if s == t then ⟨F.inf s, 0⟩ else F.invalid
  | .inf s, _ => ⟨F.inf s, 0⟩
  | _, .inf t => ⟨F.inf t, 0⟩
  | .fin s1 m1 e1, .fin s2 m2 e2 => addFin F md s1 m1 e1 s2 m2 e2
  | _, _ => ⟨F.canonNan, 0⟩

/-- a × b as a value; none for 0 × ∞ (R101). -/
def mulVal (a b : FV) : Option FV :=
  match a, b with
  | .inf s, .inf t => some (.inf (s != t))
  | .inf s, .fin t m _ => if m = 0 then none else some (.inf (s != t))
  | .fin s m _, .inf t => if m = 0 then none else some (.inf (s != t))
  | .fin s1 m1 e1, .fin s2 m2 e2 => some (.fin (s1 != s2) (m1 * m2) (e1 + e2))
  | .nan q, _ => some (.nan q)
  | _, .nan q => some (.nan q)

/-- Round a value that is not a NaN. -/
def roundVal (F : Fmt) (md : Rnd) : FV → FR
  | .nan _ => ⟨F.canonNan, 0⟩
  | .inf s => ⟨F.inf s, 0⟩
  | .fin s m e => F.roundZ md s m e

/-- Is the value a NaN? -/
def FV.isNan : FV → Bool
  | .nan _ => true
  | _ => false

/-- NV for a signalling NaN among the values. -/
def snanFlag : List FV → Flags
  | [] => 0
  | .nan true :: vs => flNV ||| snanFlag vs
  | _ :: vs => snanFlag vs

/-- The NaN half of fp_apply (R105): sources already flushed; f gives the result when none is a NaN. -/
def nanGate (F : Fmt) (vs : List FV) (r : FR) : FR :=
  if vs.any FV.isNan then ⟨F.canonNan, snanFlag vs⟩ else r

/-- fp_apply with two sources (R105). -/
def fpApply2 (F : Fmt) (fz : Bool) (op : FV → FV → FR) (a b : Nat) : FR :=
  let fa := ftzIn F fz a
  let fb := ftzIn F fz b
  let va := F.value fa.x
  let vb := F.value fb.x
  let r := ftzOut F fz (nanGate F [va, vb] (op va vb))
  ⟨r.x, fa.fl ||| fb.fl ||| r.fl⟩

/-- fp_apply with one source. -/
def fpApply1 (F : Fmt) (fz : Bool) (op : FV → FR) (a : Nat) : FR :=
  let fa := ftzIn F fz a
  let va := F.value fa.x
  let r := ftzOut F fz (nanGate F [va] (op va))
  ⟨r.x, fa.fl ||| r.fl⟩

/-- a + b (R162). -/
def fAdd (F : Fmt) (fz : Bool) (md : Rnd) (a b : Nat) : FR := fpApply2 F fz (addVal F md) a b

/-- The negated encoding. -/
def Fmt.neg (F : Fmt) (x : Nat) : Nat :=
  if bit x (F.ebits + F.mbits) then x - F.signBit else x + F.signBit

/-- The encoding with its sign cleared. -/
def Fmt.abs (F : Fmt) (x : Nat) : Nat := x % F.signBit

/-- a × b (R162). -/
def fMul (F : Fmt) (fz : Bool) (md : Rnd) (a b : Nat) : FR :=
  fpApply2 F fz (fun x y => match mulVal x y with | none => F.invalid | some v => roundVal F md v) a b

/-- a × b + c, rounded once (R162). -/
def fFma (F : Fmt) (fz : Bool) (md : Rnd) (a b c : Nat) : FR :=
  let fa := ftzIn F fz a
  let fb := ftzIn F fz b
  let fc := ftzIn F fz c
  let va := F.value fa.x
  let vb := F.value fb.x
  let vc := F.value fc.x
  let r := ftzOut F fz (nanGate F [va, vb, vc]
    (match mulVal va vb with | none => F.invalid | some p => addVal F md p vc))
  ⟨r.x, fa.fl ||| fb.fl ||| fc.fl ||| r.fl⟩

/-- Order of two values that are not NaN: −1, 0 or 1, with −0 = +0. -/
def cmpVal (a b : FV) : Int :=
  match a, b with
  | .inf s, .inf t => if s == t then 0 else if s then -1 else 1
  | .inf s, _ => if s then -1 else 1
  | _, .inf t => if t then 1 else -1
  | .fin s1 m1 e1, .fin s2 m2 e2 =>
    let lo := if e1 ≤ e2 then e1 else e2
    let x := signedAt s1 m1 e1 lo
    let y := signedAt s2 m2 e2 lo
    if x < y then -1 else if y < x then 1 else 0
  | _, _ => 0

/-- Sign of a value. -/
def FV.sign : FV → Bool
  | .nan _ => false
  | .inf s => s
  | .fin s _ _ => s

/-- fmin and fmax (R101, R163): −0 is below +0; one NaN gives the other operand. Result patterns are the flushed
sources; only ID and NV are set. -/
def fMinMax (F : Fmt) (fz isMax : Bool) (a b : Nat) : FR :=
  let fa := ftzIn F fz a
  let fb := ftzIn F fz b
  let va := F.value fa.x
  let vb := F.value fb.x
  let fl := fa.fl ||| fb.fl ||| snanFlag [va, vb]
  if va.isNan && vb.isNan then ⟨F.canonNan, fl⟩
  else if va.isNan then ⟨fb.x, fl⟩
  else if vb.isNan then ⟨fa.x, fl⟩
  else
    let c := cmpVal va vb
    let aLow := if c = 0 then va.sign || !vb.sign else decide (c < 0)
    ⟨if aLow != isMax then fa.x else fb.x, fl⟩

/-- The float comparisons of R78. -/
def fCondHolds (k : FCond) (va vb : FV) : Bool :=
  let un := va.isNan || vb.isNan
  let c := cmpVal va vb
  match k with
  | .eq => !un && c == 0
  | .ne => un || c != 0
  | .lt => !un && decide (c < 0)
  | .le => !un && decide (c ≤ 0)
  | .gt => !un && decide (0 < c)
  | .ge => !un && decide (0 ≤ c)
  | .ord => !un
  | .uno => un
  | .ueq => un || c == 0
  | .one => !un && c != 0
  | .ult => un || decide (c < 0)
  | .ule => un || decide (c ≤ 0)
  | .ugt => un || decide (0 < c)
  | .uge => un || decide (0 ≤ c)

/-- fcmp (R101, R164): the truth value and the flags. -/
def fCmp (F : Fmt) (fz : Bool) (k : FCond) (a b : Nat) : Bool × Flags :=
  let fa := ftzIn F fz a
  let fb := ftzIn F fz b
  let va := F.value fa.x
  let vb := F.value fb.x
  (fCondHolds k va vb, fa.fl ||| fb.fl ||| snanFlag [va, vb])

/-- Round m × 2^e to an integer in mode rm: magnitude and inexactness. -/
def intRound (md : Rnd) (s : Bool) (m : Nat) (e : Int) : Nat × Bool := roundAt md s m e 0 false

/-- frnd (R165): to an integral value of the same format; NX, UF and OF are never set. -/
def fRnd (F : Fmt) (fz : Bool) (md : Rnd) (a : Nat) : FR :=
  fpApply1 F fz (fun v => match v with
    | .fin s m e => if m = 0 then ⟨if s then F.signBit else 0, 0⟩
        else let n := (intRound md s m e).1
             if n = 0 then ⟨if s then F.signBit else 0, 0⟩ else ⟨(F.round .rn s n 0 false).x, 0⟩
    | v => roundVal F md v) a

/-- fclass (R166). -/
def fClass (F : Fmt) (x : Nat) : Nat :=
  match F.value x with
  | .nan s => if s then 2 ^ 8 else 2 ^ 9
  | .inf s => if s then 1 else 2 ^ 7
  | .fin s m _ =>
    if m = 0 then (if s then 2 ^ 3 else 2 ^ 4)
    else if F.isSub x then (if s then 2 ^ 2 else 2 ^ 5)
    else if s then 2 else 2 ^ 6

/-- fscl (R167): round(exact(A) × 2^B). -/
def fScl (F : Fmt) (fz : Bool) (md : Rnd) (a : Nat) (b : Int) : FR :=
  fpApply1 F fz (fun v => match v with
    | .fin s m e => F.roundZ md s m (e + b)
    | v => roundVal F md v) a

/-- Sum of three values rounded once, zero signs by R99; none for ∞ − ∞. -/
def sum3 (F : Fmt) (md : Rnd) (a b c : FV) : FR :=
  let infs := [a, b, c].filterMap (fun v => match v with | .inf s => some s | _ => none)
  match infs with
  | [] =>
    match a, b, c with
    | .fin s1 m1 e1, .fin s2 m2 e2, .fin s3 m3 e3 =>
      let l1 := if e1 ≤ e2 then e1 else e2
      let lo := if l1 ≤ e3 then l1 else e3
      let t := signedAt s1 m1 e1 lo + signedAt s2 m2 e2 lo + signedAt s3 m3 e3 lo
      if t = 0 then
        if m1 = 0 && m2 = 0 && m3 = 0 && s1 == s2 && s2 == s3 then ⟨if s1 then F.signBit else 0, 0⟩
        else ⟨if md = .rm then F.signBit else 0, 0⟩
      else F.round md (decide (t < 0)) t.natAbs lo false
    | _, _, _ => ⟨F.canonNan, 0⟩
  | s :: r => if r.all (· == s) then ⟨F.inf s, 0⟩ else F.invalid

/-- fdp2 (R168): a0 × b0 + a1 × b1 + c in f32, rounded once; sources packed in format S. -/
def fDp2 (S : Fmt) (fz : Bool) (md : Rnd) (a0 b0 a1 b1 c : Nat) : FR :=
  let F := fmtF32
  let i0 := ftzIn S fz a0
  let j0 := ftzIn S fz b0
  let i1 := ftzIn S fz a1
  let j1 := ftzIn S fz b1
  let k := ftzIn F fz c
  let vs := [S.value i0.x, S.value j0.x, S.value i1.x, S.value j1.x, F.value k.x]
  let r := ftzOut F fz (nanGate F vs
    (match mulVal (S.value i0.x) (S.value j0.x), mulVal (S.value i1.x) (S.value j1.x) with
    | some p, some q => sum3 F md p q (F.value k.x)
    | _, _ => F.invalid))
  ⟨r.x, i0.fl ||| j0.fl ||| i1.fl ||| j1.fl ||| k.fl ||| r.fl⟩

/-- Largest r with r² ≤ n, bit by bit from bit k down. -/
def isqrtGo (n : Nat) : Nat → Nat → Nat
  | 0, r => if (r + 1) * (r + 1) ≤ n then r + 1 else r
  | k + 1, r => let t := r + 2 ^ (k + 1); isqrtGo n k (if t * t ≤ n then t else r)

/-- Integer square root. -/
def isqrt (n : Nat) : Nat := isqrtGo n (Nat.log2 n / 2 + 1) 0

/-- 1 / v rounded once; v finite and non-zero. -/
def recipRound (F : Fmt) (md : Rnd) (s : Bool) (m : Nat) (e : Int) : FR :=
  let k := Nat.log2 m + F.mbits + 4
  F.round md s (2 ^ k / m) (-e - (k : Int)) (2 ^ k % m != 0)

/-- √v rounded once; v finite and positive. -/
def sqrtRound (F : Fmt) (md : Rnd) (m : Nat) (e : Int) : FR :=
  let k : Nat := 2 * (F.mbits + 4)
  let sh := if (e - (k : Int)) % 2 = 0 then k else k + 1
  let n := m * 2 ^ sh
  let r := isqrt n
  F.round md false r ((e - (sh : Int)) / 2) (r * r != n)

/-- 1/√v rounded once; v finite and positive. -/
def rsqrtRound (F : Fmt) (md : Rnd) (m : Nat) (e : Int) : FR :=
  let m := if e % 2 = 0 then m else 2 * m
  let e := if e % 2 = 0 then e else e - 1
  let k := Nat.log2 m + 2 * (F.mbits + 4)
  let k := if k % 2 = 0 then k else k + 1
  let q := 2 ^ k / m
  let r := isqrt q
  F.round md false r (-(e + (k : Int)) / 2) (r * r != q || 2 ^ k % m != 0)

/-- round_ne(a / b) into format G of two patterns of format F; flags are dropped. -/
def fDiv (F G : Fmt) (a b : Nat) : Nat :=
  match F.value a, F.value b with
  | .inf _, .inf _ => G.canonNan
  | .inf s, .fin t _ _ => G.inf (s != t)
  | .fin s _ _, .inf t => (G.roundZ .rn (s != t) 0 0).x
  | .fin s m e, .fin t n f =>
    if n = 0 then (if m = 0 then G.canonNan else G.inf (s != t))
    else if m = 0 then (G.roundZ .rn (s != t) 0 0).x
    else
      let k := Nat.log2 n + 64
      (G.round .rn (s != t) (m * 2 ^ k / n) (e - f - (k : Int)) (m * 2 ^ k % n != 0)).x
  | _, _ => G.canonNan

/-- A real rounded once to f32 by round_ne; zero is +0 (R228). -/
def realF32 (n : Int) (d : Nat) : Nat :=
  if n = 0 then 0
  else
    let k := Nat.log2 d + 40
    let m := n.natAbs * 2 ^ k
    (fmtF32.round .rn (decide (n < 0)) (m / d) (-(k : Int)) (m % d != 0)).x

/-- Product, sum and difference by round_ne without flags or flushing, as the sampler and the engines compute. -/
def rMul (F : Fmt) (a b : Nat) : Nat := (fMul F false .rn a b).x
def rAdd (F : Fmt) (a b : Nat) : Nat := (fAdd F false .rn a b).x
def rSub (F : Fmt) (a b : Nat) : Nat := (fAdd F false .rn a (F.neg b)).x
/-- The same in f32. -/
def mul32 (a b : Nat) : Nat := rMul fmtF32 a b
def add32 (a b : Nat) : Nat := rAdd fmtF32 a b
def sub32 (a b : Nat) : Nat := rSub fmtF32 a b

/-! ### Integers -/

/-- Width of an integer type (R95). -/
def IType.width : IType → Nat
  | .i32 | .n32 => 32
  | .i16 | .n16 => 16
  | .i8 | .n8 => 8
  | .i64 => 64

/-- Is the type signed? -/
def IType.signed : IType → Bool
  | .i32 | .i16 | .i8 | .i64 => true
  | _ => false

/-- Smallest value of an integer type. -/
def IType.minVal (T : IType) : Int := if IType.signed T then -(2 ^ (IType.width T - 1) : Int) else 0
/-- Largest value of an integer type. -/
def IType.maxVal (T : IType) : Int :=
  if IType.signed T then 2 ^ (IType.width T - 1) - 1 else 2 ^ IType.width T - 1

/-- sat(x, T) (R105). -/
def satInt (T : IType) (x : Int) : Int :=
  if x < IType.minVal T then IType.minVal T else if IType.maxVal T < x then IType.maxVal T else x

/-- The value of the low bits of a pattern in type T (R96). -/
def valInt (T : IType) (x : DWord) : Int :=
  let n := x.toNat % 2 ^ IType.width T
  if IType.signed T && bit n (IType.width T - 1) then (n : Int) - 2 ^ IType.width T else n

/-- The 64-bit pattern of an integer; its low bits are wrap(x, T) for every T (R104). -/
def patInt (x : Int) : DWord := BitVec.ofInt 64 x

/-- wrap(x, T): as the pattern a register receives (R96): extended to 64 bits by the signedness of T. -/
def wrapInt (T : IType) (x : Int) : DWord := patInt (valInt T (patInt x))

/-- The final step of R149 and R156: sat or wrap. -/
def finalInt (T : IType) (sat : Bool) (x : Int) : DWord :=
  if sat then patInt (satInt T x) else wrapInt T x

/-- Sign extension of the low n bits of a number. -/
def sextNat (x n : Nat) : Int := let y := x % 2 ^ n; if bit y (n - 1) then (y : Int) - 2 ^ n else y

end Sys2Proof.Machine
end

