-- ==== Sys2Proof/Machine/Roles.lean ====
section
/-!
DEFINITION. The fields of word 0 (spec/02 R49), the encoded form of an instruction, operand specifiers as bits (R53),
and the assignment tables of spec/03 (R82–R90) with the operand roles of the reference chapters (R126, R152, R191,
R196, R200, R205, R215, R222, R245, R260).
-/
namespace Sys2Proof

/-- The fields of word 0 (R49). -/
structure W0 where
  sub : BitVec 4
  c : BitVec 10
  b : BitVec 10
  a : BitVec 10
  d : BitVec 10
  mod : BitVec 4
  gn : BitVec 1
  gp : BitVec 3
  opc : BitVec 8
  nwb : BitVec 1
  stay : BitVec 1
  len : BitVec 2
  deriving DecidableEq, Repr

/-- The words after word 0, by length (R42). -/
inductive Form where
  | w64
  | w96 (l : Word)
  | w128 (x0 x1 : Word)
  deriving DecidableEq, Repr

/-- An instruction as encoded: word 0 and what follows it. -/
structure Enc where
  w : W0
  f : Form
  deriving DecidableEq, Repr

/-- The LEN code of a form (R42). -/
def Form.len : Form → BitVec 2
  | .w64 => 0
  | .w96 _ => 1
  | .w128 _ _ => 2

/-- The literal of the 96-bit form, 0 in the others. -/
def Form.lit : Form → Word
  | .w96 l => l
  | _ => 0

/-- X0 of the 128-bit form, 0 in the others. -/
def Form.x0 : Form → Word
  | .w128 x _ => x
  | _ => 0

/-- X1 of the 128-bit form, 0 in the others. -/
def Form.x1 : Form → Word
  | .w128 _ x => x
  | _ => 0

/-- Length in bytes (R42). -/
def Form.bytes : Form → Nat
  | .w64 => 8
  | .w96 _ => 12
  | .w128 _ _ => 16

/-- The zero special source (R52, R53). -/
def specZero : BitVec 10 := 0x2C0
/-- The literal special source (R54). -/
def specLit : BitVec 10 := 0x2C3

/-- The specifier of an operand (R53). -/
def encSpec : Opnd → BitVec 10
  | .v n => 0#2 ++ n
  | .g n => 1#2 ++ (0#2 ++ n)
  | .o n => 2#2 ++ (0#5 ++ n)
  | .h n => 2#2 ++ (0x10#6 ++ n)
  | .p n => 2#2 ++ (0x10#5 ++ n)
  | .zero => specZero
  | .lane => 0x2C1
  | .gw => 0x2C2
  | .lit _ => specLit
  | .imm i => 3#2 ++ i

/-- The operand a specifier names (R53); none for the patterns the table rules out. -/
def decSpec (s : BitVec 10) (l : Word) : Option Opnd :=
  let lo : BitVec 8 := s.extractLsb' 0 8
  match (s.extractLsb' 8 2 : BitVec 2).toNat with
  | 0 => some (.v lo)
  | 1 => if lo.extractLsb' 6 2 = 0#2 then some (.g (lo.extractLsb' 0 6)) else none
  | 3 => some (.imm lo)
  | _ =>
    match (lo.extractLsb' 6 2 : BitVec 2).toNat with
    | 0 => if lo.extractLsb' 3 3 = 0#3 then some (.o (lo.extractLsb' 0 3)) else none
    | 1 => if lo.extractLsb' 2 4 = 0#4 then some (.h (lo.extractLsb' 0 2)) else none
    | 2 => if lo.extractLsb' 3 3 = 0#3 then some (.p (lo.extractLsb' 0 3)) else none
    | _ =>
      match (lo.extractLsb' 0 6 : BitVec 6).toNat with
      | 0 => some .zero
      | 1 => some .lane
      | 2 => some .gw
      | 3 => some (.lit l)
      | _ => none

/-- The operand classes a field accepts. -/
structure Acc where
  v : Bool := false
  o : Bool := false
  h : Bool := false
  g : Bool := false
  p : Bool := false
  zero : Bool := false
  lane : Bool := false
  gw : Bool := false
  lit : Bool := false
  imm : Bool := false
  deriving DecidableEq, Repr

/-- Is the operand of a class the field accepts? -/
def Acc.takes (k : Acc) : Opnd → Bool
  | .v _ => k.v
  | .g _ => k.g
  | .o _ => k.o
  | .h _ => k.h
  | .p _ => k.p
  | .zero => k.zero
  | .lane => k.lane
  | .gw => k.gw
  | .lit _ => k.lit
  | .imm _ => k.imm

/-- How many registers a field names. -/
inductive Width where
  /-- one register -/
  | one
  /-- a pair at ITYPE 6 (R148, R152) -/
  | int
  /-- a pair at f64 (R152) -/
  | flt
  /-- a pair always (R13) -/
  | pair
  /-- a pair with MOD[0] `.w64` (R139) -/
  | w64lo
  /-- a pair with MOD[3] `.w64` (R196, R200) -/
  | w64hi
  /-- the destination of `cvt` (R152) -/
  | cvtD
  /-- the source of `cvt` (R152) -/
  | cvtS
  /-- the data of a load or store: pair at b64, quad at b128 (R186) -/
  | size
  /-- the base of a load or store: a pair in global and `.cn` space (R184) -/
  | base
  /-- the base of `atm` and `ared` (R196) -/
  | abase
  /-- the base of `zdrn`: a pair in global space (R254) -/
  | zbase
  /-- one register per selected channel, unaligned (R222) -/
  | chans
  /-- compare, old value and status of `atmc` (R200) -/
  | atmc
  deriving DecidableEq, Repr

/-- Does the instruction read or write the registers a field names? -/
inductive Dir where
  | rd | wr | rw
  deriving DecidableEq, Repr

/-- The role of one specifier field. -/
inductive Role where
  /-- must hold 0x2C0 (R52) -/
  | unused
  /-- DST and SA of `bra`: must be 0 (R52) -/
  | zeros
  /-- half of the join offset of `bra` (R58) -/
  | join
  /-- raw number in the low n bits; the destination of `gang` and `eset` when wr (R89) -/
  | raw (n : Nat) (wr : Bool)
  /-- the control immediate of `cvt` and `cvtp` (R79) -/
  | ctl
  /-- the displacement field of a memory operand (R64, R191) -/
  | disp
  /-- the scale of `zdrn` (R254): gN with SUB 3, else 0x2C0 -/
  | scale
  /-- an operand -/
  | op (acc : Acc) (w : Width) (dir : Dir)
  deriving DecidableEq, Repr

/-- What bits [3:2] of word 0 hold (R49, R50, R25, R26). -/
inductive Low where
  /-- STAY and NWB -/
  | run
  /-- STAY, NWB refused -/
  | runNoNwb
  /-- terminal: STAY refused; NWB allowed -/
  | termNwb
  /-- terminal: STAY and NWB refused -/
  | term
  /-- a hint -/
  | hint
  /-- a hint that must be 0 -/
  | hint0
  deriving DecidableEq, Repr

/-- One row of the assignment tables: opcodes first to first + n − 1. `lens` has bit 0 for 64, 1 for 96, 2 for 128
bits; `subs` and `mods` have one bit per assigned value. -/
structure Row where
  first : Nat
  n : Nat
  lens : Nat
  guard : Bool
  low : Low
  shadow : Bool
  subs : Nat
  mods : Nat
  d : Role
  a : Role
  b : Role
  c : Role
  deriving DecidableEq, Repr

namespace Roles

/-- Vector destination (R152). -/
def accV : Acc := { v := true, o := true }
/-- Data source (R152). -/
def accS : Acc := { v := true, o := true, h := true, g := true, zero := true, lane := true, gw := true, lit := true, imm := true }
/-- Predicate field (R152). -/
def accP : Acc := { p := true }
/-- Source of `pand`, `por`, `pxor`, `pnot` (R152). -/
def accQ : Acc := { p := true, imm := true }
/-- A uniform register only. -/
def accG : Acc := { g := true }
/-- Uniform source (R84). -/
def accU : Acc := { g := true, zero := true, gw := true, lit := true, imm := true }
/-- gN, immediate or literal (R126, R205, R245, R260). -/
def accGil : Acc := { g := true, lit := true, imm := true }
/-- gN, immediate, literal or zero (R126, R260). -/
def accGilz : Acc := { g := true, lit := true, imm := true, zero := true }
/-- gN or immediate (R215, R245, R260). -/
def accGi : Acc := { g := true, imm := true }
/-- gN, immediate or 0x2C0 (R126, R215, R260). -/
def accGiz : Acc := { g := true, imm := true, zero := true }
/-- gN or 0x2C0 (R205, R191). -/
def accGz : Acc := { g := true, zero := true }
/-- Offset of a vector memory operand (R191). -/
def accOff : Acc := { v := true, o := true, h := true, g := true, zero := true }
/-- Store data (R191). -/
def accD : Acc := { v := true, o := true, g := true }
/-- Vector register only. -/
def accVv : Acc := { v := true }
/-- Data of an atomic (R196). -/
def accAt : Acc := { v := true, o := true, h := true, g := true, zero := true, imm := true }
/-- Destination of `rdln` (R177). -/
def accVG : Acc := { v := true, o := true, g := true }
/-- Immediate only (R260). -/
def accI : Acc := { imm := true }

/-- Vector destination. -/
def dv (w : Width) : Role := .op accV w .wr
/-- Uniform destination. -/
def dg (w : Width) : Role := .op accG w .wr
/-- Predicate destination. -/
def dp : Role := .op accP .one .wr
/-- Data source. -/
def s (w : Width) : Role := .op accS w .rd
/-- Uniform source. -/
def u (w : Width) : Role := .op accU w .rd
/-- Predicate source. -/
def p : Role := .op accP .one .rd
/-- Predicate or immediate source. -/
def q : Role := .op accQ .one .rd
/-- Uniform register pair, read. -/
def gp : Role := .op accG .pair .rd
/-- A source of the given class, one register. -/
def src (k : Acc) : Role := .op k .one .rd

/-- 64 and 96 bits. -/
def l69 : Nat := 3

/-- The assignment tables R82–R90. -/
def rowsCtl : List Row := [
  ⟨0x00, 1, 1, false, .runNoNwb, true, 1, 1, .unused, .unused, .unused, .unused⟩,
  ⟨0x01, 1, 2, true, .hint, true, 1, 1, .zeros, .zeros, .join, .join⟩,
  ⟨0x02, 1, 2, true, .hint, true, 1, 1, .unused, gp, .unused, .unused⟩,
  ⟨0x03, 1, 2, true, .hint, true, 1, 1, dg .pair, .unused, .unused, .unused⟩,
  ⟨0x04, 1, 1, true, .hint, true, 1, 1, dg .pair, gp, .unused, .unused⟩,
  ⟨0x05, 1, 1, true, .hint0, true, 1, 1, .unused, gp, .unused, .unused⟩,
  ⟨0x06, 1, 1, true, .term, true, 1, 1, .unused, .unused, .unused, .unused⟩,
  ⟨0x07, 1, 1, false, .term, true, 1, 1, .unused, .unused, .unused, .unused⟩,
  ⟨0x08, 1, 1, true, .hint0, true, 1, 1, .unused, src accGiz, .unused, .unused⟩,
  ⟨0x09, 1, 1, false, .hint0, true, 1, 1, .unused, .unused, .unused, .unused⟩,
  ⟨0x0A, 1, 1, true, .runNoNwb, true, 1, 1, .unused, .unused, .unused, .unused⟩,
  ⟨0x0B, 1, 1, false, .hint0, true, 1, 1, .unused, .unused, .unused, .unused⟩,
  ⟨0x0C, 1, l69, true, .run, true, 1, 3, dg .w64lo, src accGil, .unused, .unused⟩,
  ⟨0x0D, 1, l69, true, .runNoNwb, true, 1, 3, .unused, src accGil, .op accGilz .w64lo .rd, .unused⟩,
  ⟨0x0E, 1, 1, true, .runNoNwb, true, 1, 1, dg .pair, .unused, .unused, .unused⟩,
  ⟨0x0F, 1, 1, true, .term, true, 1, 1, .unused, gp, .unused, .unused⟩]

/-- Uniform opcodes (R84). -/
def rowsUni : List Row := [
  ⟨0x10, 1, l69, true, .run, true, 1, 0x41, dg .int, u .int, .unused, .unused⟩,
  ⟨0x11, 2, l69, true, .run, true, 1, 0x4343, dg .int, u .int, u .int, .unused⟩,
  ⟨0x13, 2, l69, true, .run, true, 1, 0x43, dg .int, u .int, u .int, .unused⟩,
  ⟨0x15, 1, l69, true, .run, true, 1, 0x4343, dg .int, u .int, u .int, u .int⟩,
  ⟨0x16, 3, l69, true, .run, true, 1, 0x41, dg .int, u .int, u .int, .unused⟩,
  ⟨0x19, 3, l69, true, .run, true, 1, 0x41, dg .int, u .int, u .one, .unused⟩,
  ⟨0x1C, 2, l69, true, .run, true, 1, 0x43, dg .int, u .int, u .int, .unused⟩,
  ⟨0x1E, 1, l69, true, .run, true, 0x3F, 0x43, dg .one, u .int, u .int, .unused⟩,
  ⟨0x1F, 1, l69, true, .run, true, 1, 0x41, dg .int, u .int, u .int, u .one⟩,
  ⟨0xD0, 1, l69, true, .run, true, 1, 0xFF, dg .pair, u .pair, u .one, .unused⟩,
  ⟨0xD1, 1, l69, true, .run, true, 1, 0x03, dg .one, u .one, u .one, .unused⟩,
  ⟨0xD2, 1, l69, true, .run, true, 1, 0x01, dg .one, u .one, u .one, u .one⟩,
  ⟨0xD3, 2, l69, true, .run, true, 1, 0x41, dg .one, u .int, .unused, .unused⟩,
  ⟨0xD5, 1, 7, true, .run, true, 0x7F7F, 0, dg .size, .op accG .base .rd, src accGz, .disp⟩,
  ⟨0xD6, 1, 7, true, .term, true, 0x7575, 0, .op accG .size .rd, .op accG .base .rd, src accGz, .disp⟩]

/-- Vector integer opcodes (R85). -/
def rowsInt : List Row := [
  ⟨0x20, 2, l69, true, .run, true, 1, 0x7F7F, dv .int, s .int, s .int, .unused⟩,
  ⟨0x22, 1, l69, true, .run, true, 1, 0x7F, dv .int, s .int, s .int, .unused⟩,
  ⟨0x23, 1, l69, true, .run, true, 1, 0x43, dv .int, s .int, s .int, .unused⟩,
  ⟨0x24, 1, l69, true, .run, true, 1, 0x7F7F, dv .int, s .int, s .int, s .int⟩,
  ⟨0x25, 3, l69, true, .run, true, 1, 0x41, dv .int, s .int, s .int, .unused⟩,
  ⟨0x28, 3, l69, true, .run, true, 1, 0x41, dv .int, s .int, s .one, .unused⟩,
  ⟨0x2B, 2, l69, true, .run, true, 1, 0x7F, dv .int, s .int, s .int, .unused⟩,
  ⟨0x2D, 1, l69, true, .run, true, 1, 0x5555, dv .int, s .int, .unused, .unused⟩,
  ⟨0x2E, 1, l69, true, .run, true, 1, 0x41, dv .int, s .int, s .int, p⟩,
  ⟨0x2F, 1, l69, true, .run, true, 0x3F, 0x7F, dp, s .int, s .int, .unused⟩,
  ⟨0x30, 1, l69, true, .run, true, 1, 0x03, dv .one, s .one, s .one, .unused⟩,
  ⟨0x31, 1, l69, true, .run, true, 1, 0x01, dv .one, s .one, s .one, s .one⟩,
  ⟨0x32, 2, l69, true, .run, true, 1, 0x41, dv .one, s .int, .unused, .unused⟩,
  ⟨0x34, 1, l69, true, .run, true, 1, 0x41, dv .int, s .int, .unused, .unused⟩,
  ⟨0x35, 1, l69, true, .run, true, 1, 0xFF, dv .one, s .one, s .one, s .one⟩,
  ⟨0x36, 1, l69, true, .run, true, 1, 0x2A, dv .one, s .one, s .one, s .one⟩,
  ⟨0x37, 1, l69, true, .runNoNwb, true, 1, 0x02, dv .one, s .one, s .one, .op accP .one .rw⟩,
  ⟨0x38, 3, l69, true, .run, true, 1, 1, dp, q, q, .unused⟩,
  ⟨0x3B, 1, l69, true, .run, true, 1, 1, dp, q, .unused, .unused⟩,
  ⟨0x3C, 2, l69, true, .run, true, 1, 1, dp, p, .unused, .unused⟩,
  ⟨0x3E, 1, l69, true, .runNoNwb, true, 1, 1, dg .pair, p, .unused, .unused⟩,
  ⟨0x3F, 1, l69, true, .run, true, 1, 1, dv .one, gp, .unused, .unused⟩]

/-- Vector floating-point and special-function opcodes (R86). -/
def rowsFp : List Row := [
  ⟨0x40, 3, l69, true, .run, true, 0xFFFF, 0x3F3F, dv .flt, s .flt, s .flt, .unused⟩,
  ⟨0x43, 1, l69, true, .run, true, 0xFFFF, 0x3F3F, dv .flt, s .flt, s .flt, s .flt⟩,
  ⟨0x44, 2, l69, true, .run, true, 0x1111, 0x3F3F, dv .flt, s .flt, s .flt, .unused⟩,
  ⟨0x46, 1, l69, true, .run, true, 0x3FFF, 0x0F0F, dp, s .flt, s .flt, .unused⟩,
  ⟨0x47, 1, l69, true, .run, true, 0xF, 0x0F, dv .flt, s .flt, .unused, .unused⟩,
  ⟨0x48, 1, l69, true, .run, true, 1, 0x0F, dv .one, s .flt, .unused, .unused⟩,
  ⟨0x49, 1, l69, true, .run, true, 0xF, 0x0F, dv .flt, s .flt, s .one, .unused⟩,
  ⟨0x4A, 1, l69, true, .run, true, 0xFFFF, 0x30, dv .one, s .one, s .one, s .one⟩,
  ⟨0x50, 1, l69, true, .run, true, 3, 0x07, dv .flt, s .flt, .unused, .unused⟩,
  ⟨0x51, 1, l69, true, .run, true, 1, 0x07, dv .flt, s .flt, .unused, .unused⟩,
  ⟨0x52, 1, l69, true, .run, true, 3, 0x07, dv .flt, s .flt, .unused, .unused⟩,
  ⟨0x53, 5, l69, true, .run, true, 1, 0x0D, dv .one, s .one, .unused, .unused⟩,
  ⟨0x58, 1, l69, true, .run, true, 0x1FFF, 0x1FFF, dv .cvtD, s .cvtS, .unused, .ctl⟩,
  ⟨0x59, 1, l69, true, .run, true, 1, 0x30, dv .one, s .one, s .one, .ctl⟩,
  ⟨0x5A, 1, l69, true, .run, true, 0xFF, 0x30, .op accV .one .rw, s .one, s .one, .unused⟩]

/-- Cross-lane opcodes (R87). -/
def rowsX : List Row := [
  ⟨0x60, 1, l69, true, .run, true, 0xF, 0x41, dv .int, s .int, s .one, .unused⟩,
  ⟨0x61, 1, l69, true, .run, true, 1, 0x41, dg .int, s .int, .unused, .unused⟩,
  ⟨0x62, 1, l69, true, .run, true, 1, 0x41, .op accVG .int .wr, s .int, u .one, .unused⟩,
  ⟨0x63, 1, l69, true, .run, true, 0x7F, 0x43, dg .int, s .int, .unused, .unused⟩,
  ⟨0x64, 1, l69, true, .run, true, 0x7F7F, 0x43, dv .int, s .int, .unused, .unused⟩,
  ⟨0x65, 1, l69, true, .runNoNwb, true, 1, 0x41, dv .int, s .int, p, dg .one⟩,
  ⟨0x66, 1, l69, true, .run, true, 1, 0x41, dv .int, s .int, p, .unused⟩,
  ⟨0x67, 1, l69, true, .run, true, 3, 1, dv .one, s .one, s .one, .unused⟩]

/-- Memory, atomic, synchronisation and asynchronous opcodes (R88). -/
def rowsMem : List Row := [
  ⟨0x70, 1, 7, true, .run, true, 0x7F7F, 0, .op accV .size .wr, .op accG .base .rd, src accOff, .disp⟩,
  ⟨0x71, 1, 7, true, .term, true, 0x7575, 0, .op accD .size .rd, .op accG .base .rd, src accOff, .disp⟩,
  ⟨0x72, 1, l69, true, .runNoNwb, true, 1, 0x11, .unused, gp, src accOff, .disp⟩,
  ⟨0x73, 1, 4, true, .run, true, 7, 0xFFFE, .op accVv .chans .wr, gp, src accVv, gp⟩,
  ⟨0x74, 1, l69, true, .run, true, 1, 0xFFFE, .op accVv .chans .wr, gp, src accVv, .unused⟩,
  ⟨0x80, 1, 7, true, .termNwb, true, 0x7FF, 0x3F3F, .op accVv .w64hi .wr, .op accG .abase .rd, src accOff, .op accAt .w64hi .rd⟩,
  ⟨0x81, 1, 7, true, .term, true, 0x4FF, 0x3F3F, .unused, .op accG .abase .rd, src accOff, .op accAt .w64hi .rd⟩,
  ⟨0x82, 1, 4, true, .term, true, 1, 0x3F3F, .op accVv .atmc .rw, gp, src accOff, .op accVv .w64hi .rd⟩,
  ⟨0x83, 1, 1, true, .runNoNwb, true, 7, 0x3F, .unused, .unused, .unused, .unused⟩,
  ⟨0x84, 1, l69, true, .term, true, 1, 1, .unused, src accGil, u .one, u .one⟩,
  ⟨0x85, 1, 1, true, .termNwb, true, 1, 0x3F, .op accGz .one .wr, src accGil, .unused, .unused⟩,
  ⟨0x86, 1, l69, true, .term, true, 1, 1, .unused, src accGil, u .one, .unused⟩,
  ⟨0x87, 1, l69, true, .term, true, 1, 0x3F, .unused, src accGil, u .one, .unused⟩,
  ⟨0x88, 1, 1, true, .term, true, 1, 1, .unused, src accGil, gp, .unused⟩,
  ⟨0x89, 1, 1, true, .termNwb, true, 1, 1, dg .one, .unused, .unused, .unused⟩,
  ⟨0x90, 1, 4, true, .term, true, 0xF, 3, src accG, gp, src accGiz, src accGiz⟩,
  ⟨0x91, 1, 4, true, .term, true, 1, 3, src accG, src accGi, src accGiz, src accGiz⟩]

/-- Matrix opcodes (R89, R245). -/
def rowsMat : List Row := [
  ⟨0xA0, 1, 1, false, .runNoNwb, false, 1, 1, .raw 2 true, src accG, .unused, .unused⟩,
  ⟨0xA1, 1, 1, false, .runNoNwb, false, 1, 1, .raw 3 true, gp, .unused, .unused⟩,
  ⟨0xA2, 1, 4, false, .term, false, 1, 3, .raw 2 false, src accGi, src accVv, src accG⟩,
  ⟨0xA3, 1, l69, true, .term, false, 1, 1, .unused, src accGil, src accGil, .unused⟩,
  ⟨0xA4, 1, l69, true, .term, false, 1, 1, .unused, src accGil, src accGil, .unused⟩,
  ⟨0xA5, 1, 4, true, .term, false, 0x3F, 3, .unused, src accGi, .op accG .zbase .rd, .scale⟩,
  ⟨0xA6, 1, l69, true, .run, false, 1, 1, dg .one, src accGil, .unused, .unused⟩,
  ⟨0xA7, 1, l69, true, .termNwb, false, 1, 1, dg .one, src accGil, .unused, .unused⟩,
  ⟨0xA8, 1, l69, true, .term, false, 1, 1, .unused, src accGil, src accGil, .unused⟩]

/-- Task, coverage, beam and observation opcodes (R90, R260, R261). -/
def rowsTask : List Row := [
  ⟨0xB0, 1, 1, true, .term, false, 1, 1, dg .pair, src accGi, .unused, .unused⟩,
  ⟨0xB1, 1, 4, true, .term, false, 3, 1, .unused, gp, src accGi, .unused⟩,
  ⟨0xB2, 1, 1, true, .term, false, 1, 0x3F, .unused, gp, .unused, .unused⟩,
  ⟨0xB3, 1, 1, false, .term, false, 1, 1, .unused, .unused, .unused, .unused⟩,
  ⟨0xB4, 1, 1, false, .term, false, 1, 1, .unused, src accI, .unused, .unused⟩,
  ⟨0xB5, 1, 4, true, .term, false, 1, 1, .unused, src accG, src accG, src accGi⟩,
  ⟨0xC0, 1, 4, true, .term, false, 1, 1, dg .one, src accG, gp, src accGiz⟩,
  ⟨0xC1, 1, 1, true, .run, true, 1, 1, dg .one, src accG, .unused, .unused⟩,
  ⟨0xC2, 1, l69, true, .runNoNwb, true, 1, 1, dg .pair, src accGil, .unused, .unused⟩,
  ⟨0xC3, 1, l69, true, .runNoNwb, true, 1, 1, .unused, src accGil, src accGilz, .unused⟩]

end Roles

/-- The table of the row of bits [11:8] of OPC. -/
def rowsOf (hi : Nat) : List Row :=
  match hi with
  | 0 => Roles.rowsCtl
  | 1 => Roles.rowsUni
  | 2 => Roles.rowsInt
  | 3 => Roles.rowsInt
  | 4 => Roles.rowsFp
  | 5 => Roles.rowsFp
  | 6 => Roles.rowsX
  | 7 => Roles.rowsMem
  | 8 => Roles.rowsMem
  | 9 => Roles.rowsMem
  | 10 => Roles.rowsMat
  | 11 => Roles.rowsTask
  | 12 => Roles.rowsTask
  | 13 => Roles.rowsUni
  | _ => []

/-- Does the row hold the opcode? -/
def Row.has (r : Row) (o : Nat) : Bool := r.first ≤ o && o < r.first + r.n

/-- The row of an opcode; none when the opcode is unassigned (R71). -/
def rowOf (opc : BitVec 8) : Option Row :=
  (rowsOf (opc.toNat / 16)).find? (·.has opc.toNat)

end Sys2Proof
end

