-- ==== Sys2Proof/Decode.lean ====
section
/-!
DEFINITION. Decoding and encoding (spec/02 R42–R58, spec/03 R71–R90): the fields of word 0, the encoding checks in the
order of R73, the instruction an accepted encoding stands for, and the encoder, written from the same tables.
-/
namespace Sys2Proof

/-- What the decoder refuses, by name (R73); the operand refusal carries SR_TINFO.OPF, bit 0 for DST, 1 SA, 2 SB, 3 SC. -/
inductive DecErr where
  | opc
  | enc
  | operand (opf : BitVec 4)
  deriving DecidableEq, Repr

/-- The fields of a 64-bit word 0 (R49). -/
def W0.ofBits (x : DWord) : W0 :=
  { sub := x.extractLsb' 60 4, c := x.extractLsb' 50 10, b := x.extractLsb' 40 10, a := x.extractLsb' 30 10,
    d := x.extractLsb' 20 10, mod := x.extractLsb' 16 4, gn := x.extractLsb' 15 1, gp := x.extractLsb' 12 3,
    opc := x.extractLsb' 4 8, nwb := x.extractLsb' 3 1, stay := x.extractLsb' 2 1, len := x.extractLsb' 0 2 }

/-- Word 0 as 64 bits (R49). -/
def W0.bits (w : W0) : DWord :=
  w.sub ++ (w.c ++ (w.b ++ (w.a ++ (w.d ++ (w.mod ++ (w.gn ++ (w.gp ++ (w.opc ++ (w.nwb ++ (w.stay ++ w.len))))))))))

/-- The encoding held by four 32-bit words, the first at the lowest address (R42); words past its length play no part. -/
def Enc.ofWords (w0 w1 w2 w3 : Word) : Enc :=
  let w := W0.ofBits (w1 ++ w0)
  { w := w, f := match w.len.toNat with | 1 => .w96 w2 | 2 => .w128 w2 w3 | _ => .w64 }

/-- The words of an encoding, in address order. -/
def Enc.words (e : Enc) : List Word :=
  let x := e.w.bits
  [x.extractLsb' 0 32, x.extractLsb' 32 32] ++
    (match e.f with | .w64 => [] | .w96 l => [l] | .w128 x0 x1 => [x0, x1])

/-! ### Codes of the small types -/

/-- ITYPE code (R75). -/
def IType.code : IType → BitVec 3
  | .i32 => 0 | .n32 => 1 | .i16 => 2 | .n16 => 3 | .i8 => 4 | .n8 => 5 | .i64 => 6
/-- ITYPE of a code (R75). -/
def IType.ofCode (c : BitVec 3) : Option IType :=
  match c.toNat with
  | 0 => some .i32 | 1 => some .n32 | 2 => some .i16 | 3 => some .n16 | 4 => some .i8 | 5 => some .n8 | 6 => some .i64
  | _ => none
/-- FTYPE code (R76). -/
def FType.code : FType → BitVec 3
  | .f32 => 0 | .f64 => 1 | .f16 => 2 | .bf16 => 3 | .f16x2 => 4 | .bf16x2 => 5
/-- FTYPE of a code (R76). -/
def FType.ofCode (c : BitVec 3) : Option FType :=
  match c.toNat with
  | 0 => some .f32 | 1 => some .f64 | 2 => some .f16 | 3 => some .bf16 | 4 => some .f16x2 | 5 => some .bf16x2
  | _ => none
/-- Rounding code (R77). -/
def Rnd.code : Rnd → BitVec 2
  | .rn => 0 | .rz => 1 | .rp => 2 | .rm => 3
/-- Rounding of a code (R77). -/
def Rnd.ofCode (c : BitVec 2) : Rnd :=
  match c.toNat with
  | 0 => .rn | 1 => .rz | 2 => .rp | _ => .rm
/-- COND code of an integer comparison (R78). -/
def Cond.code : Cond → BitVec 4
  | .eq => 0 | .ne => 1 | .lt => 2 | .le => 3 | .gt => 4 | .ge => 5
/-- Integer comparison of a COND code (R78). -/
def Cond.ofCode (c : BitVec 4) : Option Cond :=
  match c.toNat with
  | 0 => some .eq | 1 => some .ne | 2 => some .lt | 3 => some .le | 4 => some .gt | 5 => some .ge
  | _ => none
/-- COND code of a float comparison (R78). -/
def FCond.code : FCond → BitVec 4
  | .eq => 0 | .ne => 1 | .lt => 2 | .le => 3 | .gt => 4 | .ge => 5 | .ord => 6 | .uno => 7 | .ueq => 8 | .one => 9
  | .ult => 10 | .ule => 11 | .ugt => 12 | .uge => 13
/-- Float comparison of a COND code (R78). -/
def FCond.ofCode (c : BitVec 4) : Option FCond :=
  match c.toNat with
  | 0 => some .eq | 1 => some .ne | 2 => some .lt | 3 => some .le | 4 => some .gt | 5 => some .ge | 6 => some .ord
  | 7 => some .uno | 8 => some .ueq | 9 => some .one | 10 => some .ult | 11 => some .ule | 12 => some .ugt
  | 13 => some .uge
  | _ => none
/-- CTYPE code (R79). -/
def CType.code : CType → BitVec 4
  | .f32 => 0 | .f64 => 1 | .f16 => 2 | .bf16 => 3 | .e4m3 => 4 | .e5m2 => 5 | .i32 => 6 | .n32 => 7 | .i16 => 8
  | .n16 => 9 | .i8 => 10 | .n8 => 11 | .i64 => 12
/-- CTYPE of a code (R79). -/
def CType.ofCode (c : BitVec 4) : Option CType :=
  match c.toNat with
  | 0 => some .f32 | 1 => some .f64 | 2 => some .f16 | 3 => some .bf16 | 4 => some .e4m3 | 5 => some .e5m2
  | 6 => some .i32 | 7 => some .n32 | 8 => some .i16 | 9 => some .n16 | 10 => some .i8 | 11 => some .n8
  | 12 => some .i64
  | _ => none
/-- Scope code (R74). -/
def Scope.code : Scope → BitVec 3
  | .grp => 0 | .team => 1 | .clu => 2 | .slc => 3 | .dev => 4 | .sys => 5
/-- Scope of a code (R74). -/
def Scope.ofCode (c : BitVec 3) : Option Scope :=
  match c.toNat with
  | 0 => some .grp | 1 => some .team | 2 => some .clu | 3 => some .slc | 4 => some .dev | 5 => some .sys
  | _ => none
/-- Space code of MOD[1:0] (R80). -/
def Space.code : Space → BitVec 2
  | .global => 0 | .pd => 1 | .cl => 2 | .cn => 3
/-- Space of a code (R80). -/
def Space.ofCode (c : BitVec 2) : Space :=
  match c.toNat with
  | 0 => .global | 1 => .pd | 2 => .cl | _ => .cn
/-- Cache policy code of MOD[3:2] (R80). -/
def CachePol.code : CachePol → BitVec 2
  | .dflt => 0 | .strm => 1 | .nl1 => 2
/-- Cache policy of a code (R80). -/
def CachePol.ofCode (c : BitVec 2) : Option CachePol :=
  match c.toNat with
  | 0 => some .dflt | 1 => some .strm | 2 => some .nl1
  | _ => none
/-- Size code of SUB[2:0] (R80). -/
def Size.code : Size → BitVec 3
  | .n8 => 0 | .i8 => 1 | .n16 => 2 | .i16 => 3 | .b32 => 4 | .b64 => 5 | .b128 => 6
/-- Size of a code (R80). -/
def Size.ofCode (c : BitVec 3) : Option Size :=
  match c.toNat with
  | 0 => some .n8 | 1 => some .i8 | 2 => some .n16 | 3 => some .i16 | 4 => some .b32 | 5 => some .b64 | 6 => some .b128
  | _ => none
/-- AOP code (R81). -/
def AOp.code : AOp → BitVec 4
  | .add => 0 | .smin => 1 | .umin => 2 | .smax => 3 | .umax => 4 | .and => 5 | .or => 6 | .xor => 7 | .xchg => 8
  | .cas => 9 | .fadd => 10
/-- Atomic operation of a code (R81). -/
def AOp.ofCode (c : BitVec 4) : Option AOp :=
  match c.toNat with
  | 0 => some .add | 1 => some .smin | 2 => some .umin | 3 => some .smax | 4 => some .umax | 5 => some .and
  | 6 => some .or | 7 => some .xor | 8 => some .xchg | 9 => some .cas | 10 => some .fadd
  | _ => none
/-- `shfl` mode code (R87). -/
def ShflMode.code : ShflMode → BitVec 4
  | .idx => 0 | .up => 1 | .dn => 2 | .xor => 3
/-- `shfl` mode of a code (R87). -/
def ShflMode.ofCode (c : BitVec 4) : Option ShflMode :=
  match c.toNat with
  | 0 => some .idx | 1 => some .up | 2 => some .dn | 3 => some .xor
  | _ => none
/-- Reduction code, with `.exc` in SUB[3] (R87). -/
def RedOp.code4 (o : RedOp) (exc : Bool) : BitVec 4 :=
  let k : BitVec 3 := match o with
    | .add => 0 | .min => 1 | .max => 2 | .and => 3 | .or => 4 | .xor => 5 | .fadd => 6
  BitVec.ofBool exc ++ k
/-- Reduction of the low code bits (R87). -/
def RedOp.ofCode (c : BitVec 3) : Option RedOp :=
  match c.toNat with
  | 0 => some .add | 1 => some .min | 2 => some .max | 3 => some .and | 4 => some .or | 5 => some .xor | 6 => some .fadd
  | _ => none
/-- `smp` mode code (R88). -/
def SmpMode.code : SmpMode → BitVec 4
  | .implicit => 0 | .lod => 1 | .bias => 2
/-- `smp` mode of a code (R88). -/
def SmpMode.ofCode (c : BitVec 4) : Option SmpMode :=
  match c.toNat with
  | 0 => some .implicit | 1 => some .lod | 2 => some .bias
  | _ => none
/-- `fence` kind code (R88). -/
def FenceKind.code : FenceKind → BitVec 4
  | .full => 0 | .acq => 1 | .rel => 2
/-- `fence` kind of a code (R88). -/
def FenceKind.ofCode (c : BitVec 4) : Option FenceKind :=
  match c.toNat with
  | 0 => some .full | 1 => some .acq | 2 => some .rel
  | _ => none
/-- `zdrn` conversion code (R89). -/
def DrnCv.code : DrnCv → BitVec 4
  | .f32 => 0 | .bf16 => 1 | .f16 => 2 | .e4m3 => 3 | .i32 => 4 | .i8 => 5
/-- `zdrn` conversion of a code (R89). -/
def DrnCv.ofCode (c : BitVec 4) : Option DrnCv :=
  match c.toNat with
  | 0 => some .f32 | 1 => some .bf16 | 2 => some .f16 | 3 => some .e4m3 | 4 => some .i32 | 5 => some .i8
  | _ => none
/-- Hint code (R50). -/
def Hint.code : Hint → BitVec 2
  | .none => 0 | .likely => 1 | .unlikely => 2 | .uniform => 3
/-- Hint of a code (R50). -/
def Hint.ofCode (c : BitVec 2) : Hint :=
  match c.toNat with
  | 0 => .none | 1 => .likely | 2 => .unlikely | _ => .uniform
/-- Space code of an atomic, X0[1:0] (R196). -/
def ASpace.code : ASpace → BitVec 2
  | .global => 0 | .pd => 1 | .cl => 2
/-- Space of an atomic, from X0[1:0] (R196). -/
def ASpace.ofCode (c : BitVec 2) : Option ASpace :=
  match c.toNat with
  | 0 => some .global | 1 => some .pd | 2 => some .cl
  | _ => none

/-! ### MOD and SUB contents -/

/-- A 3-bit code with one flag above it. -/
def mk4 (c : BitVec 3) (hi : Bool) : BitVec 4 := BitVec.ofBool hi ++ c
/-- One flag in bit 0. -/
def b0 (b : Bool) : BitVec 4 := 0#3 ++ BitVec.ofBool b
/-- SUB of the rounding opcodes (R86). -/
def fsub4 (r : Rnd) (na nb : Bool) : BitVec 4 := BitVec.ofBool nb ++ (BitVec.ofBool na ++ r.code)
/-- MOD of `idp4` (R85). -/
def idpMod (aN bN sat : Bool) : BitVec 4 :=
  0#1 ++ (BitVec.ofBool sat ++ (BitVec.ofBool aN ++ BitVec.ofBool bN))
/-- The control immediate of `cvt` and `cvtp` (R79). -/
def ctl (r : Rnd) (sat : Bool) : BitVec 10 := 3#2 ++ (0#5 ++ (BitVec.ofBool sat ++ r.code))
/-- MOD of `cvtq`: CTYPE 4 or 5 (R86). -/
def qMod (e5 : Bool) : BitVec 4 := 2#3 ++ BitVec.ofBool e5
/-- SUB of `cvtq` (R86). -/
def qSub (sat : Bool) (pos : BitVec 2) : BitVec 4 := 0#1 ++ (BitVec.ofBool sat ++ pos)
/-- MOD of a load or store (R80). -/
def memMod (sp : Space) (pol : CachePol) : BitVec 4 := pol.code ++ sp.code
/-- SUB of a load or store (R80). -/
def memSub (sz : Size) (disp : Disp) : BitVec 4 :=
  (match disp with | .ext _ (some _) => 1#1 | _ => 0#1) ++ sz.code
/-- MOD of `prf` (R88). -/
def prfMod (l1 : Bool) : BitVec 4 := 0#1 ++ (BitVec.ofBool l1 ++ 0#2)
/-- MOD of `acp` and `amc` (R215). -/
def credMod (b : Opnd) : BitVec 4 := if b = .zero then 0 else 1
/-- SUB of `acp` (R215). -/
def acpSub (out twoD : Bool) : BitVec 4 := 0#2 ++ (BitVec.ofBool twoD ++ BitVec.ofBool out)

/-- SC of a memory operand (R191). -/
def Disp.spec : Disp → BitVec 10
  | .short i => 3#2 ++ i
  | .long _ => specLit
  | .ext _ _ => specZero
/-- The words of a memory operand (R191). -/
def Disp.form : Disp → Form
  | .short _ => .w64
  | .long d => .w96 d
  | .ext d o => .w128 (match o with | some sc => 0#29 ++ sc.code | none => 0) d
/-- The words of an atomic (R196). -/
def ADisp.form : ADisp → Form
  | .short => .w64
  | .long d => .w96 d
  | .ext sp acq rel d => .w128 (0#28 ++ (BitVec.ofBool rel ++ (BitVec.ofBool acq ++ sp.code))) d

/-- The literal the operands name, if any. -/
def litOf : List Opnd → Option Word
  | [] => none
  | .lit l :: _ => some l
  | _ :: os => litOf os
/-- The 96-bit form when an operand is the literal, else the 64-bit form (R54). -/
def litForm (os : List Opnd) : Form :=
  match litOf os with
  | some l => .w96 l
  | none => .w64

/-- GN, GP, NWB and STAY, or the hint, of word 0. -/
structure LowBits where
  gn : BitVec 1
  gp : BitVec 3
  nwb : BitVec 1
  stay : BitVec 1
  deriving DecidableEq, Repr

/-- No guard, no STAY, no NWB (R51). -/
def plainBits : LowBits := ⟨0, 7, 0, 0⟩
/-- No guard; STAY as given. -/
def stayBits (s : Bool) : LowBits := ⟨0, 7, 0, BitVec.ofBool s⟩
/-- A guard alone. -/
def Guard.bits (g : Guard) : LowBits := ⟨BitVec.ofBool g.gn, g.gp, 0, 0⟩
/-- A guard, STAY and NWB. -/
def Hdr.bits (h : Hdr) : LowBits := ⟨BitVec.ofBool h.gn, h.gp, BitVec.ofBool h.nwb, BitVec.ofBool h.stay⟩
/-- A guard and a hint. -/
def CHdr.bits (h : CHdr) : LowBits := ⟨BitVec.ofBool h.gn, h.gp, h.hint.code.extractLsb' 1 1, h.hint.code.extractLsb' 0 1⟩

/-- An encoding from its fields; LEN follows the form. -/
def mkEnc (opc : BitVec 8) (h : LowBits) (mod sub : BitVec 4) (d a b c : BitVec 10) (f : Form) : Enc :=
  { w := { sub := sub, c := c, b := b, a := a, d := d, mod := mod, gn := h.gn, gp := h.gp, opc := opc, nwb := h.nwb,
           stay := h.stay, len := f.len }, f := f }

/-! ### Reading the fields -/

/-- The guard of word 0. -/
def W0.guard (w : W0) : Guard := ⟨w.gp, w.gn.getLsbD 0⟩
/-- Guard, STAY and NWB of word 0. -/
def W0.hdr (w : W0) : Hdr := ⟨w.guard, w.stay.getLsbD 0, w.nwb.getLsbD 0⟩
/-- Guard and hint of word 0 (R50). -/
def W0.chdr (w : W0) : CHdr := ⟨w.guard, Hint.ofCode (w.nwb ++ w.stay)⟩
/-- Operand of DST. -/
def Enc.od (e : Enc) : Option Opnd := decSpec e.w.d e.f.lit
/-- Operand of SA. -/
def Enc.oa (e : Enc) : Option Opnd := decSpec e.w.a e.f.lit
/-- Operand of SB. -/
def Enc.ob (e : Enc) : Option Opnd := decSpec e.w.b e.f.lit
/-- Operand of SC. -/
def Enc.oc (e : Enc) : Option Opnd := decSpec e.w.c e.f.lit
/-- ITYPE of MOD[2:0]. -/
def Enc.ity (e : Enc) : Option IType := IType.ofCode (e.w.mod.extractLsb' 0 3)
/-- FTYPE of MOD[2:0]. -/
def Enc.fty (e : Enc) : Option FType := FType.ofCode (e.w.mod.extractLsb' 0 3)
/-- Scope of MOD[2:0]. -/
def Enc.scope (e : Enc) : Option Scope := Scope.ofCode (e.w.mod.extractLsb' 0 3)
/-- Rounding of SUB[1:0]. -/
def Enc.rnd (e : Enc) : Rnd := Rnd.ofCode (e.w.sub.extractLsb' 0 2)
/-- COND of SUB, integer. -/
def Enc.cond (e : Enc) : Option Cond := Cond.ofCode e.w.sub
/-- COND of SUB, float. -/
def Enc.fcond (e : Enc) : Option FCond := FCond.ofCode e.w.sub
/-- Space of MOD[1:0]. -/
def Enc.space (e : Enc) : Space := Space.ofCode (e.w.mod.extractLsb' 0 2)
/-- Cache policy of MOD[3:2]. -/
def Enc.pol (e : Enc) : Option CachePol := CachePol.ofCode (e.w.mod.extractLsb' 2 2)
/-- Size of SUB[2:0]. -/
def Enc.size (e : Enc) : Option Size := Size.ofCode (e.w.sub.extractLsb' 0 3)
/-- Atomic operation of SUB. -/
def Enc.aop (e : Enc) : Option AOp := AOp.ofCode e.w.sub
/-- Reduction of SUB[2:0]. -/
def Enc.redop (e : Enc) : Option RedOp := RedOp.ofCode (e.w.sub.extractLsb' 0 3)
/-- `shfl` mode of SUB. -/
def Enc.shfl (e : Enc) : Option ShflMode := ShflMode.ofCode e.w.sub
/-- `smp` mode of SUB. -/
def Enc.smode (e : Enc) : Option SmpMode := SmpMode.ofCode e.w.sub
/-- `fence` kind of SUB. -/
def Enc.fkind (e : Enc) : Option FenceKind := FenceKind.ofCode e.w.sub
/-- `zdrn` conversion of SUB. -/
def Enc.dcv (e : Enc) : Option DrnCv := DrnCv.ofCode e.w.sub
/-- Rounding of a control immediate (R79). -/
def ctlRnd (c : BitVec 10) : Option Rnd := some (Rnd.ofCode (c.extractLsb' 0 2))
/-- `.sat` of a control immediate (R79). -/
def ctlSat (c : BitVec 10) : Bool := c.getLsbD 2
/-- Displacement and order of a memory operand (R191). -/
def Enc.disp (e : Enc) : Option Disp :=
  match e.f with
  | .w64 => some (.short (e.w.c.extractLsb' 0 8))
  | .w96 l => some (.long l)
  | .w128 x0 x1 =>
    if e.w.sub.getLsbD 3 then (Scope.ofCode (x0.extractLsb' 0 3)).map fun sc => .ext x1 (some sc)
    else some (.ext x1 none)
/-- Displacement, space and order of an atomic (R196). -/
def Enc.adisp (e : Enc) : Option ADisp :=
  match e.f with
  | .w64 => some .short
  | .w96 l => some (.long l)
  | .w128 x0 x1 => (ASpace.ofCode (x0.extractLsb' 0 2)).map fun sp => .ext sp (x0.getLsbD 2) (x0.getLsbD 3) x1

/-! ### The checks of R73 -/

/-- How many registers a field of width rule `k` names in this encoding. -/
def Enc.count (e : Enc) : Width → Nat
  | .one => 1
  | .int => if e.w.mod.extractLsb' 0 3 = 6#3 then 2 else 1
  | .flt => if e.w.mod.extractLsb' 0 3 = 1#3 then 2 else 1
  | .pair => 2
  | .w64lo => if e.w.mod.getLsbD 0 then 2 else 1
  | .w64hi => if e.w.mod.getLsbD 3 then 2 else 1
  | .cvtD => if e.w.mod = 1 ∨ e.w.mod = 12 then 2 else 1
  | .cvtS => if e.w.sub = 1 ∨ e.w.sub = 12 then 2 else 1
  | .size => match (e.w.sub.extractLsb' 0 3 : BitVec 3).toNat with | 5 => 2 | 6 => 4 | _ => 1
  | .base => if e.w.mod.extractLsb' 0 2 = 0#2 ∨ e.w.mod.extractLsb' 0 2 = 3#2 then 2 else 1
  | .abase => if e.f.x0.extractLsb' 0 2 = 0#2 then 2 else 1
  | .zbase => if e.f.x0.getLsbD 18 then 1 else 2
  | .chans => (if e.w.mod.getLsbD 0 then 1 else 0) + (if e.w.mod.getLsbD 1 then 1 else 0)
      + (if e.w.mod.getLsbD 2 then 1 else 0) + (if e.w.mod.getLsbD 3 then 1 else 0)
  | .atmc => if e.w.mod.getLsbD 3 then 3 else 2

/-- The alignment of the first register of a field (R13, R186, R200). -/
def Enc.align (e : Enc) (k : Width) : Nat :=
  match k with
  | .chans => 1
  | .atmc => 4
  | k => e.count k

/-- Registers in a row from an operand: number and count fit the class and the alignment (R13, R152, R186). -/
def regsFit (o : Opnd) (n al : Nat) : Bool :=
  match o with
  | .v r => r.toNat % al = 0
  | .g r => r.toNat % al = 0 && r.toNat + n ≤ 64
  | .o _ => n ≤ 1
  | .h _ => n ≤ 1
  | .p _ => n ≤ 1
  | _ => true

/-- A special source does not fill a 64-bit field of an atomic (R186). -/
def specialFits (o : Opnd) (w : Width) (n : Nat) : Bool :=
  match o, w with
  | .zero, .w64hi => n ≤ 1
  | _, _ => true

/-- Is the operand the literal? -/
def Opnd.isLit : Opnd → Bool
  | .lit _ => true
  | _ => false

/-- Does the specifier of a field pass the static half of step 4 of R73? That a displacement field of the 128-bit form
holding another specifier than 0x2C0 is an operand fault and no unused field is the model's choice (log 107). -/
def Enc.fieldOk (e : Enc) (r : Role) (s : BitVec 10) : Bool :=
  match r with
  | .unused => true
  | .zeros => true
  | .join => true
  | .raw _ _ => true
  | .ctl => s.extractLsb' 8 2 = 3#2
  | .disp => match e.f with
    | .w64 => s.extractLsb' 8 2 = 3#2
    | .w96 _ => s = specLit
    | .w128 _ _ => s = specZero
  | .scale => match decSpec s e.f.lit with
    | some (.g _) => true
    | some .zero => true
    | _ => false
  | .op k w _ => match decSpec s e.f.lit with
    | none => false
    | some o => k.takes o && regsFit o (e.count w) (e.align w) && specialFits o w (e.count w) && (o.isLit → e.f.len = 1)

/-- SUB values assigned (R72), with the length rule of R80 and the kinds of R85–R90. -/
def Enc.subOk (e : Enc) (r : Row) : Bool :=
  r.subs.testBit e.w.sub.toNat &&
    !((r.c = .disp && e.w.opc ≠ 0x72) && e.w.sub.getLsbD 3 && e.f.len ≠ 2)

/-- Cache policy of a load or store (R80). `.nl1` with `.cn`, which the table calls global only and refuses with the
scratchpad spaces alone, is taken on a load (log 108). -/
def Enc.polOk (e : Enc) : Bool :=
  let sp : BitVec 2 := e.w.mod.extractLsb' 0 2
  let pol : BitVec 2 := e.w.mod.extractLsb' 2 2
  pol ≠ 3 && !(pol = 2 && (sp = 1 || sp = 2))

/-- MOD values assigned (R72, R80, R87, R89). -/
def Enc.modOk (e : Enc) (r : Row) : Bool :=
  match e.w.opc.toNat with
  | 0x70 | 0xD5 => e.polOk
  | 0x71 | 0xD6 => e.polOk && e.w.mod.extractLsb' 0 2 ≠ 3#2
  | 0x63 | 0x64 => if e.w.sub.extractLsb' 0 3 = 6#3 then e.w.mod = 0 else r.mods.testBit e.w.mod.toNat
  | 0xA5 => e.w.mod = 0 || (e.w.mod = 1 && (e.w.sub = 0 || e.w.sub = 4))
  | _ => r.mods.testBit e.w.mod.toNat

/-- The destination allows NWB: one register, named (R26, R153). -/
def Enc.nwbOk (e : Enc) (r : Row) : Bool :=
  (match r.d with
  | .op _ w _ => e.count w == 1
  | _ => false) && e.w.d ≠ specZero
  && !((e.w.opc = 0x32 || e.w.opc = 0x33) && e.w.mod.extractLsb' 0 3 = 6#3)

/-- Bits [3:2] (R25, R26, R50): STAY and NWB, or the hint, as the opcode allows. NWB needs a register destination of
one register; `clz` and `popc` with ITYPE 6 refuse it (R153). -/
def Enc.lowOk (e : Enc) (r : Row) : Bool :=
  match r.low with
  | .run => e.w.nwb = 0 || e.nwbOk r
  | .runNoNwb => e.w.nwb = 0
  | .termNwb => e.w.stay = 0 && (e.w.nwb = 0 || e.nwbOk r)
  | .term => e.w.stay = 0 && e.w.nwb = 0
  | .hint => true
  | .hint0 => e.w.stay = 0 && e.w.nwb = 0

/-- Contents a field must have whatever the operand faults (R52, R79, R89, R254). -/
def Enc.fieldEnc (e : Enc) (r : Role) (s : BitVec 10) : Bool :=
  match r with
  | .unused => s = specZero
  | .zeros => s = 0
  | .join => true
  | .raw n _ => s.toNat < 2 ^ n
  | .ctl => s.extractLsb' 8 2 ≠ 3#2 || s.extractLsb' 3 5 = 0#5
  | .disp => true
  | .scale => if e.w.sub = 3 then (match decSpec s e.f.lit with | some (.g _) => true | _ => false) else s = specZero
  | .op _ _ _ => true

/-- Opcodes that consume the literal themselves (R54, R81, R83). -/
def usesLiteral (opc : BitVec 8) : Bool :=
  opc = 0x01 || opc = 0x02 || opc = 0x03 || opc = 0x80 || opc = 0x81

/-- Element size of a `zdrn` conversion (R255). -/
def drnElem (sub : BitVec 4) : Nat :=
  match sub.toNat with
  | 0 => 4 | 1 => 2 | 2 => 2 | 3 => 1 | 4 => 4 | _ => 1

/-- X0 and X1 of the 128-bit form, and the fields they bind (R57, R191, R196, R200, R215, R222, R248, R254, R260). -/
def Enc.extOk (e : Enc) : Bool :=
  match e.f with
  | .w128 x0 x1 =>
    match e.w.opc.toNat with
    | 0x70 | 0x71 | 0xD5 | 0xD6 =>
      x0.toNat < 6 && (e.w.sub.getLsbD 3 || x0 = 0)
    | 0x80 | 0x81 => x0.toNat < 16 && x0.extractLsb' 0 2 ≠ 3#2
    | 0x82 => x0.extractLsb' 0 6 = 0#6 && x1.extractLsb' 24 8 = 0#8
    | 0x90 =>
      let len := (x0.extractLsb' 0 20 : BitVec 20).toNat
      len ≠ 0 && len % 4 = 0 && (e.w.mod.getLsbD 0 == (e.w.b ≠ specZero)) &&
        (e.w.sub.getLsbD 1 || (x0.extractLsb' 20 12 = 0#12 && x1 = 0))
    | 0x91 =>
      let len := (x0.extractLsb' 0 20 : BitVec 20).toNat
      len ≠ 0 && len % 4 = 0 && (e.w.mod.getLsbD 0 == (e.w.b ≠ specZero)) && x0.extractLsb' 20 12 = 0#12 && x1 = 0
    | 0x73 => x0.toNat < 2 ^ 12 && x1 = 0
    | 0xA2 => x0.toNat < 2 ^ 15 && x1 = 0
    | 0xA5 =>
      let row0 := (x0.extractLsb' 0 6 : BitVec 6).toNat
      let rows := (x0.extractLsb' 6 6 : BitVec 6).toNat
      let cols := (x0.extractLsb' 12 6 : BitVec 6).toNat
      let col0 := (x0.extractLsb' 25 6 : BitVec 6).toNat
      !x0.getLsbD 31 && !x0.getLsbD 19 && (x0.extractLsb' 20 5 = 0#5 || e.w.sub = 5) &&
        row0 + rows + 1 ≤ 64 && col0 + cols + 1 ≤ 64 && x1.toNat % 16 = 0 && (cols + 1) * drnElem e.w.sub ≤ x1.toNat
    | 0xB1 => x0.toNat < 6 && x1 = 0
    | 0xB5 => x0.toNat < 2 ^ 8 && x1 = 0
    | 0xC0 => x1 = 0
    | _ => x0 = 0 && x1 = 0
  | _ => true

/-- Step 3 of R73. -/
def Enc.encOk (e : Enc) (r : Row) : Bool :=
  r.lens.testBit e.f.len.toNat && e.w.len = e.f.len && e.lowOk r
    && (r.guard || (e.w.gp = 7 && e.w.gn = 0)) && e.modOk r
    && e.fieldEnc r.d e.w.d && e.fieldEnc r.a e.w.a && e.fieldEnc r.b e.w.b && e.fieldEnc r.c e.w.c
    && (e.f.len ≠ 1 || usesLiteral e.w.opc || e.w.d = specLit || e.w.a = specLit || e.w.b = specLit || e.w.c = specLit)
    && e.extOk

/-- The failing specifiers of step 4 of R73 that the encoding alone decides. -/
def Enc.staticOpf (e : Enc) (r : Row) : BitVec 4 :=
  BitVec.ofBool (!e.fieldOk r.c e.w.c) ++ (BitVec.ofBool (!e.fieldOk r.b e.w.b) ++
    (BitVec.ofBool (!e.fieldOk r.a e.w.a) ++ BitVec.ofBool (!e.fieldOk r.d e.w.d)))

/-- A `role` index outside 0 to 7 fails SA (R260). -/
def Enc.roleOpf (e : Enc) : BitVec 4 :=
  if e.w.opc = 0xB4 ∧ e.w.a.extractLsb' 8 2 = 3#2 ∧ 7 < (e.w.a.extractLsb' 0 8 : BitVec 8).toNat then 2 else 0

/-- Steps 2 to 4 of R73: what the encoding alone refuses. -/
def Enc.check (e : Enc) : Option DecErr :=
  match rowOf e.w.opc with
  | none => some .opc
  | some r =>
    if !e.subOk r then some .opc
    else if !e.encOk r then some .enc
    else
      let opf := e.staticOpf r ||| e.roleOpf
      if opf = 0 then none else some (.operand opf)

/-! ### The instruction of an accepted encoding -/

/-- The instruction an accepted encoding of opcode row 0x0 stands for. -/
def build0 (e : Enc) (lo : Nat) : Option Instr :=
  match lo with
  | 0 => some (.nop (e.w.stay.getLsbD 0))
  | 1 => some (.bra e.w.chdr ((e.w.c++e.w.b)) (e.f.lit))
  | 2 => do let a ← e.oa; return .brx e.w.chdr a (e.f.lit)
  | 3 => do let d ← e.od; return .call e.w.chdr d (e.f.lit)
  | 4 => do let d ← e.od; let a ← e.oa; return .callx e.w.chdr d a
  | 5 => do let a ← e.oa; return .ret e.w.guard a
  | 6 => some (.exit e.w.guard)
  | 7 => some .yield
  | 8 => do let a ← e.oa; return .trap e.w.guard a
  | 9 => some .eret
  | 10 => some (.brk e.w.hdr)
  | 11 => some .mhret
  | 12 => do let d ← e.od; let a ← e.oa; return .sysrd e.w.hdr (e.w.mod.getLsbD 0) d a
  | 13 => do let a ← e.oa; let b ← e.ob; return .syswr e.w.hdr (e.w.mod.getLsbD 0) a b
  | 14 => do let d ← e.od; return .emrd e.w.hdr d
  | 15 => do let a ← e.oa; return .emwr e.w.guard a
  | _ => none

/-- The instruction an accepted encoding of opcode row 0x1 stands for. -/
def build1 (e : Enc) (lo : Nat) : Option Instr :=
  match lo with
  | 0 => do let ty ← e.ity; let d ← e.od; let a ← e.oa; return .gmov e.w.hdr ty d a
  | 1 => do let ty ← e.ity; let d ← e.od; let a ← e.oa; let b ← e.ob; return .gadd e.w.hdr ty (e.w.mod.getLsbD 3) d a b
  | 2 => do let ty ← e.ity; let d ← e.od; let a ← e.oa; let b ← e.ob; return .gsub e.w.hdr ty (e.w.mod.getLsbD 3) d a b
  | 3 => do let ty ← e.ity; let d ← e.od; let a ← e.oa; let b ← e.ob; return .gmul e.w.hdr ty d a b
  | 4 => do let ty ← e.ity; let d ← e.od; let a ← e.oa; let b ← e.ob; return .gmulh e.w.hdr ty d a b
  | 5 => do let ty ← e.ity; let d ← e.od; let a ← e.oa; let b ← e.ob; let c ← e.oc; return .gmad e.w.hdr ty (e.w.mod.getLsbD 3) d a b c
  | 6 => do let ty ← e.ity; let d ← e.od; let a ← e.oa; let b ← e.ob; return .gand e.w.hdr ty d a b
  | 7 => do let ty ← e.ity; let d ← e.od; let a ← e.oa; let b ← e.ob; return .gor e.w.hdr ty d a b
  | 8 => do let ty ← e.ity; let d ← e.od; let a ← e.oa; let b ← e.ob; return .gxor e.w.hdr ty d a b
  | 9 => do let ty ← e.ity; let d ← e.od; let a ← e.oa; let b ← e.ob; return .gshl e.w.hdr ty d a b
  | 10 => do let ty ← e.ity; let d ← e.od; let a ← e.oa; let b ← e.ob; return .gshr e.w.hdr ty d a b
  | 11 => do let ty ← e.ity; let d ← e.od; let a ← e.oa; let b ← e.ob; return .gsar e.w.hdr ty d a b
  | 12 => do let ty ← e.ity; let d ← e.od; let a ← e.oa; let b ← e.ob; return .gmin e.w.hdr ty d a b
  | 13 => do let ty ← e.ity; let d ← e.od; let a ← e.oa; let b ← e.ob; return .gmax e.w.hdr ty d a b
  | 14 => do let ty ← e.ity; let cond ← e.cond; let d ← e.od; let a ← e.oa; let b ← e.ob; return .gcmp e.w.hdr ty cond d a b
  | 15 => do let ty ← e.ity; let d ← e.od; let a ← e.oa; let b ← e.ob; let c ← e.oc; return .gsel e.w.hdr ty d a b c
  | _ => none

/-- The instruction an accepted encoding of opcode row 0x2 stands for. -/
def build2 (e : Enc) (lo : Nat) : Option Instr :=
  match lo with
  | 0 => do let ty ← e.ity; let d ← e.od; let a ← e.oa; let b ← e.ob; return .add e.w.hdr ty (e.w.mod.getLsbD 3) d a b
  | 1 => do let ty ← e.ity; let d ← e.od; let a ← e.oa; let b ← e.ob; return .sub e.w.hdr ty (e.w.mod.getLsbD 3) d a b
  | 2 => do let ty ← e.ity; let d ← e.od; let a ← e.oa; let b ← e.ob; return .mul e.w.hdr ty d a b
  | 3 => do let ty ← e.ity; let d ← e.od; let a ← e.oa; let b ← e.ob; return .mulh e.w.hdr ty d a b
  | 4 => do let ty ← e.ity; let d ← e.od; let a ← e.oa; let b ← e.ob; let c ← e.oc; return .mad e.w.hdr ty (e.w.mod.getLsbD 3) d a b c
  | 5 => do let ty ← e.ity; let d ← e.od; let a ← e.oa; let b ← e.ob; return .and e.w.hdr ty d a b
  | 6 => do let ty ← e.ity; let d ← e.od; let a ← e.oa; let b ← e.ob; return .or e.w.hdr ty d a b
  | 7 => do let ty ← e.ity; let d ← e.od; let a ← e.oa; let b ← e.ob; return .xor e.w.hdr ty d a b
  | 8 => do let ty ← e.ity; let d ← e.od; let a ← e.oa; let b ← e.ob; return .shl e.w.hdr ty d a b
  | 9 => do let ty ← e.ity; let d ← e.od; let a ← e.oa; let b ← e.ob; return .shr e.w.hdr ty d a b
  | 10 => do let ty ← e.ity; let d ← e.od; let a ← e.oa; let b ← e.ob; return .sar e.w.hdr ty d a b
  | 11 => do let ty ← e.ity; let d ← e.od; let a ← e.oa; let b ← e.ob; return .min e.w.hdr ty d a b
  | 12 => do let ty ← e.ity; let d ← e.od; let a ← e.oa; let b ← e.ob; return .max e.w.hdr ty d a b
  | 13 => do let ty ← e.ity; let d ← e.od; let a ← e.oa; return .abs e.w.hdr ty (e.w.mod.getLsbD 3) d a
  | 14 => do let ty ← e.ity; let d ← e.od; let a ← e.oa; let b ← e.ob; let c ← e.oc; return .sel e.w.hdr ty d a b c
  | 15 => do let ty ← e.ity; let cond ← e.cond; let d ← e.od; let a ← e.oa; let b ← e.ob; return .cmp e.w.hdr ty cond d a b
  | _ => none

/-- The instruction an accepted encoding of opcode row 0x3 stands for. -/
def build3 (e : Enc) (lo : Nat) : Option Instr :=
  match lo with
  | 0 => do let ty ← e.ity; let d ← e.od; let a ← e.oa; let b ← e.ob; return .bfx e.w.hdr ty d a b
  | 1 => do let d ← e.od; let a ← e.oa; let b ← e.ob; let c ← e.oc; return .bfi e.w.hdr d a b c
  | 2 => do let ty ← e.ity; let d ← e.od; let a ← e.oa; return .clz e.w.hdr ty d a
  | 3 => do let ty ← e.ity; let d ← e.od; let a ← e.oa; return .popc e.w.hdr ty d a
  | 4 => do let ty ← e.ity; let d ← e.od; let a ← e.oa; return .brev e.w.hdr ty d a
  | 5 => do let d ← e.od; let a ← e.oa; let b ← e.ob; let c ← e.oc; return .idp4 e.w.hdr (e.w.mod.getLsbD 1) (e.w.mod.getLsbD 0) (e.w.mod.getLsbD 2) d a b c
  | 6 => do let ty ← e.ity; let d ← e.od; let a ← e.oa; let b ← e.ob; let c ← e.oc; return .sad e.w.hdr ty d a b c
  | 7 => do let d ← e.od; let a ← e.oa; let b ← e.ob; let c ← e.oc; return .addc e.w.hdr d a b c
  | 8 => do let d ← e.od; let a ← e.oa; let b ← e.ob; return .pand e.w.hdr d a b
  | 9 => do let d ← e.od; let a ← e.oa; let b ← e.ob; return .por e.w.hdr d a b
  | 10 => do let d ← e.od; let a ← e.oa; let b ← e.ob; return .pxor e.w.hdr d a b
  | 11 => do let d ← e.od; let a ← e.oa; return .pnot e.w.hdr d a
  | 12 => do let d ← e.od; let a ← e.oa; return .vany e.w.hdr d a
  | 13 => do let d ← e.od; let a ← e.oa; return .vall e.w.hdr d a
  | 14 => do let d ← e.od; let a ← e.oa; return .vbal e.w.hdr d a
  | 15 => do let d ← e.od; let a ← e.oa; return .mbcnt e.w.hdr d a
  | _ => none

/-- The instruction an accepted encoding of opcode row 0x4 stands for. -/
def build4 (e : Enc) (lo : Nat) : Option Instr :=
  match lo with
  | 0 => do let fty ← e.fty; let d ← e.od; let a ← e.oa; let b ← e.ob; return .fadd e.w.hdr fty (e.w.mod.getLsbD 3) e.rnd (e.w.sub.getLsbD 2) (e.w.sub.getLsbD 3) d a b
  | 1 => do let fty ← e.fty; let d ← e.od; let a ← e.oa; let b ← e.ob; return .fsub e.w.hdr fty (e.w.mod.getLsbD 3) e.rnd (e.w.sub.getLsbD 2) (e.w.sub.getLsbD 3) d a b
  | 2 => do let fty ← e.fty; let d ← e.od; let a ← e.oa; let b ← e.ob; return .fmul e.w.hdr fty (e.w.mod.getLsbD 3) e.rnd (e.w.sub.getLsbD 2) (e.w.sub.getLsbD 3) d a b
  | 3 => do let fty ← e.fty; let d ← e.od; let a ← e.oa; let b ← e.ob; let c ← e.oc; return .fma e.w.hdr fty (e.w.mod.getLsbD 3) e.rnd (e.w.sub.getLsbD 2) (e.w.sub.getLsbD 3) d a b c
  | 4 => do let fty ← e.fty; let d ← e.od; let a ← e.oa; let b ← e.ob; return .fmin e.w.hdr fty (e.w.mod.getLsbD 3) (e.w.sub.getLsbD 2) (e.w.sub.getLsbD 3) d a b
  | 5 => do let fty ← e.fty; let d ← e.od; let a ← e.oa; let b ← e.ob; return .fmax e.w.hdr fty (e.w.mod.getLsbD 3) (e.w.sub.getLsbD 2) (e.w.sub.getLsbD 3) d a b
  | 6 => do let fty ← e.fty; let fc ← e.fcond; let d ← e.od; let a ← e.oa; let b ← e.ob; return .fcmp e.w.hdr fty (e.w.mod.getLsbD 3) fc d a b
  | 7 => do let fty ← e.fty; let d ← e.od; let a ← e.oa; return .frnd e.w.hdr fty e.rnd d a
  | 8 => do let fty ← e.fty; let d ← e.od; let a ← e.oa; return .fclass e.w.hdr fty d a
  | 9 => do let fty ← e.fty; let d ← e.od; let a ← e.oa; let b ← e.ob; return .fscl e.w.hdr fty e.rnd d a b
  | 10 => do let fty ← e.fty; let d ← e.od; let a ← e.oa; let b ← e.ob; let c ← e.oc; return .fdp2 e.w.hdr fty e.rnd (e.w.sub.getLsbD 2) (e.w.sub.getLsbD 3) d a b c
  | _ => none

/-- The instruction an accepted encoding of opcode row 0x5 stands for. -/
def build5 (e : Enc) (lo : Nat) : Option Instr :=
  match lo with
  | 0 => do let fty ← e.fty; let d ← e.od; let a ← e.oa; return .rcp e.w.hdr fty (e.w.sub.getLsbD 0) d a
  | 1 => do let fty ← e.fty; let d ← e.od; let a ← e.oa; return .rsq e.w.hdr fty d a
  | 2 => do let fty ← e.fty; let d ← e.od; let a ← e.oa; return .sqt e.w.hdr fty (e.w.sub.getLsbD 0) d a
  | 3 => do let fty ← e.fty; let d ← e.od; let a ← e.oa; return .ex2 e.w.hdr fty d a
  | 4 => do let fty ← e.fty; let d ← e.od; let a ← e.oa; return .lg2 e.w.hdr fty d a
  | 5 => do let fty ← e.fty; let d ← e.od; let a ← e.oa; return .sin e.w.hdr fty d a
  | 6 => do let fty ← e.fty; let d ← e.od; let a ← e.oa; return .cos e.w.hdr fty d a
  | 7 => do let fty ← e.fty; let d ← e.od; let a ← e.oa; return .tnh e.w.hdr fty d a
  | 8 => do let dt ← (CType.ofCode e.w.mod); let st ← (CType.ofCode e.w.sub); let rnd ← (ctlRnd e.w.c); let d ← e.od; let a ← e.oa; return .cvt e.w.hdr dt st rnd ((ctlSat e.w.c)) d a
  | 9 => do let fty ← e.fty; let rnd ← (ctlRnd e.w.c); let d ← e.od; let a ← e.oa; let b ← e.ob; return .cvtp e.w.hdr fty rnd ((ctlSat e.w.c)) d a b
  | 10 => do let d ← e.od; let a ← e.oa; let b ← e.ob; return .cvtq e.w.hdr (e.w.mod.getLsbD 0) (e.w.sub.getLsbD 2) ((e.w.sub.extractLsb' 0 2)) d a b
  | _ => none

/-- The instruction an accepted encoding of opcode row 0x6 stands for. -/
def build6 (e : Enc) (lo : Nat) : Option Instr :=
  match lo with
  | 0 => do let ty ← e.ity; let mode ← e.shfl; let d ← e.od; let a ← e.oa; let b ← e.ob; return .shfl e.w.hdr ty mode d a b
  | 1 => do let ty ← e.ity; let d ← e.od; let a ← e.oa; return .rdfl e.w.hdr ty d a
  | 2 => do let ty ← e.ity; let d ← e.od; let a ← e.oa; let b ← e.ob; return .rdln e.w.hdr ty d a b
  | 3 => do let ty ← e.ity; let op ← e.redop; let d ← e.od; let a ← e.oa; return .lred e.w.hdr ty op d a
  | 4 => do let ty ← e.ity; let op ← e.redop; let d ← e.od; let a ← e.oa; return .scan e.w.hdr ty op (e.w.sub.getLsbD 3) d a
  | 5 => do let ty ← e.ity; let d ← e.od; let a ← e.oa; let b ← e.ob; let c ← e.oc; return .cmpk e.w.hdr ty d a b c
  | 6 => do let ty ← e.ity; let d ← e.od; let a ← e.oa; let b ← e.ob; return .expd e.w.hdr ty d a b
  | 7 => do let d ← e.od; let a ← e.oa; let b ← e.ob; return .bperm e.w.hdr (e.w.sub.getLsbD 0) d a b
  | _ => none

/-- The instruction an accepted encoding of opcode row 0x7 stands for. -/
def build7 (e : Enc) (lo : Nat) : Option Instr :=
  match lo with
  | 0 => do let pol ← e.pol; let sz ← e.size; let d ← e.od; let a ← e.oa; let b ← e.ob; let disp ← e.disp; return .ld e.w.hdr e.space pol sz d a b disp
  | 1 => do let pol ← e.pol; let sz ← e.size; let d ← e.od; let a ← e.oa; let b ← e.ob; let disp ← e.disp; return .st e.w.hdr e.space pol sz d a b disp
  | 2 => do let a ← e.oa; let b ← e.ob; let disp ← e.disp; return .prf e.w.hdr (e.w.mod.getLsbD 2) a b disp
  | 3 => do let mode ← e.smode; let d ← e.od; let a ← e.oa; let b ← e.ob; let c ← e.oc; return .smp e.w.hdr (e.w.mod) mode d a b c ((e.f.x0.extractLsb' 0 4)) ((e.f.x0.extractLsb' 4 4)) ((e.f.x0.extractLsb' 8 4))
  | 4 => do let d ← e.od; let a ← e.oa; let b ← e.ob; return .tld e.w.hdr (e.w.mod) d a b
  | _ => none

/-- The instruction an accepted encoding of opcode row 0x8 stands for. -/
def build8 (e : Enc) (lo : Nat) : Option Instr :=
  match lo with
  | 0 => do let op ← e.aop; let sc ← e.scope; let d ← e.od; let a ← e.oa; let b ← e.ob; let c ← e.oc; let ad ← e.adisp; return .atm e.w.hdr op sc (e.w.mod.getLsbD 3) d a b c ad
  | 1 => do let op ← e.aop; let sc ← e.scope; let a ← e.oa; let b ← e.ob; let c ← e.oc; let ad ← e.adisp; return .ared e.w.hdr op sc (e.w.mod.getLsbD 3) a b c ad
  | 2 => do let sc ← e.scope; let d ← e.od; let a ← e.oa; let b ← e.ob; let c ← e.oc; return .atmc e.w.hdr sc (e.w.mod.getLsbD 3) d a b c ((e.f.x1++e.f.x0))
  | 3 => do let kind ← e.fkind; let sc ← e.scope; return .fence e.w.hdr kind sc
  | 4 => do let a ← e.oa; let b ← e.ob; let c ← e.oc; return .bini e.w.hdr a b c
  | 5 => do let sc ← e.scope; let d ← e.od; let a ← e.oa; return .arv e.w.hdr sc d a
  | 6 => do let a ← e.oa; let b ← e.ob; return .xpct e.w.hdr a b
  | 7 => do let sc ← e.scope; let a ← e.oa; let b ← e.ob; return .waitp e.w.hdr sc a b
  | 8 => do let a ← e.oa; let b ← e.ob; return .watch e.w.hdr a b
  | 9 => do let d ← e.od; return .bcls e.w.hdr d
  | _ => none

/-- The instruction an accepted encoding of opcode row 0x9 stands for. -/
def build9 (e : Enc) (lo : Nat) : Option Instr :=
  match lo with
  | 0 => do let d ← e.od; let a ← e.oa; let b ← e.ob; let c ← e.oc; return .acp e.w.hdr (e.w.sub.getLsbD 0) (e.w.sub.getLsbD 1) d a b c ((e.f.x0.extractLsb' 0 20)) ((e.f.x0.extractLsb' 20 12)) ((e.f.x1.extractLsb' 12 20)) ((e.f.x1.extractLsb' 0 12))
  | 1 => do let d ← e.od; let a ← e.oa; let b ← e.ob; let c ← e.oc; return .amc e.w.hdr d a b c ((e.f.x0.extractLsb' 0 20))
  | _ => none

/-- The instruction an accepted encoding of opcode row 0xa stands for. -/
def buildA (e : Enc) (lo : Nat) : Option Instr :=
  match lo with
  | 0 => do let a ← e.oa; return .gang (e.w.stay.getLsbD 0) ((e.w.d.extractLsb' 0 2)) a
  | 1 => do let a ← e.oa; return .eset (e.w.stay.getLsbD 0) ((e.w.d.extractLsb' 0 3)) a
  | 2 => do let a ← e.oa; let b ← e.ob; let c ← e.oc; return .mma (e.w.mod.getLsbD 0) ((e.w.d.extractLsb' 0 2)) a b c ((e.f.x0.extractLsb' 0 3)) ((e.f.x0.extractLsb' 3 3)) ((e.f.x0.extractLsb' 6 8)) ((e.f.x0.getLsbD 14))
  | 3 => do let a ← e.oa; let b ← e.ob; return .zclr e.w.hdr a b
  | 4 => do let a ← e.oa; let b ← e.ob; return .zld e.w.hdr a b
  | 5 => do let cv ← e.dcv; let a ← e.oa; let b ← e.ob; let c ← e.oc; return .zdrn e.w.hdr (e.w.mod.getLsbD 0) cv a b c ((e.f.x0.getLsbD 18)) ((e.f.x0.extractLsb' 0 6)) ((e.f.x0.extractLsb' 6 6)) ((e.f.x0.extractLsb' 12 6)) ((e.f.x0.extractLsb' 20 5)) ((e.f.x0.extractLsb' 25 6)) (e.f.x1)
  | 6 => do let d ← e.od; let a ← e.oa; return .zprg e.w.hdr d a
  | 7 => do let d ← e.od; let a ← e.oa; return .zgrow e.w.hdr d a
  | 8 => do let a ← e.oa; let b ← e.ob; return .zfree e.w.hdr a b
  | _ => none

/-- The instruction an accepted encoding of opcode row 0xb stands for. -/
def buildB (e : Enc) (lo : Nat) : Option Instr :=
  match lo with
  | 0 => do let d ← e.od; let a ← e.oa; return .talc e.w.hdr d a
  | 1 => do let sc ← (Scope.ofCode (e.f.x0.extractLsb' 0 3)); let a ← e.oa; let b ← e.ob; return .tsub e.w.hdr (e.w.sub.getLsbD 0) sc a b
  | 2 => do let sc ← e.scope; let a ← e.oa; return .tsig e.w.hdr sc a
  | 3 => some .tend
  | 4 => do let a ← e.oa; return .role a
  | 5 => do let a ← e.oa; let b ← e.ob; let c ← e.oc; return .covr e.w.hdr a b c ((e.f.x0.extractLsb' 0 8))
  | _ => none

/-- The instruction an accepted encoding of opcode row 0xc stands for. -/
def buildC (e : Enc) (lo : Nat) : Option Instr :=
  match lo with
  | 0 => do let d ← e.od; let a ← e.oa; let b ← e.ob; let c ← e.oc; return .bqry e.w.hdr d a b c (e.f.x0)
  | 1 => do let d ← e.od; let a ← e.oa; return .bres e.w.hdr d a
  | 2 => do let d ← e.od; let a ← e.oa; return .ctrd e.w.hdr d a
  | 3 => do let a ← e.oa; let b ← e.ob; return .mark e.w.hdr a b
  | _ => none

/-- The instruction an accepted encoding of opcode row 0xd stands for. -/
def buildD (e : Enc) (lo : Nat) : Option Instr :=
  match lo with
  | 0 => do let d ← e.od; let a ← e.oa; let b ← e.ob; return .glea e.w.hdr ((e.w.mod.extractLsb' 0 3)) d a b
  | 1 => do let ty ← e.ity; let d ← e.od; let a ← e.oa; let b ← e.ob; return .gbfx e.w.hdr ty d a b
  | 2 => do let d ← e.od; let a ← e.oa; let b ← e.ob; let c ← e.oc; return .gbfi e.w.hdr d a b c
  | 3 => do let ty ← e.ity; let d ← e.od; let a ← e.oa; return .gclz e.w.hdr ty d a
  | 4 => do let ty ← e.ity; let d ← e.od; let a ← e.oa; return .gpopc e.w.hdr ty d a
  | 5 => do let pol ← e.pol; let sz ← e.size; let d ← e.od; let a ← e.oa; let b ← e.ob; let disp ← e.disp; return .gld e.w.hdr e.space pol sz d a b disp
  | 6 => do let pol ← e.pol; let sz ← e.size; let d ← e.od; let a ← e.oa; let b ← e.ob; let disp ← e.disp; return .gst e.w.hdr e.space pol sz d a b disp
  | _ => none

/-- The instruction an accepted encoding stands for. -/
def build (e : Enc) : Option Instr :=
  let lo := e.w.opc.toNat % 16
  match e.w.opc.toNat / 16 with
  | 0 => build0 e lo
  | 1 => build1 e lo
  | 2 => build2 e lo
  | 3 => build3 e lo
  | 4 => build4 e lo
  | 5 => build5 e lo
  | 6 => build6 e lo
  | 7 => build7 e lo
  | 8 => build8 e lo
  | 9 => build9 e lo
  | 10 => buildA e lo
  | 11 => buildB e lo
  | 12 => buildC e lo
  | 13 => buildD e lo
  | _ => none

/-- Is the word a pad word or a bad pad word (R42, R43)? -/
def isPadLen (w : Word) : Bool := w.extractLsb' 0 2 = 3#2

/-- The pad word (R43). -/
def padWord : Word := 3

/-- What the four words at an address decode to (R42–R58, R71–R73). An unassigned OPC and a bad pad word are the row
UNASSIGNED_OPC; a pad word is no instruction, and the caller skips pad words first (R44). -/
def decode (w0 w1 w2 w3 : Word) : Except DecErr Instr :=
  if isPadLen w0 then .ok (.unassignedOpc w0)
  else
    let e := Enc.ofWords w0 w1 w2 w3
    if rowOf e.w.opc = none then .ok (.unassignedOpc w0)
    else match e.check with
      | some r => .error r
      | none => match build e with
        | some i => .ok i
        | none => .error .enc

/-- The encoding of an instruction; none for a device event. -/
def toEnc (i : Instr) : Option Enc :=
  match i with
  | .nop stay => mkEnc 0x00 (stayBits stay) 0 0 specZero specZero specZero specZero .w64
  | .bra ch join target => mkEnc 0x01 ch.bits 0 0 0 0 (join.extractLsb' 0 10) (join.extractLsb' 10 10) (.w96 target)
  | .brx ch a join => mkEnc 0x02 ch.bits 0 0 specZero (encSpec a) specZero specZero (.w96 join)
  | .call ch d target => mkEnc 0x03 ch.bits 0 0 (encSpec d) specZero specZero specZero (.w96 target)
  | .callx ch d a => mkEnc 0x04 ch.bits 0 0 (encSpec d) (encSpec a) specZero specZero .w64
  | .ret gd a => mkEnc 0x05 gd.bits 0 0 specZero (encSpec a) specZero specZero .w64
  | .exit gd => mkEnc 0x06 gd.bits 0 0 specZero specZero specZero specZero .w64
  | .yield => mkEnc 0x07 plainBits 0 0 specZero specZero specZero specZero .w64
  | .trap gd a => mkEnc 0x08 gd.bits 0 0 specZero (encSpec a) specZero specZero .w64
  | .eret => mkEnc 0x09 plainBits 0 0 specZero specZero specZero specZero .w64
  | .brk h => mkEnc 0x0a h.bits 0 0 specZero specZero specZero specZero .w64
  | .mhret => mkEnc 0x0b plainBits 0 0 specZero specZero specZero specZero .w64
  | .sysrd h w64 d a => mkEnc 0x0c h.bits (b0 w64) 0 (encSpec d) (encSpec a) specZero specZero (litForm [a])
  | .syswr h w64 a b => mkEnc 0x0d h.bits (b0 w64) 0 specZero (encSpec a) (encSpec b) specZero (litForm [a, b])
  | .emrd h d => mkEnc 0x0e h.bits 0 0 (encSpec d) specZero specZero specZero .w64
  | .emwr gd a => mkEnc 0x0f gd.bits 0 0 specZero (encSpec a) specZero specZero .w64
  | .gmov h ty d a => mkEnc 0x10 h.bits (mk4 ty.code false) 0 (encSpec d) (encSpec a) specZero specZero (litForm [a])
  | .gadd h ty sat d a b => mkEnc 0x11 h.bits (mk4 ty.code sat) 0 (encSpec d) (encSpec a) (encSpec b) specZero (litForm [a, b])
  | .gsub h ty sat d a b => mkEnc 0x12 h.bits (mk4 ty.code sat) 0 (encSpec d) (encSpec a) (encSpec b) specZero (litForm [a, b])
  | .gmul h ty d a b => mkEnc 0x13 h.bits (mk4 ty.code false) 0 (encSpec d) (encSpec a) (encSpec b) specZero (litForm [a, b])
  | .gmulh h ty d a b => mkEnc 0x14 h.bits (mk4 ty.code false) 0 (encSpec d) (encSpec a) (encSpec b) specZero (litForm [a, b])
  | .gmad h ty sat d a b c => mkEnc 0x15 h.bits (mk4 ty.code sat) 0 (encSpec d) (encSpec a) (encSpec b) (encSpec c) (litForm [a, b, c])
  | .gand h ty d a b => mkEnc 0x16 h.bits (mk4 ty.code false) 0 (encSpec d) (encSpec a) (encSpec b) specZero (litForm [a, b])
  | .gor h ty d a b => mkEnc 0x17 h.bits (mk4 ty.code false) 0 (encSpec d) (encSpec a) (encSpec b) specZero (litForm [a, b])
  | .gxor h ty d a b => mkEnc 0x18 h.bits (mk4 ty.code false) 0 (encSpec d) (encSpec a) (encSpec b) specZero (litForm [a, b])
  | .gshl h ty d a b => mkEnc 0x19 h.bits (mk4 ty.code false) 0 (encSpec d) (encSpec a) (encSpec b) specZero (litForm [a, b])
  | .gshr h ty d a b => mkEnc 0x1a h.bits (mk4 ty.code false) 0 (encSpec d) (encSpec a) (encSpec b) specZero (litForm [a, b])
  | .gsar h ty d a b => mkEnc 0x1b h.bits (mk4 ty.code false) 0 (encSpec d) (encSpec a) (encSpec b) specZero (litForm [a, b])
  | .gmin h ty d a b => mkEnc 0x1c h.bits (mk4 ty.code false) 0 (encSpec d) (encSpec a) (encSpec b) specZero (litForm [a, b])
  | .gmax h ty d a b => mkEnc 0x1d h.bits (mk4 ty.code false) 0 (encSpec d) (encSpec a) (encSpec b) specZero (litForm [a, b])
  | .gcmp h ty cond d a b => mkEnc 0x1e h.bits (mk4 ty.code false) cond.code (encSpec d) (encSpec a) (encSpec b) specZero (litForm [a, b])
  | .gsel h ty d a b c => mkEnc 0x1f h.bits (mk4 ty.code false) 0 (encSpec d) (encSpec a) (encSpec b) (encSpec c) (litForm [a, b, c])
  | .glea h sh d a b => mkEnc 0xd0 h.bits (mk4 sh false) 0 (encSpec d) (encSpec a) (encSpec b) specZero (litForm [a, b])
  | .gbfx h ty d a b => mkEnc 0xd1 h.bits (mk4 ty.code false) 0 (encSpec d) (encSpec a) (encSpec b) specZero (litForm [a, b])
  | .gbfi h d a b c => mkEnc 0xd2 h.bits 0 0 (encSpec d) (encSpec a) (encSpec b) (encSpec c) (litForm [a, b, c])
  | .gclz h ty d a => mkEnc 0xd3 h.bits (mk4 ty.code false) 0 (encSpec d) (encSpec a) specZero specZero (litForm [a])
  | .gpopc h ty d a => mkEnc 0xd4 h.bits (mk4 ty.code false) 0 (encSpec d) (encSpec a) specZero specZero (litForm [a])
  | .gld h sp pol sz d a b disp => mkEnc 0xd5 h.bits (memMod sp pol) (memSub sz disp) (encSpec d) (encSpec a) (encSpec b) (disp.spec) disp.form
  | .gst h sp pol sz d a b disp => mkEnc 0xd6 h.bits (memMod sp pol) (memSub sz disp) (encSpec d) (encSpec a) (encSpec b) (disp.spec) disp.form
  | .add h ty sat d a b => mkEnc 0x20 h.bits (mk4 ty.code sat) 0 (encSpec d) (encSpec a) (encSpec b) specZero (litForm [a, b])
  | .sub h ty sat d a b => mkEnc 0x21 h.bits (mk4 ty.code sat) 0 (encSpec d) (encSpec a) (encSpec b) specZero (litForm [a, b])
  | .mul h ty d a b => mkEnc 0x22 h.bits (mk4 ty.code false) 0 (encSpec d) (encSpec a) (encSpec b) specZero (litForm [a, b])
  | .mulh h ty d a b => mkEnc 0x23 h.bits (mk4 ty.code false) 0 (encSpec d) (encSpec a) (encSpec b) specZero (litForm [a, b])
  | .mad h ty sat d a b c => mkEnc 0x24 h.bits (mk4 ty.code sat) 0 (encSpec d) (encSpec a) (encSpec b) (encSpec c) (litForm [a, b, c])
  | .and h ty d a b => mkEnc 0x25 h.bits (mk4 ty.code false) 0 (encSpec d) (encSpec a) (encSpec b) specZero (litForm [a, b])
  | .or h ty d a b => mkEnc 0x26 h.bits (mk4 ty.code false) 0 (encSpec d) (encSpec a) (encSpec b) specZero (litForm [a, b])
  | .xor h ty d a b => mkEnc 0x27 h.bits (mk4 ty.code false) 0 (encSpec d) (encSpec a) (encSpec b) specZero (litForm [a, b])
  | .shl h ty d a b => mkEnc 0x28 h.bits (mk4 ty.code false) 0 (encSpec d) (encSpec a) (encSpec b) specZero (litForm [a, b])
  | .shr h ty d a b => mkEnc 0x29 h.bits (mk4 ty.code false) 0 (encSpec d) (encSpec a) (encSpec b) specZero (litForm [a, b])
  | .sar h ty d a b => mkEnc 0x2a h.bits (mk4 ty.code false) 0 (encSpec d) (encSpec a) (encSpec b) specZero (litForm [a, b])
  | .min h ty d a b => mkEnc 0x2b h.bits (mk4 ty.code false) 0 (encSpec d) (encSpec a) (encSpec b) specZero (litForm [a, b])
  | .max h ty d a b => mkEnc 0x2c h.bits (mk4 ty.code false) 0 (encSpec d) (encSpec a) (encSpec b) specZero (litForm [a, b])
  | .abs h ty sat d a => mkEnc 0x2d h.bits (mk4 ty.code sat) 0 (encSpec d) (encSpec a) specZero specZero (litForm [a])
  | .sel h ty d a b c => mkEnc 0x2e h.bits (mk4 ty.code false) 0 (encSpec d) (encSpec a) (encSpec b) (encSpec c) (litForm [a, b])
  | .cmp h ty cond d a b => mkEnc 0x2f h.bits (mk4 ty.code false) cond.code (encSpec d) (encSpec a) (encSpec b) specZero (litForm [a, b])
  | .bfx h ty d a b => mkEnc 0x30 h.bits (mk4 ty.code false) 0 (encSpec d) (encSpec a) (encSpec b) specZero (litForm [a, b])
  | .bfi h d a b c => mkEnc 0x31 h.bits 0 0 (encSpec d) (encSpec a) (encSpec b) (encSpec c) (litForm [a, b, c])
  | .clz h ty d a => mkEnc 0x32 h.bits (mk4 ty.code false) 0 (encSpec d) (encSpec a) specZero specZero (litForm [a])
  | .popc h ty d a => mkEnc 0x33 h.bits (mk4 ty.code false) 0 (encSpec d) (encSpec a) specZero specZero (litForm [a])
  | .brev h ty d a => mkEnc 0x34 h.bits (mk4 ty.code false) 0 (encSpec d) (encSpec a) specZero specZero (litForm [a])
  | .idp4 h aN bN sat d a b c => mkEnc 0x35 h.bits (idpMod aN bN sat) 0 (encSpec d) (encSpec a) (encSpec b) (encSpec c) (litForm [a, b, c])
  | .sad h ty d a b c => mkEnc 0x36 h.bits (mk4 ty.code false) 0 (encSpec d) (encSpec a) (encSpec b) (encSpec c) (litForm [a, b, c])
  | .addc h d a b c => mkEnc 0x37 h.bits 1 0 (encSpec d) (encSpec a) (encSpec b) (encSpec c) (litForm [a, b])
  | .pand h d a b => mkEnc 0x38 h.bits 0 0 (encSpec d) (encSpec a) (encSpec b) specZero (litForm [a, b])
  | .por h d a b => mkEnc 0x39 h.bits 0 0 (encSpec d) (encSpec a) (encSpec b) specZero (litForm [a, b])
  | .pxor h d a b => mkEnc 0x3a h.bits 0 0 (encSpec d) (encSpec a) (encSpec b) specZero (litForm [a, b])
  | .pnot h d a => mkEnc 0x3b h.bits 0 0 (encSpec d) (encSpec a) specZero specZero (litForm [a])
  | .vany h d a => mkEnc 0x3c h.bits 0 0 (encSpec d) (encSpec a) specZero specZero (litForm [a])
  | .vall h d a => mkEnc 0x3d h.bits 0 0 (encSpec d) (encSpec a) specZero specZero (litForm [a])
  | .vbal h d a => mkEnc 0x3e h.bits 0 0 (encSpec d) (encSpec a) specZero specZero (litForm [a])
  | .mbcnt h d a => mkEnc 0x3f h.bits 0 0 (encSpec d) (encSpec a) specZero specZero (litForm [a])
  | .fadd h fty absa rnd na nb d a b => mkEnc 0x40 h.bits (mk4 fty.code absa) (fsub4 rnd na nb) (encSpec d) (encSpec a) (encSpec b) specZero (litForm [a, b])
  | .fsub h fty absa rnd na nb d a b => mkEnc 0x41 h.bits (mk4 fty.code absa) (fsub4 rnd na nb) (encSpec d) (encSpec a) (encSpec b) specZero (litForm [a, b])
  | .fmul h fty absa rnd na nb d a b => mkEnc 0x42 h.bits (mk4 fty.code absa) (fsub4 rnd na nb) (encSpec d) (encSpec a) (encSpec b) specZero (litForm [a, b])
  | .fma h fty absa rnd na nc d a b c => mkEnc 0x43 h.bits (mk4 fty.code absa) (fsub4 rnd na nc) (encSpec d) (encSpec a) (encSpec b) (encSpec c) (litForm [a, b, c])
  | .fmin h fty absa na nb d a b => mkEnc 0x44 h.bits (mk4 fty.code absa) (fsub4 .rn na nb) (encSpec d) (encSpec a) (encSpec b) specZero (litForm [a, b])
  | .fmax h fty absa na nb d a b => mkEnc 0x45 h.bits (mk4 fty.code absa) (fsub4 .rn na nb) (encSpec d) (encSpec a) (encSpec b) specZero (litForm [a, b])
  | .fcmp h fty absa fc d a b => mkEnc 0x46 h.bits (mk4 fty.code absa) fc.code (encSpec d) (encSpec a) (encSpec b) specZero (litForm [a, b])
  | .frnd h fty rnd d a => mkEnc 0x47 h.bits (mk4 fty.code false) (fsub4 rnd false false) (encSpec d) (encSpec a) specZero specZero (litForm [a])
  | .fclass h fty d a => mkEnc 0x48 h.bits (mk4 fty.code false) 0 (encSpec d) (encSpec a) specZero specZero (litForm [a])
  | .fscl h fty rnd d a b => mkEnc 0x49 h.bits (mk4 fty.code false) (fsub4 rnd false false) (encSpec d) (encSpec a) (encSpec b) specZero (litForm [a, b])
  | .fdp2 h fty rnd na nc d a b c => mkEnc 0x4a h.bits (mk4 fty.code false) (fsub4 rnd na nc) (encSpec d) (encSpec a) (encSpec b) (encSpec c) (litForm [a, b, c])
  | .rcp h fty ieee d a => mkEnc 0x50 h.bits (mk4 fty.code false) (b0 ieee) (encSpec d) (encSpec a) specZero specZero (litForm [a])
  | .rsq h fty d a => mkEnc 0x51 h.bits (mk4 fty.code false) 0 (encSpec d) (encSpec a) specZero specZero (litForm [a])
  | .sqt h fty ieee d a => mkEnc 0x52 h.bits (mk4 fty.code false) (b0 ieee) (encSpec d) (encSpec a) specZero specZero (litForm [a])
  | .ex2 h fty d a => mkEnc 0x53 h.bits (mk4 fty.code false) 0 (encSpec d) (encSpec a) specZero specZero (litForm [a])
  | .lg2 h fty d a => mkEnc 0x54 h.bits (mk4 fty.code false) 0 (encSpec d) (encSpec a) specZero specZero (litForm [a])
  | .sin h fty d a => mkEnc 0x55 h.bits (mk4 fty.code false) 0 (encSpec d) (encSpec a) specZero specZero (litForm [a])
  | .cos h fty d a => mkEnc 0x56 h.bits (mk4 fty.code false) 0 (encSpec d) (encSpec a) specZero specZero (litForm [a])
  | .tnh h fty d a => mkEnc 0x57 h.bits (mk4 fty.code false) 0 (encSpec d) (encSpec a) specZero specZero (litForm [a])
  | .cvt h dt st rnd sat d a => mkEnc 0x58 h.bits dt.code st.code (encSpec d) (encSpec a) specZero (ctl rnd sat) (litForm [a])
  | .cvtp h fty rnd sat d a b => mkEnc 0x59 h.bits (mk4 fty.code false) 0 (encSpec d) (encSpec a) (encSpec b) (ctl rnd sat) (litForm [a, b])
  | .cvtq h e5 sat pos d a b => mkEnc 0x5a h.bits (qMod e5) (qSub sat pos) (encSpec d) (encSpec a) (encSpec b) specZero (litForm [a, b])
  | .shfl h ty mode d a b => mkEnc 0x60 h.bits (mk4 ty.code false) mode.code (encSpec d) (encSpec a) (encSpec b) specZero (litForm [a, b])
  | .rdfl h ty d a => mkEnc 0x61 h.bits (mk4 ty.code false) 0 (encSpec d) (encSpec a) specZero specZero (litForm [a])
  | .rdln h ty d a b => mkEnc 0x62 h.bits (mk4 ty.code false) 0 (encSpec d) (encSpec a) (encSpec b) specZero (litForm [a, b])
  | .lred h ty op d a => mkEnc 0x63 h.bits (mk4 ty.code false) (op.code4 false) (encSpec d) (encSpec a) specZero specZero (litForm [a])
  | .scan h ty op exc d a => mkEnc 0x64 h.bits (mk4 ty.code false) (op.code4 exc) (encSpec d) (encSpec a) specZero specZero (litForm [a])
  | .cmpk h ty d a b c => mkEnc 0x65 h.bits (mk4 ty.code false) 0 (encSpec d) (encSpec a) (encSpec b) (encSpec c) (litForm [a])
  | .expd h ty d a b => mkEnc 0x66 h.bits (mk4 ty.code false) 0 (encSpec d) (encSpec a) (encSpec b) specZero (litForm [a])
  | .bperm h byte d a b => mkEnc 0x67 h.bits 0 (b0 byte) (encSpec d) (encSpec a) (encSpec b) specZero (litForm [a, b])
  | .ld h sp pol sz d a b disp => mkEnc 0x70 h.bits (memMod sp pol) (memSub sz disp) (encSpec d) (encSpec a) (encSpec b) (disp.spec) disp.form
  | .st h sp pol sz d a b disp => mkEnc 0x71 h.bits (memMod sp pol) (memSub sz disp) (encSpec d) (encSpec a) (encSpec b) (disp.spec) disp.form
  | .prf h l1 a b disp => mkEnc 0x72 h.bits (prfMod l1) 0 specZero (encSpec a) (encSpec b) (disp.spec) disp.form
  | .smp h mask mode d a b c ou ov ow => mkEnc 0x73 h.bits mask mode.code (encSpec d) (encSpec a) (encSpec b) (encSpec c) (.w128 (0#20 ++ ow ++ ov ++ ou) (0))
  | .tld h mask d a b => mkEnc 0x74 h.bits mask 0 (encSpec d) (encSpec a) (encSpec b) specZero (litForm [b])
  | .atm h op sc w64 d a b c ad => mkEnc 0x80 h.bits (mk4 sc.code w64) op.code (encSpec d) (encSpec a) (encSpec b) (encSpec c) ad.form
  | .ared h op sc w64 a b c ad => mkEnc 0x81 h.bits (mk4 sc.code w64) op.code specZero (encSpec a) (encSpec b) (encSpec c) ad.form
  | .atmc h sc w64 d a b c tmpl => mkEnc 0x82 h.bits (mk4 sc.code w64) 0 (encSpec d) (encSpec a) (encSpec b) (encSpec c) (.w128 (tmpl.extractLsb' 0 32) (tmpl.extractLsb' 32 32))
  | .fence h kind sc => mkEnc 0x83 h.bits (mk4 sc.code false) kind.code specZero specZero specZero specZero .w64
  | .bini h a b c => mkEnc 0x84 h.bits 0 0 specZero (encSpec a) (encSpec b) (encSpec c) (litForm [a, b, c])
  | .arv h sc d a => mkEnc 0x85 h.bits (mk4 sc.code false) 0 (encSpec d) (encSpec a) specZero specZero .w64
  | .xpct h a b => mkEnc 0x86 h.bits 0 0 specZero (encSpec a) (encSpec b) specZero (litForm [a, b])
  | .waitp h sc a b => mkEnc 0x87 h.bits (mk4 sc.code false) 0 specZero (encSpec a) (encSpec b) specZero (litForm [a, b])
  | .watch h a b => mkEnc 0x88 h.bits 0 0 specZero (encSpec a) (encSpec b) specZero .w64
  | .bcls h d => mkEnc 0x89 h.bits 0 0 (encSpec d) specZero specZero specZero .w64
  | .acp h out twoD d a b c len rows gs ps => mkEnc 0x90 h.bits (credMod b) (acpSub out twoD) (encSpec d) (encSpec a) (encSpec b) (encSpec c) (.w128 (rows ++ len) (gs ++ ps))
  | .amc h d a b c len => mkEnc 0x91 h.bits (credMod b) 0 (encSpec d) (encSpec a) (encSpec b) (encSpec c) (.w128 (0#12 ++ len) (0))
  | .gang stay k a => mkEnc 0xa0 (stayBits stay) 0 0 (0#8 ++ k) (encSpec a) specZero specZero .w64
  | .eset stay e a => mkEnc 0xa1 (stayBits stay) 0 0 (0#7 ++ e) (encSpec a) specZero specZero .w64
  | .mma ls k a b c er ec kc fbpd => mkEnc 0xa2 plainBits (b0 ls) 0 (0#8 ++ k) (encSpec a) (encSpec b) (encSpec c) (.w128 (0#17 ++ (BitVec.ofBool fbpd ++ (kc ++ (ec ++ er)))) (0))
  | .zclr h a b => mkEnc 0xa3 h.bits 0 0 specZero (encSpec a) (encSpec b) specZero (litForm [a, b])
  | .zld h a b => mkEnc 0xa4 h.bits 0 0 specZero (encSpec a) (encSpec b) specZero (litForm [a, b])
  | .zdrn h acc cv a b c pd row0 rows cols shift col0 stride => mkEnc 0xa5 h.bits (b0 acc) cv.code specZero (encSpec a) (encSpec b) (encSpec c) (.w128 (0#1 ++ (col0 ++ (shift ++ (0#1 ++ (BitVec.ofBool pd ++ (cols ++ (rows ++ row0))))))) (stride))
  | .zprg h d a => mkEnc 0xa6 h.bits 0 0 (encSpec d) (encSpec a) specZero specZero (litForm [a])
  | .zgrow h d a => mkEnc 0xa7 h.bits 0 0 (encSpec d) (encSpec a) specZero specZero (litForm [a])
  | .zfree h a b => mkEnc 0xa8 h.bits 0 0 specZero (encSpec a) (encSpec b) specZero (litForm [a, b])
  | .talc h d a => mkEnc 0xb0 h.bits 0 0 (encSpec d) (encSpec a) specZero specZero .w64
  | .tsub h node sc a b => mkEnc 0xb1 h.bits 0 (b0 node) specZero (encSpec a) (encSpec b) specZero (.w128 (0#29 ++ sc.code) (0))
  | .tsig h sc a => mkEnc 0xb2 h.bits (mk4 sc.code false) 0 specZero (encSpec a) specZero specZero .w64
  | .tend => mkEnc 0xb3 plainBits 0 0 specZero specZero specZero specZero .w64
  | .role a => mkEnc 0xb4 plainBits 0 0 specZero (encSpec a) specZero specZero .w64
  | .covr h a b c obj => mkEnc 0xb5 h.bits 0 0 specZero (encSpec a) (encSpec b) (encSpec c) (.w128 (0#24 ++ obj) (0))
  | .bqry h d a b c node => mkEnc 0xc0 h.bits 0 0 (encSpec d) (encSpec a) (encSpec b) (encSpec c) (.w128 (node) (0))
  | .bres h d a => mkEnc 0xc1 h.bits 0 0 (encSpec d) (encSpec a) specZero specZero .w64
  | .ctrd h d a => mkEnc 0xc2 h.bits 0 0 (encSpec d) (encSpec a) specZero specZero (litForm [a])
  | .mark h a b => mkEnc 0xc3 h.bits 0 0 specZero (encSpec a) (encSpec b) specZero (litForm [a, b])
  | _ => none

/-- The words of an instruction, in address order (R42, R49); none for a device event. -/
def encode (i : Instr) : Option (List Word) := (toEnc i).map Enc.words

/-- The 32-bit word at byte 4n of a little-endian bit string. -/
def wordAt (w n : Nat) : Word := BitVec.ofNat 32 (w / 2 ^ (32 * n))

/-- The instruction the decoder reads from an instruction whose bits are w, bit 0 the lowest bit of the first word;
bits above nbits are 0. -/
def decodeTableWord (nbits w : Nat) : Option Instr :=
  let w := w % 2 ^ nbits
  match decode (wordAt w 0) (wordAt w 1) (wordAt w 2) (wordAt w 3) with
  | .ok i => some i
  | .error _ => none

end Sys2Proof
end

