-- ==== Sys2Proof/Machine/GroupState.lean ====
section
/-!
DEFINITION. The state of groups and teams (spec/01 R8–R41, spec/07 R204–R214, spec/08 R232–R258, spec/10 R287–R290,
spec/12 R327–R341) and of the engine operations they issue (spec/11 R304, R322).
-/
namespace Sys2Proof.Machine

/-- Memory beyond the scratchpads: local regions by physical address, the key and key generation every byte was last
written under (R303), poisoned 128-byte sectors (R471), host memory by DMA address (R483), and, for a byte that lines of
other keys hold as well, what those lines hold: at 4096 × address + key ID, 2^40 + 2^8 × key generation + the byte
(R303). -/
structure Mem where
  hbm : Cells 8
  key : Cells 64
  pois : Cells 1
  host : Cells 8
  under : Cells 64
  deriving DecidableEq, Repr

/-- Memory as it stood when a submission began, which `.cn` reads (R184) and which a fetch of changed code may still see
(R48), with the key generations of that moment and the argument of its open values. -/
structure Snap where
  mem : Mem
  keyGen : Cells 32
  fresh : Nat
  deriving DecidableEq, Repr

/-- What a suspended `waitp` waits for (R209, R210): the object address as an operand value, the phase, the scope, and
whether the wait is step 2 of `role` with its role index (R269), the length of the instruction, the tick at which
the path suspended, and whether the phase was external then (R213, R344). -/
structure Wait where
  obj : Nat
  phase : Nat
  scope : Scope
  role : Option Nat
  len : Nat
  since : Nat
  ext : Bool
  deriving DecidableEq, Repr

/-- The other path of a divergence entry (R18, R21). -/
inductive Other where
  /-- not started: pending PC and mask -/
  | fresh (pc : VA) (em : Mask)
  /-- suspended by `yield`: resume PC and mask -/
  | yielded (pc : VA) (em : Mask)
  /-- suspended in `waitp`: PC of the `waitp`, mask and wait -/
  | waiting (pc : VA) (em : Mask) (w : Wait)
  /-- complete -/
  | done
  deriving DecidableEq, Repr

/-- An entry of the divergence stack (R18): join, merge mask, the two path masks, which path is current. -/
structure DivEntry where
  join : VA
  merge : Mask
  taken : Mask
  fall : Mask
  onTaken : Bool
  other : Other
  deriving DecidableEq, Repr

/-- The registers a context names: vector and uniform registers with their poison marks (R189), p0–p6, divergence
stack. Vector register r of lane l is key 64 r + l. -/
structure Bank where
  v : Cells 32
  vm : Cells 1
  g : Cells 32
  gm : Cells 1
  p : Cells 64
  stk : List DivEntry
  deriving DecidableEq, Repr

/-- Which handler a shadow context runs (R36, R40). -/
inductive Handler where
  | trap | pcMatch
  deriving DecidableEq, Repr

/-- A shadow context (R36–R41). -/
structure Shadow where
  kind : Handler
  bank : Bank
  deriving DecidableEq, Repr

/-- Why a group does or does not issue (R285). -/
inductive GStat where
  /-- may issue -/
  | running
  /-- suspended in `waitp` on every path it could run (R21, R209) -/
  | waiting (w : Wait)
  /-- held at a rendezvous (R234) -/
  | held
  /-- parked on PAGE_FAULT (R302) -/
  | parked
  /-- waiting for the answer of a port or station (R188, R267) -/
  | port
  /-- parked at a barrier stop point, the `arv` at an address (R339) -/
  | barrier (arv : VA)
  /-- stopped on the error path (R36, R38) -/
  | stopped
  /-- no lane is live (R23) -/
  | ended
  deriving DecidableEq, Repr

/-- A pending result of the scoreboard (R155, R190): the registers a later instruction is held on. -/
structure Pend where
  sfu : Bool
  regs : List Nat
  deriving DecidableEq, Repr

/-- A gang register (R232). -/
structure GangReg where
  valid : Bool
  val : Word
  deriving DecidableEq, Repr

/-- Progress of the latest `zld` or `zdrn` of a group on a tile (R258). -/
structure ZProg where
  tile : Word
  op : Nat
  state : Nat
  cause : Nat
  rows : Nat
  deriving DecidableEq, Repr

/-- What a held `mma` supplies at its rendezvous (R234, R235, R248): the start of its run, its
position there and its address, where a fault lands (R33), and its operands. -/
structure MmaArrive where
  run : VA
  pos : Nat
  at_ : VA
  gang : Word
  tile : Word
  ls : Bool
  fbase : Nat
  blk : Nat
  er : DWord
  ec : DWord
  kc : Nat
  fbpd : Bool
  deriving DecidableEq, Repr

/-- Asynchronous stops (R32): a halt that has reached the core, a stop-the-cluster on its way to it (R418, R432), a
step command before and after its run has begun, and the same for a group that waited when it came (R421). -/
inductive StopKind where
  | preempt | halt | cluster | external | watchdog | step | stepped | stepWait | steppedWait
  deriving DecidableEq, Repr

/-- One group (R8–R41). -/
structure Group where
  uid : Nat
  team : Nat
  slot : Nat
  inst : Nat
  gidx : Nat
  gw : Nat
  start : Nat
  stat : GStat
  halted : Bool
  yielded : Bool
  pc : VA
  em : Mask
  live : Mask
  regs : Bank
  o : Cells 32
  om : Cells 1
  e : Cells 64
  k : List GangReg
  sh : Option Shadow
  role : Nat
  runPos : Nat
  runStart : VA
  runReads : List Nat
  lat : Cells 32
  latm : Cells 1
  fmode : BitVec 2
  fflags : BitVec 6
  batch : BitVec 16
  closed : Nat
  tcause : Word
  tinfo : Word
  tpc : VA
  tem : Mask
  pend : List Pend
  unack : Nat
  sig : BitVec 1024
  lockRes : Bool
  /-- the reservation that a save released and resumption is to take again (R210) -/
  lockLost : Bool
  zprog : List ZProg
  arrive : Option MmaArrive
  stop : Option StopKind
  hits : List (Nat × Nat)
  skid : Nat
  noMatch : Bool
  faultVa : VA
  parkInfo : Word
  again : Option VA
  deriving DecidableEq, Repr

/-- A role entry: window in registers, 0 when absent, and entry address (R288). -/
structure RoleEntry where
  win : Nat
  entry : VA
  deriving DecidableEq, Repr

/-- A launch descriptor (R287). -/
structure Desc where
  handler : VA
  gw : Nat
  ngrp : Nat
  coop : Bool
  ofile : Bool
  fz : BitVec 2
  barriers : Nat
  pad : Nat
  ztiles : Nat
  pdstk : Nat
  gstksz : Nat
  gstack : Nat
  roles : List RoleEntry
  livemap : VA
  deriving DecidableEq, Repr

/-- An accumulator tile held by a team on one core (R242, R244): 64 × 64 elements at key 64 m + n, with marks. -/
structure Tile where
  core : Nat
  name : Nat
  z : Cells 32
  zm : Cells 1
  deriving DecidableEq, Repr

/-- A rendezvous latch in use (R234): the gang value and who has arrived, by index in the team. -/
structure Latch where
  gang : Word
  arrived : List Nat
  deriving DecidableEq, Repr

/-- Residency of a team (R329–R341). -/
inductive Resid where
  /-- resident on its core -/
  | resident
  /-- stopped, waiting for its save to finish (R336, R338) -/
  | saving
  /-- saved in the loft by fine pre-emption -/
  | saved
  /-- saved at a barrier stop point (R296, R339) -/
  | savedBarrier
  /-- every group has ended, operations in flight (R132) -/
  | ending
  /-- ended, tiles not yet returned (R244) -/
  | drained
  /-- gone -/
  | gone
  deriving DecidableEq, Repr

/-- What started a team (R287, R345). -/
inductive Origin where
  | launch
  /-- a task: slot address, argument value and pool -/
  | task (slot : Nat) (arg : DWord) (pool : Nat)
  /-- a closed batch of a node: member slots, in order, and pool -/
  | batch (slots : List Nat) (arg : DWord) (pool : Nat)
  deriving DecidableEq, Repr

/-- One team (R327–R341); `sliceEnd` is the tick at which a forced shrink began to stop it (R334). -/
structure Team where
  uid : Nat
  sub : Nat
  idx : Nat
  tag : Nat
  slice : Nat
  core : Nat
  pair : Bool
  seat : Nat
  desc : Desc
  deadline : DWord
  cls : Nat
  argp : DWord
  origin : Origin
  resid : Resid
  /-- does the team hold its loft image: from its placement or its save to its resumption or end (R332)? -/
  image : Bool
  pad : Cells 8
  padm : Cells 1
  carr : List (Nat × BitVec 1024)
  tiles : List Tile
  latches : List Latch
  placedAt : Nat
  sliceEnd : Option Nat
  cn : Snap
  deriving DecidableEq, Repr

/-- A byte range of one location space: global (virtual, of a tag) or a scratchpad of a team, source or destination of
an operation (R188). -/
structure Rng where
  dst : Bool
  glob : Bool
  team : Nat
  lo : Nat
  hi : Nat
  deriving DecidableEq, Repr

/-- The matrix operation an engine has accepted: geometry, format block and operands (R235, R249). -/
structure MmaOp where
  tileTeam : Nat
  tileCore : Nat
  tileName : Nat
  lease : Nat
  m : Nat
  n : Nat
  kc : Nat
  afmt : Nat
  bfmt : Nat
  glen : Nat
  er : DWord
  ec : DWord
  a : Cells 8
  b : Cells 8
  asc : Cells 32
  bsc : Cells 32
  /-- the model's own: tells the sums of one operation from those of another (R119) -/
  salt : Nat
  deriving DecidableEq, Repr

/-- What an engine operation does (R217, R218, R249, R253, R255, R273). -/
inductive OpKind where
  | acp (out : Bool) (pd glob len rows : Nat) (gs : Int) (ps : Nat)
  | amc (pd len : Nat) (targets : List (Nat × Nat × Nat))
  | mma (x : MmaOp)
  | zld (tile : Word) (pd : Nat)
  | zdrn (tile : Word) (acc : Bool) (cv : DrnCv) (pd : Bool) (base : Nat) (row0 rows col0 cols shift stride : Nat)
      (scale : Word) (snap : Cells 32) (snapm : Cells 1)
  | covr (node : Nat) (tx0 ty0 tx1 ty1 : Nat) (pseq : Nat) (setup vpw vph batch count : Nat)
  deriving DecidableEq, Repr

/-- An engine operation in flight (R304, R315). -/
structure EngOp where
  uid : Nat
  grp : Nat
  team : Nat
  tag : Nat
  core : Nat
  gid : Word
  kind : OpKind
  batches : List (Nat × Nat)
  bar : Option Nat
  crec : Option Nat
  lock : List Rng
  landed : Nat
  progress : Nat
  dropped : Nat
  cause : Nat
  faultVa : Nat
  sig : BitVec 1024
  deriving DecidableEq, Repr

/-- A credit on its way to a scratchpad whose port holds it (R337, R338): owner tag, team, object, bytes, and what a report
of its loss names. -/
structure HeldCredit where
  tag : Nat
  team : Nat
  obj : Nat
  bytes : Nat
  gid : Word
  slice : Nat
  sig : BitVec 1024
  deriving DecidableEq, Repr

/-- A monitor (R212, R263): on a global line, or on a pool for space. -/
structure Mon where
  core : Nat
  team : Nat
  obj : Nat
  watch : Option Nat
  pool : Option Nat
  deriving DecidableEq, Repr

end Sys2Proof.Machine
end

