-- ==== Sys2Proof/Machine/TaskState.lean ====
section
/-!
DEFINITION. The state of tasks, work graphs and beam queries (spec/13 R345–R368, spec/14 R369–R387, spec/09 R274–R277).
-/
namespace Sys2Proof.Machine

/-- The state of a pool slot (R350); a slot that a pool does not list is free. -/
inductive SlotSt where
  | held (team : Nat)
  | parked
  | submitted
  | owned (team : Nat)
  deriving DecidableEq, Repr

/-- The kind of a pool (R350, R445): of queues, or of one node. -/
inductive PoolKind where
  | queue
  | node (n : Nat)
  deriving DecidableEq, Repr

/-- A comb pool (R350): base address, slots, kind, and the slots that are not free by number. -/
structure Pool where
  base : Nat
  slots : Nat
  kind : PoolKind
  used : List (Nat × SlotSt)
  deriving DecidableEq, Repr

/-- A task queue of a context (R348, R360, R445). -/
structure TQueue where
  ldesc : Nat
  pool : Nat
  contOk : Bool
  deriving DecidableEq, Repr

/-- The instance a record is bound to (R352): a scope around a core of a slice. -/
structure Bind where
  pair : Bool
  level : Scope
  slice : Nat
  core : Nat
  deriving DecidableEq, Repr

/-- Where a spawned task's end credit goes (R268, R383): the team and object that issued the query, and the bytes. -/
structure SpawnRef where
  team : Nat
  obj : Option Nat
  bytes : Nat
  deriving DecidableEq, Repr

/-- A submitted task record (R345–R348, R357): its slot, the snapshot of its 64 bytes, its queue or node, binding,
entry tick, deadline, class, the submissions it descends from (R362), carried signature and spawn route. -/
structure TaskRec where
  slot : Nat
  tag : Nat
  node : Bool
  idx : Nat
  bytes : List Byte
  bind : Bind
  entry : Nat
  deadline : DWord
  cls : Nat
  subs : List Nat
  sig : BitVec 1024
  spawn : Option SpawnRef
  deriving DecidableEq, Repr

/-- A node of a context (R356, R357, R445) with its gathering batch, oldest record first. -/
structure TNode where
  entry : Nat
  ldesc : Nat
  batch : Nat
  timeout : Nat
  pool : Nat
  gather : List TaskRec
  deriving DecidableEq, Repr

/-- Work of the ready set that is not a submission (R325): a task of a queue, or a closed batch of a node. -/
structure Work where
  uid : Nat
  tag : Nat
  node : Bool
  idx : Nat
  recs : List TaskRec
  deadline : DWord
  cls : Nat
  entry : Nat
  deriving DecidableEq, Repr

/-- A running task or batch (R348, R349, R368). -/
structure TaskRun where
  team : Nat
  work : Work
  deriving DecidableEq, Repr

/-- A station launch entry (R359, R361). -/
structure LaunchEnt where
  station : Nat
  tag : Nat
  recd : TaskRec
  deriving DecidableEq, Repr

/-- A beam (R377–R379): its rectangle in grid cells, its depth, whether it continues per ray, for a cone its axis and
tangent, and the spawn that is still to be made for it (R379, R382): reason, node or leaf, triangle. -/
structure Beam where
  id : Nat
  col0 : Nat
  row0 : Nat
  lw : Nat
  lh : Nat
  depth : Nat
  perRay : Bool
  axis : List Word
  tan : Word
  spawn : Option (Nat × Nat × Nat)
  deriving DecidableEq, Repr

/-- A query in one of the 64 slots of a core (R275–R277, R369, R379). -/
structure Query where
  uid : Nat
  core : Nat
  slot : Nat
  seq : BitVec 16
  grp : Nat
  team : Nat
  gid : Word
  gen : Word
  obj : Option Nat
  node : Nat
  brec : List Byte
  root : Nat
  live : Bool
  st : Nat
  cause : Nat
  spawns : Nat
  held : Bool
  beams : List Beam
  owed : Nat
  unresolved : Bool
  batches : List (Nat × Nat)
  /-- the blocks of the hierarchy that the engine has read, each once (R315): address, whether as a leaf, bytes -/
  seen : List (Nat × Bool × List Byte)
  /-- the signature that its issue and its writes hand on (R320) -/
  sig : BitVec 1024
  deriving DecidableEq, Repr

end Sys2Proof.Machine
end

