-- ==== Sys2Proof/Machine/DevState.lean ====
section
/-!
DEFINITION. The state of the device around the cores: contexts and their registers (spec/19 R445–R453, spec/20 R469,
spec/21 R486–R493), slices (spec/19 R437–R444), leases, elastic clusters and claims, shed rings and encoder lanes,
resets and the dump (spec/20 R473–R478), links, firmware and ownership (spec/21), telemetry and life counters (spec/23).
-/
namespace Sys2Proof.Machine

/-- A cached translation (R301, R446): the unit that holds it (a core's TLB by the core's number, a cluster's at 192 + the
cluster's, what the engine operations and shed engines hold at 240), owner tag, first virtual address and size of the page,
the entry. -/
structure TlbEnt where
  unit : Nat
  tag : Nat
  va : Nat
  size : Nat
  pte : DWord
  deriving DecidableEq, Repr

/-- A line that the L1 of a core holds (R318): line index PA[51:7], key ID, and its 128 bytes. -/
structure L1Line where
  core : Nat
  line : Nat
  kid : Nat
  data : List Byte
  deriving DecidableEq, Repr

/-- A line that the L2 holds: line index, key ID, which is part of the tag (R303), and the tenant in whose ways it lies
(R324, R457). -/
structure L2Line where
  line : Nat
  kid : Nat
  ways : Nat
  deriving DecidableEq, Repr

/-- The error ring of a context (R467). -/
structure ErrRing where
  base : Nat
  logn : Nat
  prod : Nat
  cons : Nat
  deriving DecidableEq, Repr

/-- A command entry a shed engine has read (R452): its index, its 32 bytes, source bytes done in order; for a collective
the rank map as read with it (R453); and the status it is to end with when another agent has ended it (R475), else 0. -/
structure ShedEntry where
  seq : Nat
  bytes : List Byte
  progress : Nat
  ranks : List Byte
  verdict : Nat
  deriving DecidableEq, Repr

/-- A shed ring of a loaded context (R451) with the index of the entry it stands at, the records it has written, the seat
generation of a scratchpad ring, the entry in progress, and the tick at which the engine bound to it was bound (R452). -/
structure ShedRing where
  cmdBase : Nat
  cplBase : Nat
  notify : Nat
  consume : Nat
  lease : Nat
  logn : Nat
  space : Nat
  rankmap : Nat
  cls : Nat
  head : Nat
  recs : Nat
  seatGen : Option Word
  cur : Option ShedEntry
  bound : Option Nat
  deriving DecidableEq, Repr

/-- A frame ring of a loaded context (R462) with its frame number and byte count. -/
structure FrameRing where
  cmdBase : Nat
  notify : Nat
  done : Nat
  bsBase : Nat
  bsProd : Nat
  bsCons : Nat
  logn : Nat
  logb : Nat
  n : Nat
  prod : Nat
  deriving DecidableEq, Repr

/-- A loaded context descriptor (R445). -/
structure Ctx where
  ptroot : Nat
  fallback : Bool
  extOn : Bool
  wdint : Nat
  extint : Nat
  err : ErrRing
  pools : List Pool
  queues : List TQueue
  nodes : List TNode
  rings : List ShedRing
  frames : List FrameRing
  deriving DecidableEq, Repr

/-- Registers of one submission queue (R488). -/
structure SubQ where
  base : DWord
  en : Bool
  vec : Nat
  logn : Nat
  tail : Word
  head : Word
  done : Word
  deriving DecidableEq, Repr

/-- The error registers of a function (R469) with its error ring position and lost count (R468). -/
structure ErrRegs where
  ust : BitVec 9
  umsk : BitVec 9
  usev : BitVec 9
  cst : BitVec 5
  cmsk : BitVec 5
  autoreset : Bool
  hlog : BitVec 128
  seq : Nat
  lost : Nat
  deriving DecidableEq, Repr

/-- A tenant's tokens (R449, R450). -/
structure Tokens where
  bal : Nat
  debt : Nat
  refill : Nat
  cap : Nat
  borrowMax : Nat
  floor : Nat
  starving : Bool
  starvedAll : Bool
  deriving DecidableEq, Repr

/-- LIMITS of a tag (R445): comb slots, launch entries per station, force fall-back. -/
structure Limits where
  slots : Nat
  launch : Nat
  fallback : Bool
  deriving DecidableEq, Repr

/-- What one function (tag) owns: context, translation invalidation, aperture, errors, queues, windows, tokens, limits,
lease table, half-word latch, signalled vectors, and the slices on which a severity action stops placement (R470). -/
structure Fn where
  cxDesc : DWord
  cxErr : Nat
  ctx : Option Ctx
  tiVa : DWord
  tiRun : Option (Nat × Nat)
  tiDone : Nat
  apBase : DWord
  apErr : Word
  er : ErrRegs
  sqs : List SubQ
  vecs : BitVec 64
  wins : List (Nat × Nat)
  tok : Tokens
  lim : Limits
  leaseTab : List (Bool × Nat)
  latch : Option (Nat × Word)
  passed : Bool
  notBehind : Nat
  noPlace : BitVec 16
  spdm : List Byte
  deriving DecidableEq, Repr

/-- One slice (R437, R439): state, owner, partition, whether it is up, the sharing tags and time slice of a shared
slice, the resident tag, the tick its time slice ends and the one since which it winds down, the remap entries (teams), the tag
that was resident before, and the state to which a reset returns it (R474). -/
structure Slice where
  st : Nat
  owner : Nat
  part : Nat
  up : Bool
  sharers : BitVec 16
  span : Nat
  resident : Nat
  ends : Option Nat
  ending : Option Nat
  remap : List Nat
  prev : Nat
  was : Nat
  deriving DecidableEq, Repr

/-- The condition of a slice (R437): its state, or, under a reset, the one to which the reset returns it (R474). -/
def Slice.cond (x : Slice) : Nat := if x.st = 4 then x.was else x.st

/-- A submission entry that holds a queue slot (R489, R490): a launch of `teams` teams, of which `next` is the next to
place and `live` have not ended; `slotVa` is where its entry lies; `desc` is there once the launch has started, with the
memory that `.cn` reads. -/
structure Sub where
  uid : Nat
  tag : Nat
  q : Nat
  n : Nat
  op : Nat
  flags : Nat
  teams : Nat
  deadline : DWord
  addr : Nat
  value : DWord
  start : Nat
  started : Bool
  status : Nat
  info : Nat
  finished : Bool
  desc : Option Desc
  slotVa : Nat
  next : Nat
  live : Nat
  cn : Snap
  lastRead : Option DWord
  deriving DecidableEq, Repr

/-- A matrix-engine lease (R454–R456, R505): handle, lender core, borrower, tiles with contents, the tick it ends, the
engine clocks charged so far. -/
structure Lease where
  handle : Nat
  core : Nat
  borrower : Nat
  count : Nat
  tiles : List Tile
  ends : Nat
  clocks : Nat
  deriving DecidableEq, Repr

/-- An elastic registration (R447, R448). -/
structure Elastic where
  cluster : Nat
  lender : Nat
  borrower : Nat
  lent : Bool
  passing : Bool
  release : Bool
  since : Nat
  deriving DecidableEq, Repr

/-- What a claim names: a counter bank or a trace unit of a slice (R463). -/
inductive ClaimOf where
  | bank (b : Nat)
  | trace (c : Nat)
  deriving DecidableEq, Repr

/-- A claim (R428, R429): the tick it began and the guest writes that wait for its release, oldest first. -/
structure Claim where
  slice : Nat
  what : ClaimOf
  since : Nat
  held : List (Nat × Nat × DWord)
  deriving DecidableEq, Repr

/-- The encoder lane of a slice (R461, R462): the ring it serves or served last; while `busy`, the command it has read,
its rows in all and done, the highest PROGRESS read, and, once `ready`, the packet's status and bytes. -/
structure Lane where
  fn : Nat
  ring : Nat
  busy : Bool
  cmd : List Byte
  rows : Nat
  done : Nat
  seen : Nat
  ready : Bool
  status : Nat
  bytes : Nat
  deriving DecidableEq, Repr

/-- A watchpoint hit that a port has not reported yet (R415, R416): the watching context, core and watchpoint, the kind
code, the accessing group (0 for an engine), its SR_GID, PC, lanes and run position, the tick of the access, and the groups of the
cluster that have begun a run since, once for each run (R420). -/
structure WpHit where
  tag : Nat
  core : Nat
  wp : Nat
  kind : Nat
  grp : Nat
  gid : Word
  pc : VA
  lanes : Mask
  pos : Nat
  at_ : Nat
  runs : List Nat
  deriving DecidableEq, Repr

/-- The partition manager (R439, R440): PM_CADDR, BUSY, LAST; of the running command its block, where it was read and when,
its progress and the tick of its TIMEOUT. -/
structure Pm where
  caddr : DWord
  addr : Nat
  busy : Bool
  last : Nat
  block : List Byte
  at_ : Nat
  phase : Nat
  deadline : Option Nat
  deriving DecidableEq, Repr

/-- A reset request (R473). -/
inductive RstReq where
  | slices (mask : BitVec 16)
  | vf (tag : Nat)
  deriving DecidableEq, Repr

/-- A reset that runs (R474): since when, the slices whose SL_STATE is 4, the tags whose context is reset as a whole, and the
slices that are reset on their own. -/
structure RstRun where
  since : Nat
  slices : List Nat
  tags : List Nat
  own : List Nat
  deriving DecidableEq, Repr

/-- The reset unit (R473, R474): the requests in order, the first of them the one that runs, if one does; LAST. -/
structure Rst where
  queue : List RstReq
  last : Nat
  run : Option RstRun
  deriving DecidableEq, Repr

/-- A transaction on a link (R480): its virtual channel, the owner tag of its requester, its data slots. -/
structure Xact where
  vc : Nat
  tag : Nat
  slots : Nat
  deriving DecidableEq, Repr

/-- A link port (R480, R482): 0, 1 AHL, 2–13 fabric. The header and data credits left of VC0 to VC3, and the transactions
that wait for credits, oldest first. Up, retraining and since which tick, the last sequence number received in
order and whether there is one, the last one of its own that was acknowledged, whether it owes a NAK, and the replays of
one flit without progress. -/
structure Port where
  up : Bool
  retraining : Bool
  since : Nat
  rx : BitVec 10
  rxAny : Bool
  acked : BitVec 10
  nak : Bool
  replays : Nat
  credits : List (Nat × Nat)
  held : List Xact
  deriving DecidableEq, Repr

/-- A firmware slot (R496, R497): its image, none while it still holds what the part was made with (log 30). -/
structure FwSlot where
  image : Option (Cells 8)
  verified : Bool
  deriving DecidableEq, Repr

/-- Firmware (R497): the two slots, which one runs and which is next, the page register, the staged page, the result,
the running image's VERSION and SVN, the fused minimum. -/
structure Firmware where
  slotA : FwSlot
  slotB : FwSlot
  runB : Bool
  nextB : Bool
  page : Word
  staged : Cells 8
  result : Nat
  version : Word
  svn : Word
  svnMin : Word
  deriving DecidableEq, Repr

/-- BOOT_STAT (R494), and whether S0 has ended (R495). -/
structure Boot where
  stage : Nat
  ready : Bool
  slotB : Bool
  trip : Bool
  stkFail : BitVec 8
  deriving DecidableEq, Repr

/-- Ownership (R499, R500): the owner, pending claims (port, priority), the tick an election closes, the lease register,
the tick the lease ends, and NumVFs at the owner's adapter. -/
structure Own where
  owner : Option Nat
  claims : List (Nat × Nat)
  election : Option Nat
  lease : Nat
  ends : Nat
  numVfs : Nat
  deriving DecidableEq, Repr

/-- Telemetry (R511, R512): the last sample and its tick, power cap, level, sticky causes, the tick of the last active cause and the
tick since which a trip condition has held (R514). -/
structure Tel where
  sample : Sensors
  last : Nat
  level : Nat
  active : BitVec 4
  sticky : BitVec 4
  cap : Nat
  lastActive : Nat
  tripSince : Option Nat
  deriving DecidableEq, Repr

/-- Life counters (R515–R517): live fields by image offset, the flash copy, the read image and its page register. -/
structure Life where
  live : Cells 64
  flash : Cells 64
  image : Cells 8
  valid : Bool
  size : Nat
  page : Word
  deriving DecidableEq, Repr

/-- The fatal dump (R476–R478): the cause when the device is fatal, the bytes, their number, the page register; events
charged to tag 0; the last 64 event records of every slice; the dump moved to flash. -/
structure Dump where
  fatal : Option Nat
  image : Cells 8
  size : Nat
  page : Word
  tag0 : List (List Byte)
  recent : List (Nat × List Byte)
  lastImage : Cells 8
  lastSize : Nat
  lastTick : Nat
  deriving DecidableEq, Repr

end Sys2Proof.Machine
end

