-- ==== Sys2Proof/Machine/State.lean ====
section
/-!
DEFINITION. The state of the device, its value at reset, and the reasons a step can stop.
-/
namespace Sys2Proof.Machine

/-- One move of the agenda (log 1): a group issues, a device event of the opcode table comes about, time passes. -/
inductive Move where
  | issue (uid : Nat)
  | event (i : Instr)
  | elapse (n : Nat)
  deriving DecidableEq, Repr

/-- The state. `g` and `t` are the group in focus and its team, `gs` and `ts` the others; `agenda`, `fresh` and
`nextUid` are the model's own (logs 1 to 3); every other field is named by the spec (INVENTORY.md, State). Cores are
numbered 12 × slice + core, clusters 3 × slice + cluster; keys of the sparse maps are said beside them. -/
structure State where
  agenda : List Move
  fresh : Nat
  nextUid : Nat
  /-- SR_TICK (R142) -/
  tick : Nat
  g : Group
  gs : List Group
  t : Team
  ts : List Team
  mem : Mem
  tlb : List TlbEnt
  l1 : List L1Line
  l2 : List L2Line
  ops : List EngOp
  mons : List Mon
  /-- credits that a port holds back (R337, R338), oldest first -/
  heldCr : List HeldCredit
  /-- scratchpad generations (R322): 64 core + seat -/
  gens : Cells 32
  /-- INST counts (R145): 64 core + slot -/
  inst : Cells 18
  queries : List Query
  /-- query sequence numbers (R275): 64 core + slot -/
  qseq : Cells 16
  subs : List Sub
  ready : List Work
  runs : List TaskRun
  launches : List LaunchEnt
  /-- way masks set by WAYS (R457): station, tag, mask -/
  ways : List (Nat × Nat × BitVec 16)
  /-- signature caches of the stations (R320): line, signature -/
  lineSig : List (Nat × BitVec 1024)
  fns : List Fn
  /-- core event counters (R424): 2^16 tag + 16 core + n -/
  evc : Cells 64
  /-- observation blocks (R405): 2^24 tag + 2^16 slice + offset -/
  obs : Cells 64
  /-- eligible histograms (R423): 2^16 tag + 32 scheduler + bin, scheduler = 4 core + slot / 16 -/
  elig : Cells 64
  /-- stall counters (R423): 2^16 tag + 16 scheduler + n -/
  stall : Cells 64
  /-- watchdogs by tag: the tick at which the interval counter restarted (R343); the tick at which a wait that was not
  external last ended, all ones from the advisory until a group issues again (R344) -/
  wdog : Cells 64
  wext : Cells 64
  /-- trace records dropped since the last 0x0F record (R407, R409): 64 tag + cluster -/
  trLost : Cells 64
  /-- watchpoint hits not yet reported (R415) -/
  wpq : List WpHit
  slices : List Slice
  /-- key table (R459): owner tag, share mask and generation by key ID -/
  keyOwner : Cells 8
  keyShare : Cells 16
  keyGen : Cells 32
  pm : Pm
  rst : Rst
  /-- the token pool and period in ticks, and the tick of the next boundary (R449) -/
  pool : Nat
  period : Nat
  boundary : Nat
  leases : List Lease
  elastics : List Elastic
  claims : List Claim
  lanes : List (Nat × Lane)
  /-- the tenant that an engine of each shed class was bound to last (R452) -/
  shedLast : List Nat
  boot : Boot
  fw : Firmware
  own : Own
  ports : List Port
  /-- FAB_ID (R501) and FAB_PEER (R502) -/
  fabId : BitVec 6
  fabPeer : Cells 32
  tel : Tel
  life : Life
  dump : Dump
  deriving DecidableEq, Repr

/-- Reasons the model itself stops. No instruction and no event of the table raises one. -/
inductive Fault where
  /-- raised by `step` when the agenda names a group that does not exist, or an instruction of the Walard set as a
  device event: the agenda is the model's own, so this says nothing about the device. Safe. -/
  | badAgenda
  deriving DecidableEq, Repr

/-- Refusals. -/
inductive Refusal where
  /-- raised by `exec` for an instruction that has no meaning yet. Safe. -/
  | notModelled (mnemonic : String)
  deriving DecidableEq, Repr

/-- Registers of a context at its start (R15). -/
def Bank.empty : Bank := { v := [], vm := [], g := [], gm := [], p := [], stk := [] }

/-- No group: the value of an empty slot. -/
def Group.blank : Group :=
  { uid := 0, team := 0, slot := 0, inst := 0, gidx := 0, gw := 32, start := 0, stat := .ended, halted := false,
    yielded := false, pc := 0, em := 0, live := 0, regs := Bank.empty, o := [], om := [], e := [],
    k := List.replicate 4 ⟨false, 0⟩, sh := .none, role := 0, runPos := 0, runStart := 0, runReads := [],
    lat := [], latm := [], fmode := 0, fflags := 0, batch := 0, closed := 0, tcause := 0, tinfo := 0, tpc := 0, tem := 0,
    pend := [], unack := 0, sig := 0, lockRes := false, lockLost := false, zprog := [], arrive := .none, stop := .none, hits := [],
    skid := 0, noMatch := false, faultVa := 0, parkInfo := 0, again := .none }

/-- An empty launch descriptor. -/
def Desc.blank : Desc :=
  { handler := 0, gw := 32, ngrp := 0, coop := false, ofile := false, fz := 0, barriers := 0, pad := 0, ztiles := 0,
    pdstk := 0, gstksz := 0, gstack := 0, roles := List.replicate 8 ⟨0, 0⟩, livemap := 0 }

/-- A snapshot of empty memory. -/
def Snap.blank : Snap := ⟨⟨[], [], [], [], []⟩, [], 0⟩

/-- No team. -/
def Team.blank : Team :=
  { uid := 0, sub := 0, idx := 0, tag := 0, slice := 0, core := 0, pair := false, seat := 0, desc := Desc.blank,
    deadline := 0, cls := 0, argp := 0, origin := .launch, resid := .gone, image := false, pad := [], padm := [], carr := [],
    tiles := [], latches := [], placedAt := 0, sliceEnd := .none, cn := Snap.blank }

/-- A queue at reset (R488). -/
def SubQ.init : SubQ := { base := 0, en := false, vec := 0, logn := 4, tail := 0, head := 0, done := 0 }

/-- The error registers at reset (R469). -/
def ErrRegs.init : ErrRegs :=
  { ust := 0, umsk := 0, usev := 0x082, cst := 0, cmsk := 0, autoreset := true, hlog := 0, seq := 0, lost := 0 }

/-- A function at reset. -/
def Fn.init : Fn :=
  { cxDesc := 0, cxErr := 0, ctx := .none, tiVa := 0, tiRun := .none, tiDone := 0, apBase := 0,
    apErr := 0, er := ErrRegs.init, sqs := List.replicate 16 SubQ.init, vecs := 0, wins := List.replicate 16 (0, 0),
    tok := { bal := 0, debt := 0, refill := 0, cap := 0, borrowMax := 0, floor := 0, starving := false,
             starvedAll := false },
    lim := ⟨0, 0, false⟩, leaseTab := List.replicate 16 (false, 0), latch := .none, passed := false, notBehind := 0,
    noPlace := 0, spdm := [] }

/-- Slice s at reset: not yet up, owner 1, its own partition (R439, R495). -/
def Slice.init (s : Nat) : Slice :=
  { st := 5, owner := 1, part := s, up := false, sharers := 0, span := 0, resident := 0, ends := .none, ending := .none,
    remap := [], prev := 0, was := 0 }

/-- Header and data credits of VC0 to VC3 (R480). -/
def vcCredits : List (Nat × Nat) := [(256, 4096), (256, 64), (512, 8192), (32, 0)]

/-- A port at reset. -/
def Port.init : Port :=
  { up := true, retraining := false, since := 0, rx := 0, rxAny := false, acked := 0, nak := false, replays := 0,
    credits := vcCredits, held := [] }

/-- The machine right after reset: at power-on, before POWER_GOOD (R495). -/
def State.reset : State :=
  { agenda := [], fresh := 0, nextUid := 1, tick := 0,
    g := Group.blank, gs := [], t := Team.blank, ts := [],
    mem := ⟨[], [], [], [], []⟩, tlb := [], l1 := [], l2 := [], ops := [], mons := [], heldCr := [], gens := [], inst := [], queries := [], qseq := [],
    subs := [], ready := [], runs := [], launches := [], ways := [], lineSig := [],
    fns := List.replicate 18 Fn.init, evc := [], obs := [], elig := [], stall := [], wdog := [], wext := [], trLost := [], wpq := [],
    slices := (List.range 16).map Slice.init,
    keyOwner := [], keyShare := [], keyGen := [],
    pm := { caddr := 0, addr := 0, busy := false, last := 0, block := [], at_ := 0, phase := 0, deadline := none },
    rst := ⟨[], 0, .none⟩, pool := 0, period := 1000000, boundary := 1000000,
    leases := [], elastics := [], claims := [], lanes := [], shedLast := [0, 0, 0],
    boot := ⟨0, false, false, false, 0⟩,
    fw := { slotA := ⟨none, false⟩, slotB := ⟨none, false⟩, runB := false, nextB := false, page := 0, staged := [],
            result := 0, version := 0, svn := 0, svnMin := 0 },
    own := { owner := none, claims := [], election := none, lease := 10000, ends := 0, numVfs := 0 },
    ports := List.replicate 14 Port.init, fabId := 0, fabPeer := [],
    tel := { sample := ⟨0, 0, 0, 0, 0, false, false⟩, last := 0, level := 0, active := 0, sticky := 0, cap := 2300, lastActive := 0,
             tripSince := none },
    life := ⟨[], [], [], false, 0, 0⟩,
    dump := { fatal := none, image := [], size := 0, page := 0, tag0 := [], recent := [], lastImage := [], lastSize := 0,
              lastTick := 0 } }

end Sys2Proof.Machine
end

