-- ==== Sys2Proof/Machine/Regs.lean ====
section
/-!
DEFINITION. Groups in focus, and the registers of a group: the classes of spec/01 R11 with the shadow context of R37,
poison marks (spec/07 R189) and the latches of R26.
-/
namespace Sys2Proof.Machine

/-! ### Which group, team and function -/

/-- Every group. -/
def allGroups (s : State) : List Group := s.g :: s.gs

/-- Every team. -/
def allTeams (s : State) : List Team := s.t :: s.ts

/-- Change every group. -/
def mapGroups (f : Group → Group) (s : State) : State := { s with g := f s.g, gs := s.gs.map f }

/-- Change one group. -/
def updGroup (uid : Nat) (f : Group → Group) (s : State) : State :=
  mapGroups (fun x => if x.uid = uid then f x else x) s

/-- Change the group in focus. -/
def onG (f : Group → Group) (s : State) : State := { s with g := f s.g }

/-- Change every team. -/
def mapTeams (f : Team → Team) (s : State) : State := { s with t := f s.t, ts := s.ts.map f }

/-- Change one team. -/
def updTeam (uid : Nat) (f : Team → Team) (s : State) : State :=
  mapTeams (fun x => if x.uid = uid then f x else x) s

/-- The group with a unique number, 0 naming none. -/
def findGroup (s : State) (uid : Nat) : Option Group :=
  if uid = 0 then none else (allGroups s).find? (·.uid == uid)

/-- The team with a unique number, 0 naming none. -/
def findTeam (s : State) (uid : Nat) : Option Team :=
  if uid = 0 then none else (allTeams s).find? (·.uid == uid)

/-- The groups of a team. -/
def groupsOf (s : State) (team : Nat) : List Group := (allGroups s).filter (fun x => x.team == team && x.uid != 0)

/-- Bring a team into focus. -/
def focusTeam (uid : Nat) (s : State) : State :=
  if s.t.uid = uid then s
  else match s.ts.find? (·.uid == uid) with
    | none => s
    | some t => { s with t := t, ts := (if s.t.uid = 0 then [] else [s.t]) ++ s.ts.filter (·.uid != uid) }

/-- Bring a group, with its team, into focus. -/
def focus (uid : Nat) (s : State) : State :=
  if s.g.uid = uid then focusTeam s.g.team s
  else match s.gs.find? (·.uid == uid) with
    | none => s
    | some x => focusTeam x.team
        { s with g := x, gs := (if s.g.uid = 0 then [] else [s.g]) ++ s.gs.filter (·.uid != uid) }

/-- The registers of a function; tags above 17 name none (R464). -/
def getFn (s : State) (tag : Nat) : Fn := s.fns.getD tag Fn.init

/-- Change a function. -/
def updFn (tag : Nat) (f : Fn → Fn) (s : State) : State := { s with fns := modAt s.fns tag f }

/-- Change the loaded context of a function. -/
def updCtx (tag : Nat) (f : Ctx → Ctx) (s : State) : State :=
  updFn tag (fun x => { x with ctx := x.ctx.map f }) s

/-- A slice. -/
def getSlice (s : State) (n : Nat) : Slice := s.slices.getD n (Slice.init n)

/-- Change a slice. -/
def updSlice (n : Nat) (f : Slice → Slice) (s : State) : State := { s with slices := modAt s.slices n f }

/-- SR_GID (R145) of a group on a core. -/
def gidOf (core slot inst : Nat) : Word :=
  BitVec.ofNat 32 (core / 12 * 2 ^ 28 + core % 12 * 2 ^ 24 + slot % 64 * 2 ^ 18 + inst % 2 ^ 18)

/-- SR_GID of a group of the state. -/
def Group.gidIn (s : State) (x : Group) : Word :=
  match findTeam s x.team with
  | some t => gidOf (t.core + (if t.pair then x.slot / 64 else 0)) x.slot x.inst
  | none => 0

/-- The core a group issues on: the team's, or the second of its pair for slots 64 to 127 (R328). -/
def coreOf (t : Team) (x : Group) : Nat := t.core + (if t.pair then x.slot / 64 else 0)

/-- SR_GID of the group in focus. -/
def myGid (s : State) : Word := gidOf (coreOf s.t s.g) s.g.slot s.g.inst

/-- The group an SR_GID names, among those of a tag. -/
def byGid (s : State) (tag : Nat) (gid : Word) : Option Group :=
  (allGroups s).find? fun x =>
    x.uid != 0 && x.stat != .ended && Group.gidIn s x == gid &&
      (match findTeam s x.team with | some t => t.tag == tag | none => false)

/-- A fresh argument for an open value (log 2). -/
def bump (s : State) : State := { s with fresh := s.fresh + 1 }

/-! ### Lanes and masks -/

/-- The lanes of the group. -/
def Group.all (x : Group) : Mask := laneMask x.gw

/-- The bank that specifiers name (R37). -/
def Group.bank (x : Group) : Bank :=
  match x.sh with
  | some h => h.bank
  | none => x.regs

/-- Change the bank that specifiers name. -/
def Group.onBank (f : Bank → Bank) (x : Group) : Group :=
  match x.sh with
  | some h => { x with sh := some { h with bank := f h.bank } }
  | none => { x with regs := f x.regs }

/-- Is the group inside a shadow context? -/
def Group.shadowed (x : Group) : Bool := x.sh.isSome

/-- The bank vector register r lies in (R37). -/
def Group.vBank (x : Group) (r : Nat) : Bank := if x.shadowed && 16 ≤ r then x.regs else x.bank

/-- The bank uniform register r lies in (R37). -/
def Group.gBank (x : Group) (r : Nat) : Bank := if x.shadowed && 8 ≤ r then x.regs else x.bank

/-- vN in a lane. -/
def Group.vAt (x : Group) (r l : Nat) : Word := peek (x.vBank r).v (64 * r + l)

/-- The poison mark of vN in a lane (R189). -/
def Group.vMark (x : Group) (r l : Nat) : Bool := peek (x.vBank r).vm (64 * r + l) == 1

/-- gN. -/
def Group.gAt (x : Group) (r : Nat) : Word := peek (x.gBank r).g r

/-- The poison mark of gN. -/
def Group.gMark (x : Group) (r : Nat) : Bool := peek (x.gBank r).gm r == 1

/-- oN in a lane. -/
def Group.oAt (x : Group) (r l : Nat) : Word := peek x.o (64 * r + l)

/-- The poison mark of oN in a lane. -/
def Group.oMark (x : Group) (r l : Nat) : Bool := peek x.om (64 * r + l) == 1

/-- hN in a lane (R26). -/
def Group.hAt (x : Group) (r l : Nat) : Word := peek x.lat (64 * r + l)

/-- The mark of hN in a lane. -/
def Group.hMark (x : Group) (r l : Nat) : Bool := peek x.latm (64 * r + l) == 1

/-- pN; p7 is all true (R14). -/
def Group.pAt (x : Group) (n : Nat) : Mask := if n = 7 then x.all else peek x.bank.p n

/-- A 64-bit value of a uniform pair (R13). -/
def Group.gPair (x : Group) (r : Nat) : DWord := x.gAt (r + 1) ++ x.gAt r

/-- A 64-bit value of a vector pair (R13). -/
def Group.vPair (x : Group) (r l : Nat) : DWord := x.vAt (r + 1) l ++ x.vAt r l

/-- Write vN in one lane; the mark is written too (R189). -/
def Group.setV (r l : Nat) (w : Word) (m : Bool) (x : Group) : Group :=
  x.onBank fun b => { b with v := poke b.v (64 * r + l) w, vm := poke b.vm (64 * r + l) (BitVec.ofBool m) }

/-- Write oN in one lane. -/
def Group.setO (r l : Nat) (w : Word) (m : Bool) (x : Group) : Group :=
  { x with o := poke x.o (64 * r + l) w, om := poke x.om (64 * r + l) (BitVec.ofBool m) }

/-- Write gN. -/
def Group.setG (r : Nat) (w : Word) (m : Bool) (x : Group) : Group :=
  x.onBank fun b => { b with g := poke b.g r w, gm := poke b.gm r (BitVec.ofBool m) }

/-- Write a uniform pair. -/
def Group.setGPair (r : Nat) (w : DWord) (x : Group) : Group :=
  (x.setG r (w.extractLsb' 0 32) false).setG (r + 1) (w.extractLsb' 32 32) false

/-- Write pN; a write to p7 is ignored, and lanes at and above GW stay 0 (R14). -/
def Group.setP (n : Nat) (m : Mask) (x : Group) : Group :=
  if n = 7 then x else x.onBank fun b => { b with p := poke b.p n (m &&& x.all) }

/-- Write a latch in one lane. -/
def Group.setH (r l : Nat) (w : Word) (m : Bool) (x : Group) : Group :=
  { x with lat := poke x.lat (64 * r + l) w, latm := poke x.latm (64 * r + l) (BitVec.ofBool m) }

/-- Do f for the lanes 0 … n − 1, in order. -/
def forLanes {α : Type} (f : Nat → α → α) : Nat → α → α
  | 0, x => x
  | n + 1, x => f n (forLanes f n x)

/-- The group's current vector window in registers (R12): its role's, or the shadow registers (R37). -/
def windowOf (t : Team) (x : Group) : Nat := (t.desc.roles.getD x.role ⟨0, 0⟩).win

/-- The active set (R17). -/
def Group.active (x : Group) (gd : Guard) : Mask :=
  let p := x.pAt gd.gp.toNat
  x.em &&& (if gd.gn then ~~~p &&& x.all else p)

/-! ### Counters -/

/-- Count in the banks of a tag's observation block that name a code (R425, R426); CORES limits codes below 0x20. -/
def bankCount (obs : Cells 64) (tag slice core code amt : Nat) (claimed : Nat → Bool) : Cells 64 :=
  obs.foldl (fun m c =>
    let off := c.1 % 2 ^ 16
    let b := off / 256
    let cfg := c.2.toNat
    if c.1 / 2 ^ 24 = tag ∧ c.1 / 2 ^ 16 % 256 = slice ∧ b < 4 ∧ 0x80 ≤ off % 256 ∧ off % 256 < 0xC0
        ∧ bit cfg 31 ∧ cfg % 256 = code ∧ (0x20 ≤ code ∨ bits cfg 16 12 = 0 ∨ bit cfg (16 + core))
        ∧ !claimed b ∧ !bit (peek obs (2 ^ 24 * tag + 2 ^ 16 * slice + 256 * b + 0xC4)).toNat 0 then
      let k := 2 ^ 24 * tag + 2 ^ 16 * slice + 256 * b + 2 * (off % 256 - 0x80)
      poke m k (peek m k + BitVec.ofNat 64 amt)
    else m) obs

/-- Is a bank of a slice claimed by the hypervisor (R428)? -/
def bankClaimed (s : State) (slice b : Nat) : Bool :=
  s.claims.any fun c => c.slice == slice && c.what == .bank b

/-- Is a context resident where it counts and matches (R406): on a shared slice, only in its own time slice? -/
def ctxOn (s : State) (tag slice : Nat) : Bool := (getSlice s slice).cond != 2 || (getSlice s slice).resident == tag

/-- Count an event of a code in a tenant's banks, or in the hypervisor's view of a claimed bank (R425, R428). -/
def countCode (tag core code amt : Nat) (s : State) : State :=
  let sl := core / 12
  let k := core % 12
  let obs := if ctxOn s tag sl then bankCount s.obs tag sl k code amt (fun b => bankClaimed s sl b) else s.obs
  let obs := if s.claims = [] then obs else bankCount obs 1 sl k code amt (fun b => !bankClaimed s sl b)
  { s with obs := obs }

/-- Core event n of R424. -/
def countEv (tag core n amt : Nat) (s : State) : State :=
  let k := 2 ^ 16 * tag + 16 * core + n
  countCode tag core n amt
    (if ctxOn s tag (core / 12) then { s with evc := poke s.evc k (peek s.evc k + BitVec.ofNat 64 amt) } else s)

/-- Core event n, charged to the group in focus. -/
def countMine (n amt : Nat) (s : State) : State := countEv s.t.tag (coreOf s.t s.g) n amt s

end Sys2Proof.Machine
end

