-- ==== Sys2Proof/Machine/Reads.lean ====
section
/-!
DEFINITION. What an instruction reads and writes: the fields with their operands, the values operands give (spec/02 R55),
the registers of the hazard rules (spec/01 R28, spec/06 R155, spec/07 R190), and the elements whose poison marks count
(spec/06 R154, spec/07 R189).
-/
namespace Sys2Proof.Machine

/-! ### Values -/

/-- The bits an operand gives a lane, as registers and special sources hold them; immediates and literals sign-extended
to 64 bits (R55). `wide` reads a pair. -/
def srcBits (x : Group) (wide : Bool) (o : Opnd) (l : Nat) : DWord :=
  match o with
  | .v r => if wide then x.vPair r.toNat l else (x.vAt r.toNat l).zeroExtend 64
  | .g r => if wide then x.gPair r.toNat else (x.gAt r.toNat).zeroExtend 64
  | .o r => (x.oAt r.toNat l).zeroExtend 64
  | .h k => (x.hAt k.toNat l).zeroExtend 64
  | .p n => if (x.pAt n.toNat).getLsbD l then 1 else 0
  | .zero => 0
  | .lane => BitVec.ofNat 64 l
  | .gw => BitVec.ofNat 64 x.gw
  | .lit v => v.signExtend 64
  | .imm i => i.signExtend 64

/-- A 32-bit operand of a lane. -/
def src32 (x : Group) (o : Opnd) (l : Nat) : Word := (srcBits x false o l).setWidth 32

/-- A predicate source: one bit per lane (R55). -/
def srcP (x : Group) (o : Opnd) : Mask :=
  match o with
  | .p n => x.pAt n.toNat
  | .imm i => i.signExtend 64 &&& x.all
  | .lit v => v.signExtend 64 &&& x.all
  | _ => 0

/-- Value of a uniform specifier as a number, for SR numbers. -/
def specNum (x : Group) (o : Opnd) : Nat :=
  match o with
  | .g r => (x.gAt r.toNat).toNat
  | .imm i => (i.signExtend 32).toNat
  | .lit l => l.toNat
  | _ => 0


/-- Is a source lane valid (R175)? -/
def validLane (act : Mask) (gw : Nat) (s : Int) : Bool := decide (0 ≤ s) && decide (s < gw) && act.getLsbD s.toNat

/-- The source lane of `shfl` (R176). -/
def shflFrom (mode : ShflMode) (l : Nat) (b : Word) : Int :=
  match mode with
  | .idx => b.toNat
  | .up => (l : Int) - b.toNat
  | .dn => (l : Int) + b.toNat
  | .xor => (Nat.xor l b.toNat : Nat)

/-! ### Fields -/

/-- Does the instruction keep its run going (R25)? In control transfers the bit belongs to the hint. -/
def stays (e : Enc) : Bool :=
  match rowOf e.w.opc with
  | some r => (r.low == .run || r.low == .runNoNwb) && e.w.stay == 1
  | none => false

/-- Is NWB set (R26)? In control transfers the bit belongs to the hint. -/
def nwb (e : Enc) : Bool :=
  match rowOf e.w.opc with
  | some r => (r.low == .run || r.low == .termNwb) && e.w.nwb == 1
  | none => false


/-- A specifier field: its role, specifier and OPF bit (R35). -/
structure FieldUse where
  role : Role
  spec : BitVec 10
  bit : Nat
  deriving DecidableEq, Repr

/-- The role of DST: `.cas` reads its compare value there (R198). -/
def destRole (e : Enc) (r : Row) : Role :=
  if e.w.opc = 0x80 ∧ e.w.sub = AOp.cas.code then .op Roles.accVv .w64hi .rw else r.d

/-- The four specifier fields of an instruction. -/
def fieldsOf (e : Enc) (r : Row) : List FieldUse :=
  [⟨destRole e r, e.w.d, 0⟩, ⟨r.a, e.w.a, 1⟩, ⟨r.b, e.w.b, 2⟩, ⟨r.c, e.w.c, 3⟩]

/-- The operand of a field that names one, with the number of registers and the direction. -/
def FieldUse.operand (e : Enc) (f : FieldUse) : Option (Opnd × Nat × Dir) :=
  match f.role with
  | .op _ w d => (decSpec f.spec e.f.lit).map fun o => (o, e.count w, d)
  | .scale => (decSpec f.spec e.f.lit).map fun o => (o, 1, .rd)
  | _ => none


/-! ### Registers read and written -/

/-- Keys of the registers an operand names, n of them: vN is N, gN 256 + N, oN 320 + N, pN 328 + N; p7, latches and
special sources have none. -/
def opKeys (o : Opnd) (n : Nat) : List Nat :=
  match o with
  | .v r => (List.range n).map (r.toNat + ·)
  | .g r => (List.range n).map (256 + r.toNat + ·)
  | .o r => [320 + r.toNat]
  | .p r => if r = 7 then [] else [328 + r.toNat]
  | _ => []

/-- Key of SR_FMODE and SR_FFLAGS, which R140 counts with the registers of R28. -/
def fmodeKey : Nat := 350

/-- Key of latch hk, for the holds of R155 and R190. -/
def latchKey (k : Nat) : Nat := 352 + k

/-- Keys of what a source names, latches among them. -/
def useKeys (o : Opnd) (n : Nat) : List Nat :=
  match o with
  | .h k => [latchKey k.toNat]
  | o => opKeys o n

/-- What a pending result holds back: the registers it retires into, and its latch while the run goes on (R155, R190). -/
def pendKeys (e : Enc) (d : Opnd) (n pos : Nat) : List Nat :=
  (if nwb e then [] else opKeys d n) ++ (if stays e then [latchKey pos] else [])

/-- Does the instruction read SR_FMODE and SR_FFLAGS for R28 (R140)? -/
def readsFmode (e : Enc) : Bool :=
  let o := e.w.opc.toNat
  (0x40 ≤ o && o ≤ 0x5A) || ((o == 0x63 || o == 0x64) && e.w.sub.extractLsb' 0 3 == 6#3)


/-- Registers and latches the instruction reads, for R28 and the holds of R155 and R190. -/
def readKeys (e : Enc) (r : Row) : List Nat :=
  let ks := (fieldsOf e r).flatMap fun f => match f.operand e with
    | some (o, n, d) => if d = .wr then [] else useKeys o n
    | none => []
  (if e.w.gp = 7 then [] else [328 + e.w.gp.toNat]) ++ ks ++ (if readsFmode e then [fmodeKey] else [])

/-- SR_FMODE or SR_FFLAGS as what a `syswr` writes, with the OPF bits of a refusal (R139, R140): the register's value
names it, so with an empty active set nothing is tested; a `.w64` access fails SA as well. -/
def sysKeys (e : Enc) (x : Group) : List (Nat × Nat) :=
  if e.w.opc = 0x0D ∧ x.active e.w.guard ≠ 0 then
    match decSpec e.w.a e.f.lit with
    | some o =>
      if specNum x o = 0x0A ∨ specNum x o = 0x0B then
        (fmodeKey, 0) :: (if e.w.mod.getLsbD 0 then [(fmodeKey, 1)] else [])
      else []
    | none => []
  else []

/-- Registers the instruction writes, each with the OPF bit of its field. -/
def writeKeys (e : Enc) (r : Row) (x : Group) : List (Nat × Nat) :=
  sysKeys e x ++ (fieldsOf e r).flatMap fun f => match f.operand e with
    | some (o, n, d) => if d = .rd || (f.bit == 0 && nwb e) then [] else (opKeys o n).map fun k => (k, f.bit)
    | none => []

/-! ### Elements read -/

/-- Lanes of an operand that hold a marked element, among those given; a uniform register counts as lane 0 (R189). -/
def markedLanes (x : Group) (o : Opnd) (n : Nat) (act : Mask) : List Nat :=
  match o with
  | .v r => if (x.vBank r.toNat).vm = [] then [] else
      (lanesOf act).filter fun l => (List.range n).any fun i => x.vMark (r.toNat + i) l
  | .o r => if x.om = [] then [] else (lanesOf act).filter fun l => x.oMark r.toNat l
  | .h k => if x.latm = [] then [] else (lanesOf act).filter fun l => x.hMark k.toNat l
  | .g r => if act ≠ 0 ∧ ((List.range n).any fun i => x.gMark (r.toNat + i)) then [0] else []
  | _ => []


/-- Does a byte of an index word look into lane m (R182)? -/
def looksInto (w : Word) (m : Nat) : Bool := (List.range 4).any fun i => bits w.toNat (8 * i) 8 / 4 == m

/-- The lanes whose elements of field `bit` an instruction reads: the active ones, but for the source A of the cross-lane
instructions, of which it reads the lanes that its result takes values from (R154, R176–R182). -/
def readMask (x : Group) (e : Enc) (bit : Nat) : Mask :=
  let act := x.active e.w.guard
  let b := decSpec e.w.b e.f.lit
  let at_ (l : Nat) : Word := match b with | some o => src32 x o l | none => 0
  let p : Mask := match b with | some o => srcP x o | none => 0
  if bit ≠ 1 then act
  else match e.w.opc.toNat with
    | 0x60 =>
      let md := (ShflMode.ofCode e.w.sub).getD .idx
      maskOf fun m => (lanesOf act).any fun l =>
        shflFrom md l (at_ l) == (m : Int) && validLane act x.gw (shflFrom md l (at_ l))
    | 0x61 => if act = 0 then 0 else BitVec.twoPow 64 (lowLane act)
    | 0x62 => if act ≠ 0 ∧ validLane act x.gw (at_ 0).toNat then BitVec.twoPow 64 (at_ 0).toNat else 0
    | 0x65 => act &&& p
    | 0x66 => laneMask (popCount (act &&& p))
    | 0x67 =>
      if e.w.sub = 1 then maskOf fun m => act.getLsbD m && (lanesOf act).any fun l => looksInto (at_ l) m
      else maskOf fun m => act.getLsbD m && act.getLsbD (at_ m).toNat &&
        (lanesOf act).all fun l => l ≤ m || at_ l != at_ m
    | _ => act

/-- How many registers of a field an instruction reads: of the destination of `atmc` all but the status (R200). -/
def readCount (e : Enc) (bit n : Nat) : Nat := if e.w.opc = 0x82 ∧ bit = 0 then n - 1 else n

/-- The lowest marked lane that the instruction reads, if any; the fragment of `mma` is read at its rendezvous
(R189, R235). -/
def markFault (x : Group) (e : Enc) (r : Row) : Option Nat :=
  if e.w.opc = 0xA2 then none
  else
    let ls := (fieldsOf e r).flatMap fun f => match f.operand e with
      | some (o, n, d) => if d = .wr then [] else markedLanes x o (readCount e f.bit n) (readMask x e f.bit)
      | none => []
    if ls = [] then none else some (ls.foldl Nat.min 63)

end Sys2Proof.Machine
end

