-- ==== Sys2Proof/Config.lean ====
section
/-!
DEFINITION. What the spec leaves to an implementation or leaves open: one opaque function, applied to the operands the
value depends on or to the counter State.fresh. Nothing in Lean can evaluate it, so whatever is proved holds for every
choice (log 2).
-/
namespace Sys2Proof.Config

/-- What an open value is for, with the rule that leaves it open. -/
inductive Open where
  /-- may a stale translation be used? (R301) -/
  | tlb
  /-- special-function results within R169 -/
  | sfu
  /-- matrix sums within R117 -/
  | mma
  /-- the decryption of bytes written under another key (R303) -/
  | xts
  /-- a published block-compression format or the sRGB curve (R223, R225) -/
  | texel
  /-- bytes of a peer device (R502) -/
  | peer
  /-- which addend of an unordered reduction comes first (R453) -/
  | order
  /-- generated keys, signatures, hashes and certificate bytes (R459, R477, R496–R498, R519) -/
  | crypto
  /-- decompressed, compressed and encoded bytes of published codecs (R452, R461) -/
  | codec
  /-- what the traversal engine may choose among conservative answers (R377, R378, R381, R386) -/
  | beam
  /-- cache hits, walks and other event counts the hardware decides (R424) -/
  | count
  /-- a result the spec does not state -/
  | unstated
  deriving DecidableEq, Repr

/-- The open values. -/
opaque free (what : Open) (args : List Nat) : Nat

/-- An open value of n bits. -/
def bits (what : Open) (n : Nat) (args : List Nat) : BitVec n := BitVec.ofNat n (free what args)

/-- An open truth value. -/
def flip (what : Open) (args : List Nat) : Bool := free what args % 2 == 1

end Sys2Proof.Config
end

