-- ==== Sys2Proof/Machine/Access.lean ====
section
/-!
DEFINITION. Translation (spec/11 R297–R303, spec/19 R459, R460, spec/21 R483), the bytes of global memory under keys and
poison, and the bytes of scratchpads (spec/07 R184, R185).
-/
namespace Sys2Proof.Machine

/-- Cause codes (R144). -/
def cILLENC : Nat := 0x01
def cILLOPC : Nat := 0x02
def cSPLIT : Nat := 0x03
def cILLOPERAND : Nat := 0x04
def cMISALIGN : Nat := 0x05
def cPAGE : Nat := 0x06
def cPERM : Nat := 0x07
def cPADB : Nat := 0x08
def cLOCK : Nat := 0x09
def cGANG : Nat := 0x0A
def cZTILE : Nat := 0x0B
def cBARRIER : Nat := 0x0C
def cECC : Nat := 0x0D
def cSWTRAP : Nat := 0x0E
def cBRK : Nat := 0x0F
def cWATCH : Nat := 0x10
def cROLE : Nat := 0x11
def cTASK : Nat := 0x12
def cBEAM : Nat := 0x13
def cDIV : Nat := 0x14
def cWDOG : Nat := 0x15

/-! ### Physical memory -/

/-- Bytes of a memory region, 24 GB (R438). -/
def regionBytes : Nat := 24 * 2 ^ 30
/-- Bytes of a loft (R438). -/
def loftBytes : Nat := 1536 * 2 ^ 20

/-- Read a 64-bit table entry at a physical address, local or host. -/
def readEntry (m : Mem) (pa : Nat) : DWord :=
  match bits pa 50 2 with
  | 0 => BitVec.ofNat 64 (bytesAt m.hbm pa 8)
  | 2 => BitVec.ofNat 64 (bytesAt m.host (pa % 2 ^ 50) 8)
  | _ => 0

/-- A table entry that is valid but breaks R298, at a level (0 to 3) and index. -/
def pteBad (lvl idx : Nat) (e : DWord) : Bool :=
  let x := e.toNat
  let leaf := bit x 1
  let adr := bits x 12 40
  bits x 9 3 != 0 ||
  (if leaf then
    lvl == 3 || bits x 6 2 == 3 || (bit x 8 && (lvl != 0 || idx % 16 != 0)) ||
      (match lvl with
       | 2 => bits adr 0 18 != 0
       | 1 => bits adr 0 9 != 0
       | 0 => bit x 8 && bits adr 0 4 != 0
       | _ => true)
   else lvl == 0 || bits x 2 7 != 0 || bits x 52 12 != 0)

/-- Read and check one entry (R298, R299): the cause, or the entry. -/
def walkEntry (m : Mem) (tbl lvl idx : Nat) : Except Nat DWord :=
  let e := readEntry m (tbl + 8 * idx)
  if !e.getLsbD 0 then .error cPAGE
  else if pteBad lvl idx e then .error cPERM
  else .ok e

/-- The next table or the page of an entry. -/
def pteAddr (e : DWord) : Nat := bits e.toNat 12 40 * 2 ^ 12

/-- The page that maps an address: first virtual address, size and entry (R297, R300). -/
def walk (m : Mem) (root va : Nat) : Except Nat (Nat × Nat × DWord) := do
  let e3 ← walkEntry m root 3 (bits va 39 17)
  let e2 ← walkEntry m (pteAddr e3) 2 (bits va 30 9)
  if e2.getLsbD 1 then return (va / 2 ^ 30 * 2 ^ 30, 2 ^ 30, e2)
  let e1 ← walkEntry m (pteAddr e2) 1 (bits va 21 9)
  if e1.getLsbD 1 then return (va / 2 ^ 21 * 2 ^ 21, 2 ^ 21, e1)
  let t0 := pteAddr e1
  let h := readEntry m (t0 + 8 * (bits va 16 5 * 16))
  if h.getLsbD 0 && h.getLsbD 8 then
    if pteBad 0 (bits va 16 5 * 16) h then .error cPERM
    else return (va / 2 ^ 16 * 2 ^ 16, 2 ^ 16, h)
  else
    let e0 ← walkEntry m t0 0 (bits va 12 9)
    return (va / 2 ^ 12 * 2 ^ 12, 2 ^ 12, e0)

/-- Permissions an access needs (R299). -/
structure Need where
  r : Bool
  w : Bool
  x : Bool
  deriving DecidableEq, Repr

def needR : Need := ⟨true, false, false⟩
def needW : Need := ⟨false, true, false⟩
def needRW : Need := ⟨true, true, false⟩
def needX : Need := ⟨false, false, true⟩

/-- A translated address: target (0 local, 1 peer, 2 host), address there, device for a peer, key ID, foreign (R324). -/
structure Xl where
  target : Nat
  addr : Nat
  dev : Nat
  kid : Nat
  foreign : Bool
  ent : TlbEnt
  deriving DecidableEq, Repr

/-- May a tag use a key ID (R299): it is assigned to the tag, as ID 0 is to tag 0, or shared with it (R459)? -/
def keyOk (s : State) (tag kid : Nat) : Bool :=
  (peek s.keyOwner kid).toNat == tag || (2 ≤ tag && (peek s.keyShare kid).getLsbD (tag - 2))

/-- The tag that owns the region of a local address (R324). -/
def regionOwner (s : State) (pa : Nat) : Nat := (getSlice s (pa / 2 ^ 35)).owner

/-- Does a local address lie in a tag's windows, default and added (R460)? -/
def inWindows (s : State) (tag pa : Nat) : Bool :=
  regionOwner s pa == tag || (getFn s tag).wins.any fun w => decide (w.1 ≤ pa) && decide (pa < w.1 + w.2)

/-- The check of a local physical address (R438, R460): false gives PERM. -/
def localOk (s : State) (tag pa kid : Nat) (sf : Bool) : Bool :=
  let off := pa % 2 ^ 35
  if 16 ≤ pa / 2 ^ 35 || regionBytes ≤ off then false
  else if regionBytes - loftBytes ≤ off then tag == 0
  else inWindows s tag pa ||
    (sf && 2 ≤ tag && (peek s.keyShare kid).getLsbD (tag - 2) && inWindows s (peek s.keyOwner kid).toNat pa)

/-- The checks after the walk (R299, R303, R324, R459, R460, R483). -/
def checkPage (s : State) (tag va : Nat) (need : Need) (ent : TlbEnt) : Except Nat Xl :=
  let e := ent.pte.toNat
  let pa := pteAddr ent.pte + (va - ent.va)
  let kid := bits e 52 12
  let sf := bit e 5
  if (need.r && !bit e 2) || (need.w && !bit e 3) || (need.x && !bit e 4) then .error cPERM
  else match bits pa 50 2 with
    | 0 =>
      let foreign := sf && regionOwner s pa != tag
      if !keyOk s tag kid || !localOk s tag pa kid sf || (foreign && need.w) then .error cPERM
      else .ok ⟨0, pa, 0, kid, foreign, ent⟩
    | 1 =>
      if !keyOk s tag kid || bits pa 39 5 != 0 then .error cPERM
      else .ok ⟨1, bits pa 0 39, bits pa 44 6, kid, false, ent⟩
    | 2 => .ok ⟨2, bits pa 0 50, 0, 0, false, ent⟩
    | _ => .error cPERM

/-- The unit that holds what engine operations and shed engines have translated (R446). -/
def engUnit : Nat := 240

/-- The cluster's unit of a core's. -/
def clusterUnit (u : Nat) : Nat := 192 + u / 4

/-- Does a unit see an entry: its own, and a core that of its cluster (R301)? -/
def seesUnit (u v : Nat) : Bool := u == v || (decide (u < 192) && v == clusterUnit u)

/-- The cached translations of an address that a unit may use (R301), as entries of that unit. -/
def cached (s : State) (tag u va : Nat) : List TlbEnt :=
  (s.tlb.filter fun e => e.tag == tag && seesUnit u e.unit && decide (e.va ≤ va) && decide (va < e.va + e.size)).map
    fun e => { e with unit := u }

/-- The entry that a unit translates an access of a tag with: what the walk gives, or a cached entry that the tables no
longer hold, as an open value says (R301). -/
def pageOf (s : State) (tag u va : Nat) : Except Nat TlbEnt :=
  match (getFn s tag).ctx with
  | none => .error cPAGE
  | some c =>
    let old := cached s tag u va
    let pick (n : Nat) : Nat := Config.free .tlb [s.fresh, u, va] % (n + 1)
    match walk s.mem c.ptroot va with
    | .ok (b, n, p) =>
      let new : TlbEnt := ⟨u, tag, b, n, p⟩
      match old.filter (· != new) with
      | [] => .ok new
      | es => .ok ((es[pick es.length]?).getD new)
    | .error k =>
      match old with
      | [] => .error k
      | es => match es[pick es.length]? with | some e => .ok e | none => .error k

/-- Translate an address of a tag in a unit (R297–R303). -/
def xlate (s : State) (tag u va : Nat) (need : Need) : Except Nat Xl :=
  match pageOf s tag u va with
  | .error k => .error k
  | .ok e => checkPage s tag va need e

/-- Entries of a unit: 256 in a core, 4,096 in a cluster (R301). -/
def unitSize (u : Nat) : Option Nat := if u < 192 then some 256 else if u < engUnit then some 4096 else none

/-- Keep at most n entries of a unit. -/
def keepUnit (u : Nat) : Nat → List TlbEnt → List TlbEnt
  | _, [] => []
  | n, e :: es =>
    if e.unit ≠ u then e :: keepUnit u n es
    else match n with
      | 0 => keepUnit u 0 es
      | n + 1 => e :: keepUnit u n es

/-- A unit takes up a translation; the oldest of its entries goes when it is full. -/
def tlbAdd (e : TlbEnt) (es : List TlbEnt) : List TlbEnt :=
  let rest := es.filter (· != e)
  e :: (match unitSize e.unit with | some n => keepUnit e.unit (n - 1) rest | none => rest)

/-- Remember a translation: in the unit that made it, and a core's in its cluster's too (R301). -/
def tlbPut (e : TlbEnt) (s : State) : State :=
  let es := tlbAdd e s.tlb
  { s with tlb := if e.unit < 192 then tlbAdd { e with unit := clusterUnit e.unit } es else es }

/-- Every map of memory is in canonical form: addresses strictly rising, no entry that equals what an unlisted address reads
as. -/
def Memory.wf (m : Mem) : Bool := m.hbm.wf && m.key.wf && m.pois.wf && m.host.wf && m.under.wf

/-- The key and key generation a byte is written under (R303). -/
def keyTag (s : State) (kid : Nat) : DWord := BitVec.ofNat 64 (kid * 2 ^ 32 + (peek s.keyGen kid).toNat)

/-- Is some AHL port of the host up (R482)? -/
def hostUp (s : State) : Bool := (s.ports.getD 0 Port.init).up || (s.ports.getD 1 Port.init).up

/-- A byte written under a key and key generation, as a read under key ID kid returns it: its decryption, an open value,
where they differ (R303). -/
def decrypted (s : State) (kid a : Nat) (k : DWord) (b : Byte) : Byte :=
  if k = keyTag s kid then b else Config.bits .xts 8 [(keyTag s kid).toNat, k.toNat, a, b.toNat]

/-- The bytes that lines of other keys hold at an address, with the key and generation of each (R303). -/
def underAt (m : Mem) (a : Nat) : List (DWord × Byte) :=
  (m.under.filter fun c => c.1 / 4096 == a).map fun c =>
    (BitVec.ofNat 64 (c.1 % 4096 * 2 ^ 32 + bits c.2.toNat 8 32), BitVec.ofNat 8 c.2.toNat)

/-- A byte of a local region as a read under a key returns it: the last one written, or, where lines of several keys hold
the address, that of any of them, as their write-backs fall (R303). -/
def localByte (s : State) (kid a : Nat) : Byte :=
  let last := decrypted s kid a (peek s.mem.key a) (peek s.mem.hbm a)
  match underAt s.mem a with
  | [] => last
  | us => ((us.map fun u => decrypted s kid a u.1 u.2)[Config.free .xts [s.fresh, a, kid] % (us.length + 1)]?).getD last

/-- The lines of other keys after a write at an address under key ID kid: the line that held it before keeps its own
content; the line of this key is the one written (R303). -/
def underPut (m : Mem) (a kid : Nat) : Cells 64 :=
  let k := (peek m.key a).toNat
  if k / 2 ^ 32 = kid ∨ k = 0 then (if m.under = [] then [] else poke m.under (4096 * a + kid) 0)
  else poke (poke m.under (4096 * a + kid) 0) (4096 * a + k / 2 ^ 32 % 4096)
    (BitVec.ofNat 64 (2 ^ 40 + k % 2 ^ 32 * 2 ^ 8 + (peek m.hbm a).toNat))

/-- One byte of global memory at i bytes past a translated address, as read (R303); a peer's byte is an open value
(R502). -/
def gByte (s : State) (x : Xl) (i : Nat) : Byte :=
  match x.target with
  | 0 => localByte s x.kid (x.addr + i)
  | 1 => Config.bits .peer 8 [x.dev, x.addr + i, s.fresh]
  | _ => peek s.mem.host (x.addr + i)

/-- Does the read return poison: a poisoned sector (R471), a poisoned transfer from a peer or a lost host (R482, R502)? -/
def gPoison (s : State) (x : Xl) (i : Nat) : Bool :=
  match x.target with
  | 0 => peek s.mem.pois ((x.addr + i) / 128) == 1
  | 1 => Config.flip .peer [x.dev, s.fresh]
  | _ => !hostUp s

/-- Is the poison one of a transfer (event 0x0E)? -/
def Xl.linkDead (s : State) (x : Xl) : Bool := x.target != 0 && gPoison s x 0

/-- n bytes at a translated address, little-endian. -/
def gRead (s : State) (x : Xl) : Nat → Nat
  | 0 => 0
  | n + 1 => gRead s x n + 256 ^ n * (gByte s x n).toNat

/-- Write one byte at a translated address; a byte for a lost host or a peer leaves no state here. -/
def gPut (x : Xl) (i : Nat) (b : Byte) (s : State) : State :=
  match x.target with
  | 0 => { s with mem := { s.mem with under := underPut s.mem (x.addr + i) x.kid,
                                      hbm := poke s.mem.hbm (x.addr + i) b,
                                      key := poke s.mem.key (x.addr + i) (keyTag s x.kid) } }
  | 1 => s
  | _ => if hostUp s then { s with mem := { s.mem with host := poke s.mem.host (x.addr + i) b } } else s

/-- Write n bytes at a translated address, little-endian. -/
def gWrite (x : Xl) (v : Nat) : Nat → State → State
  | 0, s => s
  | n + 1, s => gPut x n (BitVec.ofNat 8 (v / 256 ^ n)) (gWrite x v n s)

/-- Clear the poison of the sectors that the writes cover whole (R472). -/
def clearPoison (ws : List (Nat × Nat)) (s : State) : State :=
  if s.mem.pois = [] then s
  else { s with mem := { s.mem with pois := s.mem.pois.filter fun c =>
    !((List.range 128).all fun i => ws.any fun w => decide (w.1 ≤ 128 * c.1 + i) && decide (128 * c.1 + i < w.1 + w.2)) } }

/-- The state with memory as a snapshot has it (R48, R184). -/
def State.asOf (p : Snap) (s : State) : State := { s with mem := p.mem, keyGen := p.keyGen, fresh := p.fresh }

/-- Memory as it stands, for a submission that begins (R184). -/
def State.snapshot (s : State) : Snap := ⟨s.mem, s.keyGen, s.fresh⟩

/-! ### Transactions on the links (R480, R481) -/

/-- May a transaction pass an earlier one that waits (R481)? Those of one channel go in order. -/
def Xact.passes (x y : Xact) : Bool := x.vc != y.vc && (x.vc == 0 || y.vc != 0 || x.tag != y.tag)

/-- Has a port the credits that a transaction takes (R480)? -/
def Port.hasCredit (p : Port) (x : Xact) : Bool :=
  let c := p.credits.getD x.vc (0, 0)
  decide (1 ≤ c.1) && decide (x.slots ≤ c.2)

/-- A transaction is sent and spends its credits, or waits (R480–R482). -/
def Port.offer (p : Port) (x : Xact) : Port :=
  if !p.retraining && p.hasCredit x && p.held.all x.passes then
    { p with credits := modAt p.credits x.vc fun c => (c.1 - 1, c.2 - x.slots) }
  else { p with held := p.held ++ [x] }

/-- What waits is offered again, in order. -/
def Port.drain (p : Port) : Port := p.held.foldl Port.offer { p with held := [] }

/-- Credits return, up to what the channel has in all, and what waits goes on (R480). -/
def Port.refund (ret : List (Nat × Nat)) (p : Port) : Port :=
  Port.drain { p with credits := (List.range 4).map fun i =>
    let c := p.credits.getD i (0, 0)
    let r := ret.getD i (0, 0)
    let m := vcCredits.getD i (0, 0)
    (Nat.min (c.1 + r.1) m.1, Nat.min (c.2 + r.2) m.2) }

/-- The transactions of an access of n bytes: each of up to 512 bytes, with a data slot for every 16 where it carries data
(R479). -/
def xactsOf (vc tag n : Nat) (data : Bool) : List Xact :=
  (List.range ((n + 511) / 512)).map fun i => ⟨vc, tag, if data then (Nat.min 512 (n - 512 * i) + 15) / 16 else 0⟩

/-- The port by which an access to a host (2) or a peer (1) goes: of the ones that are up, an open one (R481, R501). -/
def outPort (s : State) (target : Nat) : Option Nat :=
  let ps := (if target = 2 then [0, 1] else (List.range 12).map (· + 2)).filter fun p => (s.ports.getD p Port.init).up
  ps[Config.free .order [s.fresh, target] % ps.length]?

/-- An access that leaves the device gives its transactions to a port. -/
def sendOut (target vc tag n : Nat) (data : Bool) (s : State) : State :=
  if target = 0 then s
  else match outPort s target with
    | none => s
    | some p => { s with ports := modAt s.ports p fun p => (xactsOf vc tag n data).foldl Port.offer p }

/-- The same for an access at a virtual address. -/
def sendVa (tag va vc n : Nat) (data : Bool) (s : State) : State :=
  match xlate s tag engUnit va ⟨false, false, false⟩ with
  | .ok x => sendOut x.target vc tag n data s
  | .error _ => s

/-! ### Access by virtual address, byte by byte, for readers and writers other than lanes -/

/-- Read n bytes of a tag at a virtual address; the cause of the first byte that fails. -/
def vBytes (s : State) (tag va : Nat) (need : Need) : Nat → Except (Nat × Nat) (List Byte)
  | 0 => .ok []
  | n + 1 =>
    match xlate s tag engUnit va need with
    | .error k => .error (k, va)
    | .ok x =>
      match vBytes s tag ((va + 1) % 2 ^ 56) need n with
      | .error k => .error k
      | .ok bs => .ok (gByte s x 0 :: bs)

/-- Is any of n bytes poisoned, where they translate? -/
def vPoison (s : State) (tag va n : Nat) : Bool :=
  (List.range n).any fun i =>
    match xlate s tag engUnit ((va + i) % 2 ^ 56) ⟨false, false, false⟩ with
    | .ok x => gPoison s x 0
    | .error _ => false

/-- Write bytes of a tag at a virtual address, from the first on; stops at the first byte that fails, with its cause. -/
def vPut (tag : Nat) : Nat → List Byte → State → Except (Nat × Nat × State) State
  | _, [], s => .ok s
  | va, b :: bs, s =>
    match xlate s tag engUnit va needW with
    | .error k => .error (k, va, s)
    | .ok x => vPut tag ((va + 1) % 2 ^ 56) bs (tlbPut x.ent (gPut x 0 b s))

/-- Write all of the bytes, or none where one fails. -/
def vWriteAll (tag va : Nat) (bs : List Byte) (s : State) : Option State :=
  match vPut tag va bs s with
  | .ok s' => some (sendVa tag va 0 bs.length true s')
  | .error _ => none

/-- A little-endian number of n bytes at a virtual address. -/
def vNat (s : State) (tag va n : Nat) : Option Nat :=
  match vBytes s tag va needR n with
  | .ok bs => some (bytesNat bs)
  | .error _ => none

/-- A field of a byte block. -/
def field (bs : List Byte) (off n : Nat) : Nat := bytesNat ((bs.drop off).take n)

/-- The local physical sectors that a write of n bytes covers, for R472. -/
def vSpans (s : State) (tag va : Nat) : Nat → List (Nat × Nat)
  | 0 => []
  | n + 1 =>
    match xlate s tag engUnit (va + n) ⟨false, false, false⟩ with
    | .ok x => if x.target = 0 then (x.addr, 1) :: vSpans s tag va n else vSpans s tag va n
    | .error _ => vSpans s tag va n

/-! ### Signatures (R319, R320) -/

/-- The two signature bits of a line (R319). -/
def sigOf (pa : Nat) : BitVec 1024 :=
  let l := pa / 128
  let f (k : Nat) : Nat := bits l k 10
  let ha := Nat.xor (Nat.xor (Nat.xor (f 0) (f 10)) (Nat.xor (f 20) (f 30))) (bits l 40 5)
  let hb := Nat.xor (Nat.xor (f 5) (f 15)) (Nat.xor (Nat.xor (f 25) (f 35)) (bits l 0 5 * 32))
  BitVec.twoPow 1024 ha ||| BitVec.twoPow 1024 hb

/-- Is the signature full (R319)? -/
def sigFull (x : BitVec 1024) : Bool := decide (384 < popCount x)

/-- Does a line match a signature (R319): both of its bits are set, or the signature is full? -/
def lineMatches (sig : BitVec 1024) (l : Nat) : Bool := sigFull sig || sigOf (128 * l) &&& ~~~sig == 0

/-- Does a tag's context run in fall-back mode (R321, R445)? -/
def fallback (s : State) (tag : Nat) : Bool :=
  (getFn s tag).lim.fallback || (match (getFn s tag).ctx with | some c => c.fallback | none => false)

/-! ### The L1 and the L2 (R299, R318, R324, R457) -/

/-- May a line of the page be allocated in the L1, or in the L2 (R298, R299, R484)? -/
def Xl.inL1 (x : Xl) : Bool := x.target == 0 && bits x.ent.pte.toNat 6 2 == 0
def Xl.inL2 (x : Xl) : Bool := x.target == 0 && bits x.ent.pte.toNat 6 2 != 2

/-- The line of a local address. -/
def Xl.line (x : Xl) : Nat := x.addr / 128

/-- The line index of a translated address for signatures: PA[51:7] (R319). -/
def Xl.sigLine (x : Xl) : Nat := (x.target * 2 ^ 50 + x.dev * 2 ^ 44 + x.addr) / 128

/-- The 128 bytes of the line that holds a translated address, as memory has them now. -/
def lineData (s : State) (x : Xl) : List Byte := (List.range 128).map fun i => gByte s { x with addr := 128 * x.line } i

/-- The copy of a line that a core's L1 holds. -/
def l1Find (s : State) (core : Nat) (x : Xl) : Option L1Line :=
  s.l1.find? fun l => l.core == core && l.line == x.line && l.kid == x.kid

/-- Drop the lines of a core's L1 that a test picks. -/
def l1Drop (core : Nat) (p : L1Line → Bool) (s : State) : State :=
  { s with l1 := s.l1.filter fun l => !(l.core == core && p l) }

/-- Keep at most n lines of a core. -/
def keepLines (core : Nat) : Nat → List L1Line → List L1Line
  | _, [] => []
  | n, l :: ls =>
    if l.core ≠ core then l :: keepLines core n ls
    else match n with
      | 0 => keepLines core 0 ls
      | n + 1 => l :: keepLines core n ls

/-- Take a line into a core's L1 of 256 KiB; a poisoned line is not kept. -/
def l1Fill (core : Nat) (x : Xl) (s : State) : State :=
  if gPoison s x 0 then s
  else
    let rest := s.l1.filter fun l => !(l.core == core && l.line == x.line && l.kid == x.kid)
    { s with l1 := ⟨core, x.line, x.kid, lineData s x⟩ :: keepLines core 2047 rest }

/-- A store updates the copy that its core's L1 holds (R318). -/
def l1Store (core : Nat) (x : Xl) (bs : List Byte) (s : State) : State :=
  { s with l1 := s.l1.map fun l =>
      if l.core = core ∧ l.line = x.line ∧ l.kid = x.kid then
        { l with data := l.data.take (x.addr % 128) ++ bs ++ l.data.drop (x.addr % 128 + bs.length) }
      else l }

/-- The home station of a local address (R438). -/
def homeStation (pa : Nat) : Nat :=
  let sl := pa / 2 ^ 35
  32 * (sl / 4) + 8 * (sl % 4) + Nat.xor (Nat.xor (bits pa 9 3) (bits pa 12 3)) (bits pa 15 3)

/-- The way mask of a tag at a station: as WAYS set it, else all 16 for the owner of the station's slice (R457). -/
def wayMask (s : State) (station tag : Nat) : BitVec 16 :=
  match s.ways.find? fun w => w.1 == station && w.2.1 == tag with
  | some w => w.2.2
  | none => if (getSlice s (station / 8)).owner = tag then 0xFFFF else 0

/-- A read at the home station: does it hit? Open: a line that was filled may have gone, and an engine, a walk or a prefetch
may have brought one. -/
def l2Hits (s : State) (x : Xl) : Bool :=
  Config.flip .count [s.fresh, x.line, x.kid, (s.l2.filter fun l => l.line == x.line && l.kid == x.kid).length]

/-- A read that misses fills into the accessor's own ways, where it has any (R324, R457). -/
def l2Fill (tag : Nat) (x : Xl) (s : State) : State :=
  if !x.inL2 || wayMask s (homeStation x.addr) tag == 0 then s
  else { s with l2 := ⟨x.line, x.kid, tag⟩ :: s.l2.filter fun l => !(l.line == x.line && l.kid == x.kid) }

/-- The key under which a team carries the signatures of a group's completed engine operations: its batch object (R320). -/
def batchKey (uid : Nat) : Nat := 2 ^ 33 + 2 * uid

/-- The key under which a team carries the signature of a completion record (R320). -/
def recKey (off : Nat) : Nat := 2 ^ 32 + off

/-- The key under which a team carries what a group's release fences have published, for its later writes (R203, R313). -/
def fenceKey (uid : Nat) : Nat := 2 ^ 33 + 2 * uid + 1

/-- What an acquire of a tag on a core does to its L1: the lines that match the signature received are invalidated, in
fall-back mode all of them; both are counted (R320, R321, R424). -/
def acquireL1 (tag core : Nat) (sig : BitVec 1024) (s : State) : State :=
  let fb := fallback s tag
  let gone (l : L1Line) : Bool := fb || lineMatches sig l.line
  let n := (s.l1.filter fun l => l.core == core && gone l).length
  let s := l1Drop core gone (if n = 0 then s else countEv tag core 7 n s)
  if !fb && sigFull sig then countEv tag core 8 1 s else s

/-- An acquire of the group in focus receives a signature, which joins its own unless fall-back mode keeps none (R320,
R321). -/
def receive (sig : BitVec 1024) (s : State) : State :=
  let t := acquireL1 s.t.tag (coreOf s.t s.g) sig s
  if fallback s s.t.tag then t else onG (fun x => { x with sig := x.sig ||| sig }) t

/-! ### Scratchpads -/

/-- n bytes of a team's scratchpad. -/
def padRead (t : Team) (off n : Nat) : Nat := bytesAt t.pad off n

/-- Is an element that the bytes touch marked (R471)? -/
def padMark (t : Team) (off n : Nat) : Bool :=
  (List.range ((off + n + 3) / 4 - off / 4)).any fun i => peek t.padm (off / 4 + i) == 1

/-- Write n bytes of a team's scratchpad; elements written whole lose their marks (R189). -/
def padWrite (off n v : Nat) (t : Team) : Team :=
  { t with pad := pokeBytes t.pad off n v,
           padm := t.padm.filter fun c => !(decide (off ≤ 4 * c.1) && decide (4 * c.1 + 4 ≤ off + n)) }

/-- Write a list of bytes. -/
def padPut (off : Nat) (bs : List Byte) (t : Team) : Team := padWrite off bs.length (bytesNat bs) t

/-- The cluster of a core. -/
def clusterOf (core : Nat) : Nat := core / 4

/-- Does a team occupy a core (R185, R327)? -/
def Team.on (t : Team) (core : Nat) : Bool := t.core == core || (t.pair && t.core + 1 == core)

/-- Has the team not ended? -/
def Team.lives (t : Team) : Bool := t.uid != 0 && t.resid != .gone && t.resid != .drained

/-- Does a team belong to a cooperative swarm? A task never does (R333, R348). -/
def Team.coopSwarm (t : Team) : Bool := t.desc.coop && t.origin == .launch

/-- The swarm of a team: its submission, or the team itself when it runs a task (R327, R348). -/
def Team.swarm (t : Team) : Nat :=
  match t.origin with
  | .launch => 2 * t.sub
  | _ => 2 * t.uid + 1

/-- The peer team of a team on a core of its cluster (R185). -/
def peerOf (s : State) (t : Team) (core : Nat) : Option Team :=
  if t.on core then some t
  else (allTeams s).find? fun x => x.lives && x.swarm == t.swarm && x.seat == t.seat && x.on core

end Sys2Proof.Machine
end

