-- ==== Sys2Proof/Machine/Report.lean ====
section
/-!
DEFINITION. What the device reports: events, status bits and the error ring (spec/20 R465–R470), reset requests (R473),
trace records (spec/17 R407–R410) and watchpoint hits at the ports (R414, R415).
-/
namespace Sys2Proof.Machine

/-- An event before it is recorded (R466): the status bit it sets in ER_UST or ER_CST, if any. -/
structure Ev where
  kind : Nat
  cause : Nat
  slice : Nat
  gid : Word
  addr : Nat
  info : Nat
  ubit : Option Nat
  cbit : Option Nat
  deriving DecidableEq, Repr

/-- Is the second request covered by the first (R473)? The reset of a tag takes every slice of its partition (R475). -/
def RstReq.covers (s : State) : RstReq → RstReq → Bool
  | .slices a, .slices b => b &&& ~~~a == 0
  | .vf a, .vf b => a == b
  | .vf a, .slices b => (List.range 16).all fun n => !b.getLsbD n || (getSlice s n).owner == a
  | .slices _, .vf _ => false

/-- Queue a reset request, merged into one that covers it (R473); ignored after a fatal error (R476). -/
def askReset (r : RstReq) (s : State) : State :=
  if s.dump.fatal.isSome || s.rst.queue.any (·.covers s r) then s
  else { s with rst := { s.rst with queue := s.rst.queue ++ [r] } }

/-- The 32 bytes of a record (R466). -/
def evBytes (e : Ev) (flags tick seq : Nat) : List Byte :=
  natBytes e.kind 1 ++ natBytes e.cause 1 ++ natBytes flags 1 ++ natBytes e.slice 1 ++ natBytes e.gid.toNat 4
    ++ natBytes tick 8 ++ natBytes e.addr 8 ++ natBytes e.info 4 ++ natBytes seq 4

/-- Write one record to the ring of a tag and advance PROD (R468), signalling vector 0 (R487); none when it is lost. -/
def ringPush (tag : Nat) (e : Ev) (flags : Nat) (s : State) : Option State :=
  match (getFn s tag).ctx with
  | none => none
  | some c =>
    let n := (getFn s tag).er.seq
    match vNat s tag c.err.cons 4 with
    | none => none
    | some cons =>
      if (n + 2 ^ 32 - cons % 2 ^ 32) % 2 ^ 32 = 2 ^ c.err.logn then none
      else match vWriteAll tag (c.err.base + 32 * (n % 2 ^ c.err.logn)) (evBytes e flags s.tick n) s with
        | none => none
        | some s1 =>
          match vWriteAll tag c.err.prod (natBytes ((n + 1) % 2 ^ 32) 4) s1 with
          | none => none
          | some s2 => some (updFn tag (fun f => { f with er := { f.er with seq := (n + 1) % 2 ^ 32 },
                                                          vecs := f.vecs ||| 1 })
              (sendOut 2 0 tag 4 true s2))

/-- An event that could not be written: counted, and C4 set (R468). -/
def ringLost (tag : Nat) (s : State) : State :=
  if (getFn s tag).ctx.isSome then
    updFn tag (fun f => { f with er := { f.er with lost := f.er.lost + 1, cst := f.er.cst ||| 0x10 } }) s
  else s

/-- The 0x10 record for events lost before (R466, R468). -/
def ringCatchUp (tag : Nat) (s : State) : State :=
  let k := (getFn s tag).er.lost
  if k = 0 then s
  else
    let f := if (getFn s tag).er.cmsk.getLsbD 4 then 4 else 0
    match ringPush tag ⟨0x10, 0, 0xFF, 0, 0, k, none, some 4⟩ f s with
    | some s' => updFn tag (fun f => { f with er := { f.er with lost := 0 } }) s'
    | none => s

/-- Write an event to the ring of a tag, or lose it. -/
def ringEvent (tag : Nat) (e : Ev) (flags : Nat) (s : State) : State :=
  let s := ringCatchUp tag s
  if (getFn s tag).er.lost = 0 then
    match ringPush tag e flags s with
    | some s' => s'
    | none => ringLost tag s
  else ringLost tag s

/-- Is the status bit of an event masked (R470)? -/
def Ev.masked (e : Ev) (r : ErrRegs) : Bool :=
  match e.ubit, e.cbit with
  | some b, _ => r.umsk.getLsbD b
  | _, some b => r.cmsk.getLsbD b
  | _, _ => false

/-- Does an event take the severity action (R470)? -/
def Ev.severe (e : Ev) (r : ErrRegs) : Bool :=
  match e.ubit with
  | some b => !r.umsk.getLsbD b && r.usev.getLsbD b && decide (e.slice < 16)
  | none => false

/-- FLAGS of a record (R466, R470). -/
def Ev.flags (e : Ev) (r : ErrRegs) : Nat :=
  (if e.ubit.isSome then 1 else 0) + (if e.severe r then 2 else 0) + (if e.masked r then 4 else 0)

/-- Set the status bit and the header log (R469, R470). -/
def Ev.setStatus (e : Ev) (tick seq : Nat) (r : ErrRegs) : ErrRegs :=
  let log := r.ust == 0 && e.ubit.isSome && !e.masked r
  { r with
    ust := (match e.ubit with | some b => r.ust ||| BitVec.twoPow 9 b | none => r.ust),
    cst := (match e.cbit with | some b => r.cst ||| BitVec.twoPow 5 b | none => r.cst),
    hlog := if log then BitVec.ofNat 128 (bytesNat ((evBytes e (e.flags r) tick seq).take 16)) else r.hlog }

/-- The launches with a team resident on a slice, or saved from it, are to complete with STATUS 4 (R474, R493). -/
def markReset (slice : Nat) (s : State) : State :=
  let hit := (allTeams s).filter fun t => t.lives && t.slice == slice && t.origin == .launch
  { s with subs := s.subs.map fun x => if !x.finished && x.status == 0 && hit.any (·.sub == x.uid)
                                       then { x with status := 4 } else x }

/-- The severity action (R470): the reset that it asks for has the launches of the slice complete with STATUS 4 even where
their last group stops before it runs (R508, the printed run). -/
def severity (tag slice : Nat) (s : State) : State :=
  if (getFn s tag).er.autoreset then markReset slice (askReset (.slices (BitVec.twoPow 16 slice)) s)
  else updFn tag (fun f => { f with noPlace := f.noPlace ||| BitVec.twoPow 16 slice }) s

/-- Keep the record for the dump (R477). -/
def keepRecent (e : Ev) (flags seq : Nat) (s : State) : State :=
  if e.slice < 16 then
    let bs := evBytes e flags s.tick seq
    let mine := s.dump.recent.filter (·.1 == e.slice)
    let rest := s.dump.recent.filter (·.1 != e.slice)
    { s with dump := { s.dump with recent := rest ++ (mine.drop (mine.length - 63)) ++ [(e.slice, bs)] } }
  else s

/-- Report an event charged to a tag (R465–R470). -/
def emit (tag : Nat) (e : Ev) (s : State) : State :=
  if tag = 0 then
    { s with dump := { s.dump with tag0 := (s.dump.tag0 ++ [evBytes e (if e.ubit.isSome then 1 else 0) s.tick 0]).take 4096 } }
  else
    let r := (getFn s tag).er
    let fl := e.flags r
    let s := updFn tag (fun f => { f with er := e.setStatus s.tick r.seq f.er }) s
    let s := keepRecent e fl r.seq s
    let s := ringEvent tag e fl s
    let s := if e.ubit.isSome && 2 ≤ tag then ringEvent 1 { e with addr := 0 } fl s else s
    if e.severe r then severity tag e.slice s else s

/-- Event 0x0E subcode 2, charged to the requester (R482, R502). -/
def linkPoison (tag slice : Nat) (gid : Word) (addr : Nat) (s : State) : State :=
  emit tag ⟨0x0E, 0, slice, gid, addr, 2, some 8, none⟩ s

/-! ### Trace records -/

/-- Register key of an observation block (R405). -/
def obsKey (tag slice off : Nat) : Nat := 2 ^ 24 * tag + 2 ^ 16 * slice + off

/-- Key of a trace unit's register. -/
def trKey (tag cl off : Nat) : Nat := obsKey tag (cl / 3) (0x1000 + 0x100 * (cl % 3) + off)

/-- The tag whose settings a trace unit serves: the hypervisor's while claimed (R429). -/
def trTag (s : State) (tag cl : Nat) : Nat :=
  if s.claims.any (fun c => c.slice == cl / 3 && c.what == .trace (cl % 3)) then 1 else tag

/-- The TYPES bit of a record type (R408); 0x0E and 0x0F have none. -/
def trType (ty : Nat) : Option Nat :=
  if ty = 1 then some 16
  else if 2 ≤ ty ∧ ty ≤ 5 then some 17
  else if ty = 8 ∨ ty = 9 then some 18
  else if ty = 0x10 then some 19
  else if 0x40 ≤ ty ∧ ty ≤ 0x4F then some 20
  else none

/-- Is a record type written by a unit (R408)? -/
def trEnabled (s : State) (tag cl ty : Nat) : Bool :=
  let ctl := (peek s.obs (trKey tag cl 0)).toNat
  bit ctl 31 && (match trType ty with | some b => bit ctl b | none => true)

/-- The 32 bytes of a trace record (R407). -/
def trBytes (ty : Nat) (pc : VA) (gid payload : Word) (mask : Mask) (tick : Nat) : List Byte :=
  natBytes (pc.toNat / 4 * 256 + ty) 8 ++ natBytes gid.toNat 4 ++ natBytes payload.toNat 4 ++ natBytes mask.toNat 8
    ++ natBytes tick 8

/-- Store one record if it fits (R409). -/
def trStore (tag cl : Nat) (bs : List Byte) (s : State) : Option State :=
  let wk := trKey tag cl 0x18
  let size := (peek s.obs (trKey tag cl 0x10)).toNat
  let w := (peek s.obs wk).toNat
  let va := (peek s.obs (trKey tag cl 8)).toNat + w
  if size = 0 || (w + 32) % size = (peek s.obs (trKey tag cl 0x20)).toNat || vPoison s tag va 32 then none
  else match vWriteAll tag va bs s with
    | none => none
    | some s' => some { s' with obs := poke s'.obs wk (BitVec.ofNat 64 ((w + 32) % size)) }

/-- A dropped record (R408, R409). -/
def trDrop (tag cl core : Nat) (gid : Word) (s : State) : State :=
  let k := trKey tag cl 0x28
  let d := (peek s.obs k).toNat
  let l := 64 * tag + cl
  let s := { s with obs := poke s.obs k (BitVec.ofNat 64 (min (d + 1) (2 ^ 32 - 1))),
                    trLost := poke s.trLost l (peek s.trLost l + 1) }
  if gid = 0 then s else countEv tag core 14 1 s

/-- Write a trace record of a tag's event on a core, after the 0x0F record that drops ask for (R407–R410). -/
def trace (tag core ty : Nat) (pc : VA) (gid payload : Word) (mask : Mask) (s : State) : State :=
  let cl := clusterOf core
  let u := trTag s tag cl
  if !trEnabled s u cl ty then s
  else
    let lost := (peek s.trLost (64 * u + cl)).toNat
    let note : Option State :=
      if lost = 0 then some s
      else (trStore u cl (trBytes 0x0F 0 0 (BitVec.ofNat 32 (min lost (2 ^ 32 - 1))) 0 s.tick) s).map
        fun s' => { s' with trLost := poke s'.trLost (64 * u + cl) 0 }
    match note with
    | none => trDrop u cl core gid s
    | some s1 =>
      match trStore u cl (trBytes ty pc gid payload mask s.tick) s1 with
      | some s2 => s2
      | none => trDrop u cl core gid s1

/-- A trace record of the group in focus. -/
def traceMine (ty : Nat) (pc : VA) (payload : Word) (mask : Mask) (s : State) : State :=
  trace s.t.tag (coreOf s.t s.g) ty pc (myGid s) payload mask s

/-! ### Watchpoint hits -/

/-- One byte range that an access touches: lane, core of the port, whether global, seat, first byte, bytes. -/
structure Touch where
  lane : Nat
  core : Nat
  glob : Bool
  seat : Nat
  lo : Nat
  n : Nat
  deriving DecidableEq, Repr

/-- Does watchpoint w of a core watch an access of a kind (bit 0 read, 1 write, 2 atomic, 3 engine) (R414, R415)? -/
def wpSees (s : State) (tag : Nat) (x : Touch) (w kind : Nat) : Bool :=
  let k := obsKey tag (x.core / 12) (0x2400 + 0x800 * (x.core % 12) + 0x10 * w)
  let ctl := (peek s.obs (k + 8)).toNat
  let len := 2 ^ bits ctl 5 3
  let lo := (peek s.obs k).toNat / len * len
  bit ctl 31 && bit ctl kind && (bit ctl 4 == !x.glob) && (x.glob || bits ctl 8 4 == x.seat)
    && decide (x.lo < lo + len) && decide (lo < x.lo + x.n)

/-- A port performs a hit: it is counted, and its record of type 0x02 goes to the trace unit of the watchpoint's cluster,
where it stands in program order (R407, R410, R416, R424); the report is still to come. -/
def takeHit (h : WpHit) (s : State) : State :=
  let pay := h.wp + 2 ^ 4 * (h.core % 12) + 2 ^ 8 * h.kind
  countEv h.tag h.core 13 1
    (trace h.tag h.core 2 h.pc h.gid (BitVec.ofNat 32 pay) h.lanes { s with wpq := s.wpq ++ [h] })

/-- The hits of an access at one core's port (R415): the port reports each at a step of its own. Nothing matches while the
context is not resident (R406). Bytes that engines land in one tick under one watchpoint are one hit (log 75). -/
def wpQueue (tag core kind grp : Nat) (gid : Word) (pc : VA) (pos : Nat) (xs : List Touch) (s : State) : State :=
  let ys := xs.filter (·.core == core)
  let new := (List.range 8).filterMap fun w =>
    let zs := ys.filter fun x => wpSees s tag x w kind
    if zs = [] || !ctxOn s tag (core / 12) then none
    else some { tag := tag, core := core, wp := w, kind := 2 ^ kind, grp := grp, gid := gid, pc := pc,
                lanes := if grp = 0 then 0 else maskOf (fun l => zs.any (·.lane == l)), pos := pos, at_ := s.tick, runs := [] }
  (new.filter fun h => kind != 3 || !s.wpq.any fun q => { q with runs := [] } == h).foldl (fun s h => takeHit h s) s

/-- The distinct cores of a list of touches. -/
def touchCores (xs : List Touch) : List Nat :=
  xs.foldl (fun cs x => if cs.contains x.core then cs else cs ++ [x.core]) []

/-- Hits of an access by the group in focus. -/
def wpGroup (kind : Nat) (xs : List Touch) (s : State) : State :=
  if s.obs = [] then s
  else (touchCores xs).foldl (fun s c => wpQueue s.t.tag c kind s.g.uid (myGid s) s.g.pc s.g.runPos xs s) s

/-- Hits of a landing of an engine operation (R415); the record names no group (R407). -/
def wpEngine (tag : Nat) (xs : List Touch) (s : State) : State :=
  if s.obs = [] then s
  else (touchCores xs).foldl (fun s c => wpQueue tag c 3 0 0 0 0 xs s) s

/-- The touch of a scratchpad access: the core that holds the byte (R328). -/
def padTouch (t : Team) (lane off n : Nat) : Touch :=
  ⟨lane, if t.pair && 2 ^ 20 ≤ off then t.core + 1 else t.core, false, t.seat, off, n⟩

end Sys2Proof.Machine
end

