-- ==== Sys2Proof/Machine/Barrier.lean ====
section
/-!
DEFINITION. Barrier objects, phases and credits (spec/07 R204–R214, R220), the batch and lock objects (R210, R211),
range locks (R188) and monitors (R212, R263).
-/
namespace Sys2Proof.Machine

/-- The fields of a barrier object (R204). -/
structure BObj where
  xb : Nat
  cb : Nat
  xarr : Nat
  carr : Nat
  phase : Nat
  flags : Nat
  deriving DecidableEq, Repr

/-- The object at an offset of a team's scratchpad. -/
def getObj (t : Team) (off : Nat) : BObj :=
  { xb := padRead t off 4, cb := padRead t (off + 4) 4, xarr := padRead t (off + 8) 2, carr := padRead t (off + 10) 2,
    phase := padRead t (off + 12) 2, flags := padRead t (off + 14) 2 }

/-- The 16 bytes of an object, as a number. -/
def BObj.num (o : BObj) : Nat :=
  o.xb % 2 ^ 32 + 2 ^ 32 * (o.cb % 2 ^ 32) + 2 ^ 64 * (o.xarr % 2 ^ 16) + 2 ^ 80 * (o.carr % 2 ^ 16)
    + 2 ^ 96 * (o.phase % 2 ^ 16) + 2 ^ 112 * (o.flags % 2 ^ 16)

/-- Is FLAGS[15] set? -/
def BObj.valid (o : BObj) : Bool := bit o.flags 15

/-- The end of a phase (R205). -/
def BObj.advance (o : BObj) : BObj :=
  { o with phase := (o.phase + 1) % 2 ^ 16, carr := 0, cb := 0, xb := 0, flags := o.flags / 2 * 2 }

/-- Is the phase complete (R205)? -/
def BObj.complete (o : BObj) : Bool := o.carr == o.xarr && o.cb == o.xb

/-- Has phase q passed (R205)? -/
def passed (phase q : Nat) : Bool :=
  let d := (phase + 2 ^ 16 - q % 2 ^ 16) % 2 ^ 16
  decide (1 ≤ d) && decide (d ≤ 32768)

/-- A carrier's signature (R320): key obj holds that of the current phase, obj + 8 that of the last completed one. -/
def carrierOf (t : Team) (k : Nat) : BitVec 1024 :=
  match t.carr.find? (·.1 == k) with
  | some c => c.2
  | none => 0

/-- Set a carrier. -/
def setCarrier (k : Nat) (x : BitVec 1024) (t : Team) : Team :=
  { t with carr := (if x = 0 then [] else [(k, x)]) ++ t.carr.filter (·.1 != k) }

/-- Store an object, ending its phase when it is complete, and report whether it was (R205, R320). -/
def storeObj (off : Nat) (o : BObj) (sig : BitVec 1024) (t : Team) : Team :=
  let t := if sig = 0 then t else setCarrier off (carrierOf t off ||| sig) t
  if o.complete then
    setCarrier off 0 (setCarrier (off + 8) (carrierOf t off) (padWrite off 16 o.advance.num t))
  else padWrite off 16 o.num t

/-- End an object's current phase whatever the counts (R212, R263); an object that is not valid is left alone. -/
def forcePhase (team off : Nat) (s : State) : State :=
  updTeam team (fun t =>
    let o := getObj t off
    if o.valid then setCarrier off 0 (setCarrier (off + 8) (carrierOf t off) (padWrite off 16 o.advance.num t)) else t) s

/-- May a credit land on the object at an offset of a team: inside the objects, aligned, valid (R214, R220)? -/
def creditable (t : Team) (off : Nat) : Bool :=
  off % 16 == 0 && decide (off < 16 * t.desc.barriers) && t.lives && (getObj t off).valid

/-- A byte that lands, a completion, or a completed phase restarts the watchdog of a context (R343). -/
def touchWdog (tag : Nat) (s : State) : State := { s with wdog := poke s.wdog tag (BitVec.ofNat 64 s.tick) }

/-- Is a scratchpad held at its port: its team's copy into the loft runs, or its remap entry is freed (R337, R338)? -/
def padHeld (s : State) (team : Nat) : Bool :=
  match findTeam s team with
  | some t => t.resid == .saving ||
      ((t.resid == .saved || t.resid == .savedBarrier) && !(getSlice s t.slice).remap.contains team)
  | none => false

/-- A credit reaches its port: the bytes are credited to the object, which a watchpoint there sees (R208, R220, R415); one
that cannot land is dropped with event 0x08. -/
def landCredit (c : HeldCredit) (s : State) : State :=
  let lost (s : State) : State := emit c.tag ⟨0x08, 0, c.slice, c.gid, c.obj, c.bytes, some 4, none⟩ s
  match findTeam s c.team with
  | some t =>
    if creditable t c.obj then
      wpEngine t.tag [padTouch t 0 c.obj 16] (updTeam c.team (fun t =>
        let o := getObj t c.obj
        storeObj c.obj { o with cb := (o.cb + c.bytes) % 2 ^ 32 } c.sig t) s)
    else lost s
  | none => lost s

/-- Credit bytes to an object; while the port of the team's scratchpad holds accesses, the credit waits there (R337). -/
def credit (tag team off bytes : Nat) (gid : Word) (slice : Nat) (sig : BitVec 1024) (s : State) : State :=
  let c : HeldCredit := ⟨tag, team, off, bytes, gid, slice, sig⟩
  if padHeld s team then { s with heldCr := s.heldCr ++ [c] } else landCredit c s

/-- The credits that a port held land once it no longer does (R337, R338). -/
def landHeld (s : State) : State :=
  let now := s.heldCr.filter fun c => !padHeld s c.team
  now.foldl (fun s c => landCredit c s) { s with heldCr := s.heldCr.filter fun c => padHeld s c.team }

/-! ### The special objects (R210) -/

/-- `obj_batch`. -/
def objBatch : Nat := 0xFFFFFF00
/-- `obj_lock`. -/
def objLock : Nat := 0xFFFFFF10

/-- The least batch, by its count from 0, that still holds an operation of a group; n when none below n does (R211). -/
def firstBusy (s : State) (grp n : Nat) : Nat :=
  let of (bs : List (Nat × Nat)) (m : Nat) : Nat := bs.foldl (fun m b => if b.1 = grp ∧ b.2 < m then b.2 else m) m
  s.queries.foldl (fun m q => of q.batches m) (s.ops.foldl (fun m o => of o.batches m) n)

/-- How many of a group's closed batches are complete (R211). -/
def batchesDone (s : State) (x : Group) : Nat := firstBusy s x.uid x.closed

/-- Range-lock entries in use on a core: operations that hold one, and reservations (R188, R210). -/
def locksUsed (s : State) (core : Nat) : Nat :=
  (s.ops.filter fun o => o.core == core && o.lock != []).length
    + ((allGroups s).filter fun x => x.lockRes && x.stat != .ended &&
        (match findTeam s x.team with | some t => coreOf t x == core | none => false)).length

/-- The wait of the group in focus on a phase of an object, from now on (R209, R213). -/
def newWait (s : State) (obj phase : Nat) (sc : Scope) (role : Option Nat) (len : Nat) : Wait :=
  { obj := obj, phase := phase, scope := sc, role := role, len := len, since := s.tick,
    ext := obj != objBatch && obj != objLock && bit (getObj s.t obj).flags 0 }

/-- Does the wait of a group pass now (R205, R210, R211)? -/
def waitPassed (s : State) (x : Group) (w : Wait) : Bool :=
  if w.obj = objBatch then passed (batchesDone s x) w.phase
  else if w.obj = objLock then
    x.lockRes || (match findTeam s x.team with | some t => decide (locksUsed s (coreOf t x) < 64) | none => false)
  else match findTeam s x.team with
    | some t => passed (getObj t w.obj).phase w.phase
    | none => false

/-! ### Range locks -/

/-- Do two byte intervals meet? -/
def meets (a n b m : Nat) : Bool := decide (a < b + m) && decide (b < a + n)

/-- Does an access of a tag from a core to global bytes conflict with a registered range (R188)? -/
def lockGlobal (s : State) (tag core lo n : Nat) (wr : Bool) : Bool :=
  s.ops.any fun o => o.core == core && o.tag == tag &&
    o.lock.any fun r => r.glob && (r.dst || wr) && meets lo n r.lo (r.hi + 1 - r.lo)

/-- Does an access to a team's scratchpad bytes conflict (R188)? -/
def lockPad (s : State) (team lo n : Nat) (wr : Bool) : Bool :=
  s.ops.any fun o => o.lock.any fun r => !r.glob && r.team == team && (r.dst || wr) && meets lo n r.lo (r.hi + 1 - r.lo)

/-! ### Monitors -/

/-- Do two entries belong to one monitor? Monitors armed on one object merge into one (R263). -/
def Mon.same (a b : Mon) : Bool := a.team == b.team && a.obj == b.obj

/-- One entry for each of the monitors of a list. -/
def oneEach : List Mon → List Mon
  | [] => []
  | m :: ms => if (oneEach ms).any m.same then oneEach ms else m :: oneEach ms

/-- Monitors in use on a core (R212). -/
def monsUsed (s : State) (core : Nat) : Nat := (oneEach (s.mons.filter (·.core == core))).length

/-- The monitors with an entry that a test picks complete their objects' phases and disarm (R212, R263, R336); that restarts
the watchdog (R343). -/
def fireMons (p : Mon → Bool) (s : State) : State :=
  let hit := oneEach (s.mons.filter p)
  hit.foldl (fun s m => forcePhase m.team m.obj (match findTeam s m.team with | some t => touchWdog t.tag s | none => s))
    { s with mons := s.mons.filter fun m => !hit.any m.same }

/-- Arm a monitor: an object that has one keeps it, with what it now also waits for; otherwise it takes one of the core's
16, or the phase completes at once when none is free (R212, R263). -/
def arm (m : Mon) (s : State) : State :=
  if s.mons.contains m then s
  else if s.mons.any m.same || decide (monsUsed s m.core < 16) then { s with mons := s.mons ++ [m] }
  else forcePhase m.team m.obj s

end Sys2Proof.Machine
end

