-- ==== Sys2Proof/Machine/TaskOps.lean ====
section
/-!
DEFINITION. Pools and their slots (spec/13 R350, spec/09 R263), task records (R345–R347), queues, nodes and gathering
batches (R348, R356, R357), placement instances (R352, spec/19 R330) and successor counters (R353, R354, spec/09 R267).
-/
namespace Sys2Proof.Machine

/-- The submission with a unique number. -/
def findSub (s : State) (uid : Nat) : Option Sub := s.subs.find? (·.uid == uid)

/-- Change a submission. -/
def updSub (uid : Nat) (f : Sub → Sub) (s : State) : State :=
  { s with subs := s.subs.map fun x => if x.uid = uid then f x else x }

/-- The task or batch that a team runs. -/
def runOf (s : State) (team : Nat) : Option TaskRun := s.runs.find? (·.team == team)

/-- The submissions that what a team produces descends from (R362): its own, or those of every record that it runs. -/
def ancestors (s : State) (t : Team) : List Nat :=
  match t.origin, runOf s t.uid with
  | .launch, _ => [t.sub]
  | _, some r => (r.work.recs.flatMap (·.subs)).eraseDups
  | _, none => [t.sub]

/-! ### Pools -/

/-- State of slot n of a pool; none when free. -/
def Pool.slot (p : Pool) (n : Nat) : Option SlotSt := (p.used.find? (·.1 == n)).map (·.2)

/-- Set the state of a slot. -/
def Pool.setSlot (n : Nat) (st : Option SlotSt) (p : Pool) : Pool :=
  let rest := p.used.filter (·.1 != n)
  { p with used := match st with | none => rest | some x => (n, x) :: rest }

/-- Free slots of a pool. -/
def Pool.free (p : Pool) : List Nat := (List.range p.slots).filter fun n => p.slot n == none

/-- Pools of a tag. -/
def poolsOf (s : State) (tag : Nat) : List Pool :=
  match (getFn s tag).ctx with
  | some c => c.pools
  | none => []

/-- The pool and slot number that hold an address. -/
def slotAt (s : State) (tag va : Nat) : Option (Nat × Nat) :=
  let ps := poolsOf s tag
  (List.range ps.length).findSome? fun i =>
    match ps[i]? with
    | some p => if va % 64 = 0 ∧ p.base ≤ va ∧ va < p.base + 64 * p.slots then some (i, (va - p.base) / 64) else none
    | none => none

/-- State of the slot at an address. -/
def slotState (s : State) (tag va : Nat) : Option SlotSt :=
  match slotAt s tag va with
  | some (i, n) => match (poolsOf s tag)[i]? with
    | some p => p.slot n
    | none => none
  | none => none

/-- Set the state of the slot at an address. -/
def setSlotState (tag va : Nat) (st : Option SlotSt) (s : State) : State :=
  match slotAt s tag va with
  | some (i, n) => updCtx tag (fun c => { c with pools := modAt c.pools i (Pool.setSlot n st) }) s
  | none => s

/-- Zero the 64 bytes of a slot, where they translate. -/
def zeroSlot (tag va : Nat) (s : State) : State := (vWriteAll tag va (List.replicate 64 0) s).getD s

/-- Complete the space monitors of a pool (R263). -/
def fireSpace (tag pool : Nat) (s : State) : State :=
  fireMons (fun m => m.pool == some pool &&
    (match findTeam s m.team with | some t => t.tag == tag | none => false)) s

/-- Return a slot to its pool: zeroed, free, and the space monitors complete (R263, R268, R349). -/
def returnSlot (tag va : Nat) (s : State) : State :=
  match slotAt s tag va with
  | some (i, _) => fireSpace tag i (setSlotState tag va none (zeroSlot tag va s))
  | none => s

/-- Addresses of the slots that a team holds (R263, R264). -/
def slotsHeld (s : State) (tag team : Nat) : List Nat :=
  (poolsOf s tag).flatMap fun p => p.used.filterMap fun u => if u.2 = .held team then some (p.base + 64 * u.1) else none

/-- Take one free slot of a pool; which of them is open (R263). Its bytes read zero. -/
def takeSlot (tag pool : Nat) (st : SlotSt) (s : State) : Option (Nat × State) :=
  match (poolsOf s tag)[pool]? with
  | none => none
  | some p =>
    let fr := p.free
    if fr = [] then none
    else
      let n := fr.getD (Config.free .order [s.fresh] % fr.length) 0
      let va := p.base + 64 * n
      some (va, bump (setSlotState tag va (some st) (zeroSlot tag va s)))

/-! ### Placement instances -/

/-- The cores of an instance: first and count (R305, R352). -/
def Bind.cores (b : Bind) : Nat × Nat :=
  match b.level with
  | .grp | .team => (12 * b.slice + b.core, if b.pair then 2 else 1)
  | .clu => (12 * b.slice + b.core / 4 * 4, 4)
  | .slc => (12 * b.slice, 12)
  | .dev | .sys => (0, 192)

/-- Is the first instance inside the second? -/
def Bind.inside (a b : Bind) : Bool :=
  decide (b.cores.1 ≤ a.cores.1) && decide (a.cores.1 + a.cores.2 ≤ b.cores.1 + b.cores.2)

/-- The instance of a scope around a team, `.grp` taken as `.team` (R352). -/
def bindOf (t : Team) (core : Nat) (sc : Scope) : Bind :=
  let lv := if sc = .grp then .team else sc
  if lv = .team then ⟨t.pair, lv, t.core / 12, t.core % 12⟩ else ⟨false, lv, core / 12, core % 12⟩

/-- The narrowest instance that holds both (R357). -/
def Bind.join (a b : Bind) : Bind :=
  if a.inside b then b
  else if b.inside a then a
  else if (Bind.mk false .clu a.slice a.core).inside ⟨false, .clu, b.slice, b.core⟩ && a.level != .slc then
    ⟨false, .clu, a.slice, a.core⟩
  else if a.slice = b.slice then ⟨false, .slc, a.slice, a.core⟩
  else ⟨false, .dev, a.slice, a.core⟩

/-- Does a slice serve the context of a tag now (R330, R437)? -/
def sliceServes (s : State) (tag n : Nat) : Bool :=
  let x := getSlice s n
  x.up && ((x.st == 1 && x.owner == tag) ||
    (x.st == 2 && x.resident == tag && 2 ≤ tag && x.sharers.getLsbD (tag - 2) && x.ending == none))

/-- Is a cluster in the placement set of a tag (R330, R448)? One of a slice under a reset is in none (R474). -/
def clusterServes (s : State) (tag cl : Nat) : Bool :=
  match s.elastics.find? (·.cluster == cl) with
  | some e => !e.passing && (getSlice s (cl / 3)).st != 4 && (if e.lent then e.borrower == tag else sliceServes s tag (cl / 3))
  | none => sliceServes s tag (cl / 3)

/-- The cores of the placement set of a tag, in order (R330). -/
def placementCores (s : State) (tag : Nat) : List Nat := (List.range 192).filter fun c => clusterServes s tag (clusterOf c)

/-- The instance, widened until it holds a core of the placement set (R354). -/
def Bind.reachable (s : State) (tag : Nat) (b : Bind) : Bind :=
  let has (b : Bind) : Bool := (placementCores s tag).any fun c => decide (b.cores.1 ≤ c) && decide (c < b.cores.1 + b.cores.2)
  if has b then b
  else if has ⟨false, .clu, b.slice, b.core⟩ then ⟨false, .clu, b.slice, b.core⟩
  else if has ⟨false, .slc, b.slice, b.core⟩ then ⟨false, .slc, b.slice, b.core⟩
  else ⟨false, .dev, b.slice, b.core⟩

/-- Physical tiles of a core that teams and leases hold (R244); a saved team holds none (R336). -/
def tilesUsed (s : State) (core : Nat) : Nat :=
  (allTeams s).foldl (fun n t => if t.resid = .saved ∨ t.resid = .savedBarrier then n
    else n + (t.tiles.filter (·.core == core)).length) 0 +
    s.leases.foldl (fun n l => if l.core = core then n + l.count else n) 0

/-! ### Records -/

/-- Replace bytes of a block. -/
def putBytes (bs : List Byte) (off : Nat) (new : List Byte) : List Byte :=
  bs.take off ++ new ++ bs.drop (off + new.length)

/-- FLAGS of a record (R345). -/
def recFlags (r : List Byte) : Nat := field r 0x1C 4
/-- SUCC of a record. -/
def recSucc (r : List Byte) : Nat := field r 0x20 8
/-- QDS of a record. -/
def recQds (r : List Byte) : Nat := field r 0x30 8
/-- SSCOPE of a record. -/
def recScope (r : List Byte) : Scope := (Scope.ofCode (BitVec.ofNat 3 (recFlags r))).getD .sys

/-- The field checks of R346; `park` frees Q from the handle, `node` is a node's entry. -/
def recordOk (r : List Byte) (idx : Nat) (park : Bool) (node : Option Nat) : Bool :=
  let e := field r 0 8
  let f := recFlags r
  let q := recQds r
  (match node with
   | some n => e == 0 || e == n
   | none => e != 0 && e % 32 == 0)
  && bits f 3 1 == 0 && bits f 4 4 == 0 && bits f 8 4 == 0 && bits f 12 3 == 0 && bits f 15 1 == 0 && bits f 16 16 == 0
  && decide (bits f 0 3 < 6)
  && bits q 21 3 == 0 && bits q 16 3 == 0 && bits q 19 2 != 3
  && (park || bits q 0 16 == idx)
  && recSucc r % 16 == 0 && field r 0x38 8 == 0

/-- The deadline that DLINE names (R347). -/
def dlineTick (dline tick : Nat) : Nat :=
  let lo := dline % 2 ^ 40 * 16
  let base := tick / 2 ^ 44 * 2 ^ 44 + lo
  if base + 2 ^ 43 ≤ tick then base + 2 ^ 44
  else if tick + 2 ^ 43 ≤ base then base - 2 ^ 44
  else base

/-- Deadline and class of a record that enters the ready set at a tick (R347): its own, or those of the ancestor
submission, the first of several (log 101). -/
def recDue (s : State) (tick : Nat) (r : List Byte) (subs : List Nat) : DWord × Nat :=
  let q := recQds r
  if bits q 24 40 = 0 then
    match findSub s (subs.headD 0) with
    | some x => (x.deadline, bits x.flags 1 2)
    | none => (0, 0)
  else (BitVec.ofNat 64 (dlineTick (bits q 24 40) tick), bits q 19 2)

/-- The device's own fields of a record (R345): KIND, SCOPE and PROD. -/
def stampRec (r : List Byte) (kind : Nat) (sc : Scope) (gid gen : Word) : List Byte :=
  let r := putBytes r 0x1C (natBytes (recFlags r + 16 * kind) 4)
  let r := putBytes r 0x30 (natBytes (recQds r + 2 ^ 16 * sc.code.toNat) 8)
  putBytes r 0x38 (natBytes gid.toNat 4 ++ natBytes gen.toNat 4)

/-- A number no agent has yet (log 3). -/
def newUid (s : State) : Nat × State := (s.nextUid, { s with nextUid := s.nextUid + 1 })

/-- The order of R325 on deadlines: is the first strictly earlier? -/
def earlier (a b : DWord) : Bool := decide (a.toNat < b.toNat)

/-- The record of the earliest deadline, first in entry order (R357). -/
def leadRec : List TaskRec → Option TaskRec
  | [] => none
  | r :: rs => match leadRec rs with
    | none => some r
    | some x => if earlier x.deadline r.deadline then some x else some r

/-- Close the gathering batch of a node at a tick (R357): LINK and BCNT are written, and the batch enters the ready set
with the deadlines that DLINE names at that tick (R347). -/
def closeBatch (tag node tick : Nat) (s : State) : State :=
  match (getFn s tag).ctx with
  | none => s
  | some c => match c.nodes[node]? with
    | none => s
    | some nd =>
      if nd.gather = [] then s
      else
        let rs := nd.gather
        let n := rs.length
        let linked := (List.range n).filterMap fun i =>
          match rs[i]? with
          | none => none
          | some r =>
            let d : Int := match rs[i + 1]? with | some r' => ((r'.slot : Int) - r.slot) / 64 | none => 0
            let f := recFlags r.bytes + (BitVec.ofInt 16 d).toNat * 2 ^ 16 + (if i = 0 then (n - 1) * 2 ^ 12 else 0)
            let due := recDue s tick r.bytes r.subs
            some { r with bytes := putBytes r.bytes 0x1C (natBytes f 4), deadline := due.1, cls := due.2 }
        let lead := (leadRec linked).map fun r => (r.deadline, r.cls)
        let (u, s) := newUid s
        let s := linked.foldl (fun s r => (vWriteAll tag (r.slot + 0x1C) ((r.bytes.drop 0x1C).take 4) s).getD s) s
        let s := updCtx tag (fun c => { c with nodes := modAt c.nodes node fun x => { x with gather := [] } }) s
        { s with ready := s.ready ++ [{ uid := u, tag := tag, node := true, idx := node, recs := linked,
                                        deadline := (lead.getD (0, 0)).1, cls := (lead.getD (0, 0)).2, entry := tick }] }

/-- Close the gathering batch of a node if its TIMEOUT has come, at the tick at which it came (R357). -/
def closeDue (tag node : Nat) (s : State) : State :=
  match (getFn s tag).ctx with
  | none => s
  | some c => match c.nodes[node]? with
    | none => s
    | some nd => match nd.gather with
      | [] => s
      | r :: _ => if r.entry + nd.timeout ≤ s.tick then closeBatch tag node (r.entry + nd.timeout) s else s

/-- Close every batch whose TIMEOUT has come (R357). -/
def closeExpired (s : State) : State :=
  (List.range s.fns.length).foldl (fun s tag =>
    match (getFn s tag).ctx with
    | none => s
    | some c => (List.range c.nodes.length).foldl (fun s n => closeDue tag n s) s) s

/-- A record enters its queue, or its node's gathering batch, which closes on its count; a batch whose TIMEOUT has come is
closed before (R265, R357). -/
def enterRec (r : TaskRec) (s : State) : State :=
  let s := if r.node then closeDue r.tag r.idx s else s
  let s := setSlotState r.tag r.slot (some .submitted) s
  let s := (vWriteAll r.tag (r.slot + 0x1C) (((r.bytes.drop 0x1C).take 4)) s).getD s
  let s := (vWriteAll r.tag (r.slot + 0x30) (((r.bytes.drop 0x30).take 16)) s).getD s
  if r.node then
    let s := updCtx r.tag (fun c => { c with nodes := modAt c.nodes r.idx fun x => { x with gather := x.gather ++ [r] } }) s
    match (getFn s r.tag).ctx with
    | some c => match c.nodes[r.idx]? with
      | some nd => if nd.batch ≤ nd.gather.length then closeBatch r.tag r.idx s.tick s else s
      | none => s
    | none => s
  else
    let (u, s) := newUid s
    { s with ready := s.ready ++ [{ uid := u, tag := r.tag, node := false, idx := r.idx, recs := [r],
                                    deadline := r.deadline, cls := r.cls, entry := s.tick }] }

/-- Make and submit a record whose slot holds its 64 bytes (R265, R345). -/
def submitRec (tag slot : Nat) (raw : List Byte) (kind : Nat) (node : Bool) (idx : Nat) (sc : Scope) (b : Bind)
    (gid gen : Word) (subs : List Nat) (sig : BitVec 1024) (spawn : Option SpawnRef) (s : State) : State :=
  let due := recDue s s.tick raw subs
  enterRec { slot := slot, tag := tag, node := node, idx := idx, bytes := stampRec raw kind sc gid gen, bind := b,
             entry := s.tick, deadline := due.1, cls := due.2, subs := subs, sig := sig, spawn := spawn } s

/-! ### Successor counters -/

/-- The instance the counter's placement fields name (R353). DESIGN CHOICE (log 81): a LEVEL of 6 or 7, which is no scope
code of R74, counts as `.sys`, and the bits that R353 has zero are not looked at; the spec names no fault for either. -/
def counterBind (w : Nat) : Bind :=
  ⟨false, (Scope.ofCode (BitVec.ofNat 3 w)).getD .sys, bits w 12 4, bits w 8 4⟩

/-- The placement word after a signal (R354): narrowed to J, unchanged, or CONF set. -/
def counterMerge (w : Nat) (j : Bind) : Nat :=
  let i := counterBind w
  if j.inside i then
    w / 2 ^ 16 * 2 ^ 16 + j.slice * 2 ^ 12 + j.core * 2 ^ 8 + bits w 4 4 * 2 ^ 4 + bits w 3 1 * 2 ^ 3 + j.level.code.toNat
  else if i.inside j then w
  else if bit w 3 then w else w + 8

/-- Report a task fault (event 0x07). -/
def taskFault (tag slice : Nat) (gid : Word) (addr : Nat) (s : State) : State :=
  emit tag ⟨0x07, cTASK, slice, gid, addr, 0, some 4, none⟩ s

/-- Key of the signature that the signals of a parked record have handed it (R320), beside the lines of
State.lineSig. -/
def recSigKey (tag recVa : Nat) : Nat := 2 ^ 64 * (tag + 1) + recVa

/-- The signature that a parked record carries. -/
def recSig (s : State) (tag recVa : Nat) : BitVec 1024 :=
  match s.lineSig.find? (·.1 == recSigKey tag recVa) with
  | some e => e.2
  | none => 0

/-- Set it. -/
def setRecSig (tag recVa : Nat) (x : BitVec 1024) (s : State) : State :=
  let rest := s.lineSig.filter (·.1 != recSigKey tag recVa)
  { s with lineSig := if x = 0 then rest else (recSigKey tag recVa, x) :: rest }

/-- Submit the dependent record of a counter that reached zero (R354). -/
def fireCounter (tag recVa : Nat) (w : Nat) (gid gen : Word) (slice : Nat) (subs : List Nat) (sig : BitVec 1024) (s : State) : State :=
  match slotState s tag recVa, vBytes s tag recVa needR 64, (getFn s tag).ctx with
  | some .parked, .ok raw, some c =>
    let q := bits (recQds raw) 0 16
    let queuePool := match slotAt s tag recVa with
      | some (i, _) => (match (c.pools[i]?) with | some p => p.kind == .queue | none => false)
      | none => false
    if recordOk raw q true none && q < c.queues.length && queuePool && !vPoison s tag recVa 64 then
      let b := counterBind w
      let b' := b.reachable s tag
      let s := if b' != b || bit w 3 then emit tag ⟨0x0B, 0, slice, gid, recVa, 2, none, some 3⟩ s else s
      submitRec tag recVa raw 0 false q b.level b' gid gen subs sig none s
    else taskFault tag slice gid recVa s
  | _, _, _ => taskFault tag slice gid recVa s

/-- The step of `tsig` at the counter's home station (R267, R354), translated in a unit: a cause, or the state after. -/
def signal (tag unit va : Nat) (j : Bind) (gid gen : Word) (slice : Nat) (subs : List Nat) (sig : BitVec 1024)
    (s : State) : Except Nat State :=
  match xlate s tag unit va needRW with
  | .error k => .error k
  | .ok x =>
    if gPoison s x 0 then .error cECC
    else
      let count := gRead s x 4
      if count = 0 then .error cTASK
      else
        let w := counterMerge (gRead s { x with addr := x.addr + 4 } 4) j
        let recVa := gRead s { x with addr := x.addr + 8 } 8
        let s := l1Drop unit (fun l => l.line == x.line)
          (tlbPut x.ent (gWrite { x with addr := x.addr + 4 } w 4 (gWrite x (count - 1) 4 s)))
        let sig := recSig s tag recVa ||| sig
        .ok (if count = 1 then fireCounter tag recVa w gid gen slice subs sig (setRecSig tag recVa 0 s)
             else setRecSig tag recVa sig s)

end Sys2Proof.Machine
end

