-- ==== Sys2Proof/Machine/Ops.lean ====
section
/-!
DEFINITION. The shared operations of every instruction: fetch and pad words, path switching (spec/01 R18–R24), runs
(R25–R30), the end of a group (R23, spec/08 R236, spec/13 R349), TAKING AN EXCEPTION and returning from one
(spec/01 R31–R40), and the issue of an instruction with its checks (spec/03 R73).
-/
namespace Sys2Proof.Machine

/-! ### The program counter -/

/-- Does a translated fetch block read now as it did when the submission began? -/
def sameBlock (s : State) (x : Xl) : Bool :=
  x.target == 0 && (List.range 32).all fun i =>
    let a := x.addr / 32 * 32 + i
    peek s.mem.hbm a == peek s.t.cn.mem.hbm a && peek s.mem.key a == peek s.t.cn.mem.key a

/-- One instruction word (R299, R303), with its poison. A block that has changed since the submission began is fetched as it
was then or as it is now, the whole of it (R48). -/
def fetchWord (s : State) (va : VA) : Except Nat (Word × Bool) :=
  match xlate s s.t.tag (coreOf s.t s.g) va.toNat needX with
  | .error k => .error k
  | .ok x =>
    if sameBlock s x then .ok (BitVec.ofNat 32 (gRead s x 4), gPoison s x 0)
    else
      let s := if Config.flip .unstated [s.fresh, s.g.uid, va.toNat / 32] then s.asOf s.t.cn else s
      .ok (BitVec.ofNat 32 (gRead s x 4), gPoison s x 0)

/-- The first address at or after va that holds no pad word (R44); fuel counts the words looked at. -/
def skipPads (s : State) : Nat → VA → VA
  | 0, va => va
  | n + 1, va =>
    match fetchWord s va with
    | .ok (w, p) => if w = padWord && !p then skipPads s n (va + 4) else va
    | .error _ => va

/-- The PC that setting it to va leaves (R44). -/
def normPc (s : State) (va : VA) : VA := skipPads s (2 ^ 54) va

/-- The end of a run: its latches are discarded (R27, R29). -/
def Group.endRun (x : Group) : Group := { x with runPos := 0, lat := [], latm := [], runReads := [] }

/-- Replace the divergence stack. -/
def Group.setStk (stk : List DivEntry) (x : Group) : Group := x.onBank fun b => { b with stk := stk }

/-- Is the other path of an entry complete: marked so, or without lanes (R19, R21)? -/
def Other.complete : Other → Bool
  | .fresh _ m => m == 0
  | .yielded _ m => m == 0
  | .waiting _ m _ => m == 0
  | .done => true

/-- Pop the top entry: EM := merge mask ∧ live lanes, PC at the join (R19). -/
def Group.pop (join : VA) (e : DivEntry) (rest : List DivEntry) (x : Group) : Group :=
  ({ x with em := e.merge &&& x.live, pc := join }.setStk rest).endRun

/-- Run the other path of the top entry from pc under em; what becomes of the current path is `leave` (R18, R21). -/
def Group.cross (pc : VA) (em : Mask) (leave : Other) (e : DivEntry) (rest : List DivEntry) (x : Group) : Group :=
  ({ x with pc := pc, em := em }.setStk ({ e with onTaken := !e.onTaken, other := leave } :: rest)).endRun

/-- The comparison of R19 and R123 after the PC was set, repeated; with `fin`, a path without lanes is complete (R23). A join
counts as the first address at or after it that holds no pad word (R44, R58), also where its page was absent when the entry
was made. -/
def settleGo (nrm : VA → VA) (fin : Bool) : Nat → Group → Group
  | 0, x => x
  | n + 1, x =>
    match x.bank.stk with
    | [] => if fin && x.em == 0 && x.live != 0 then { x with em := x.live }.endRun else x
    | e :: rest =>
      if x.pc = e.join || x.pc = nrm e.join || (fin && x.em == 0) then
        if e.other.complete then settleGo nrm fin n (x.pop (nrm e.join) e rest)
        else match e.other with
          | .fresh pc em => settleGo nrm fin n (x.cross (nrm pc) em .done e rest)
          | .yielded pc em => settleGo nrm fin n (x.cross pc em .done e rest)
          | .waiting pc em w => { x.cross pc em .done e rest with stat := .waiting w }
          | .done => x
      else x

/-- Every comparison that setting the PC asks for (R19, R123). -/
def settle (fin : Bool) (s : State) : State :=
  { s with g := settleGo (normPc s) fin (2 * s.g.bank.stk.length + 2) s.g }

/-- Transfer the PC: a new run starts there (R44, R124). -/
def goto (va : VA) (s : State) : State :=
  settle false { s with g := { s.g with pc := normPc s va }.endRun }

/-! ### Suspension (R21) -/

/-- The window swap of `role` (R269): registers beyond the smaller of the two windows are discarded and read zero. -/
def Group.swapRole (t : Team) (r : Nat) (x : Group) : Group :=
  let n := Nat.min (windowOf t x) (t.desc.roles.getD r ⟨0, 0⟩).win
  { x with role := r, regs := { x.regs with v := x.regs.v.filter (fun c => decide (c.1 < 64 * n)),
                                            vm := x.regs.vm.filter (fun c => decide (c.1 < 64 * n)) } }

/-- A path stopped in a wait issues its `waitp` or `role` again when it resumes (R209, R270). -/
def Group.reissue (x : Group) : Group :=
  match x.stat with
  | .waiting _ => { x with stat := .running }
  | _ => x

/-- Hold the lock reservation or receive the signature that the completion of a wait gives, and swap the role of
`role` step 3 (R209, R210, R269, R320). -/
def finishWait (w : Wait) (s : State) : State :=
  let sig : BitVec 1024 :=
    if w.obj = objLock then 0
    else if w.obj = objBatch then carrierOf s.t (batchKey s.g.uid)
    else if (getObj s.t w.obj).phase = (w.phase + 1) % 2 ^ 16 then carrierOf s.t (w.obj + 8) else BitVec.allOnes 1024
  let s := if w.obj = objLock then s else receive sig s
  let x := s.g
  let x := { x with lockRes := x.lockRes || w.obj == objLock }
  match w.role with
  | some r => { s with g := Group.swapRole s.t r x }
  | none => { s with g := x }

/-- Where the group goes when its wait completes: past the instruction, or to the entry of the new role (R209, R269). The end
of a wait that was not external is kept for the timer of R344. -/
def afterWait (w : Wait) (s : State) : State :=
  let s := if w.ext || peek s.wext s.t.tag == BitVec.allOnes 64 then s
    else { s with wext := poke s.wext s.t.tag (BitVec.ofNat 64 s.tick) }
  let dest := match w.role with
    | some r => (s.t.desc.roles.getD r ⟨0, 0⟩).entry
    | none => s.g.pc + BitVec.ofNat 56 w.len
  goto dest (finishWait w { s with g := { s.g with stat := .running } })

/-- Resume a path whose phase has passed, if the group waits and one has: the one that suspended first (R21). -/
def wake (s : State) : Option State :=
  match s.g.stat with
  | .waiting w =>
    match s.g.bank.stk with
    | e :: rest =>
      match e.other with
      | .waiting pc em w' =>
        if em ≠ 0 ∧ waitPassed s s.g w' then
          some (afterWait w' { s with g := s.g.cross pc em (.waiting s.g.pc s.g.em w) e rest })
        else if waitPassed s s.g w then some (afterWait w s) else none
      | _ => if waitPassed s s.g w then some (afterWait w s) else none
    | [] => if waitPassed s s.g w then some (afterWait w s) else none
  | _ => none

/-- Suspend the current path in `waitp` on an incomplete phase (R21, R209). -/
def suspendWait (w : Wait) (s : State) : State :=
  let x := s.g
  let stay : State := { s with g := { x.endRun with stat := .waiting w } }
  match x.bank.stk with
  | [] => stay
  | e :: rest =>
    if e.other.complete then stay
    else match e.other with
      | .fresh pc em => settle false { s with g := x.cross (normPc s pc) em (.waiting x.pc x.em w) e rest }
      | .yielded pc em => settle false { s with g := x.cross pc em (.waiting x.pc x.em w) e rest }
      | .waiting pc em w' =>
        if waitPassed s x w' then afterWait w' { s with g := x.cross pc em (.waiting x.pc x.em w) e rest } else stay
      | .done => stay

/-- Suspend the current path by `yield`, whose next instruction is at pc (R21, R133). -/
def suspendYield (pc : VA) (s : State) : State :=
  let x := { s.g with yielded := true }
  let on : State := settle false { s with g := { x with pc := pc }.endRun }
  match x.bank.stk with
  | [] => on
  | e :: rest =>
    if e.other.complete || pc = e.join || pc = normPc s e.join then on
    else match e.other with
      | .fresh p em => settle false { s with g := x.cross (normPc s p) em (.yielded pc x.em) e rest }
      | .yielded p em => settle false { s with g := x.cross p em (.yielded pc x.em) e rest }
      | .waiting p em w =>
        if waitPassed s x w then afterWait w { s with g := x.cross p em (.yielded pc x.em) e rest } else on
      | .done => on

/-! ### The end of groups, tasks and teams -/

/-- Has the group ended, or stopped on the error path? -/
def Group.over (x : Group) : Bool := x.stat == .ended || x.stat == .stopped

/-- Does a gang value list a group (R232)? -/
def gangLists (gang : Word) (gidx : Nat) : Bool :=
  let v := gang.toNat
  ((List.range (bits v 30 2 + 1)).any fun i => bits v (5 * i) 5 == gidx) || bits v 20 5 == gidx || bits v 25 5 == gidx

/-- A held group back at its `mma`, where a fault of the rendezvous lands (R33, R235, R236). -/
def Group.unhold (x : Group) : Group :=
  match x.arrive with
  | some a => { x with stat := .running, arrive := none, pc := a.at_, runPos := a.pos, runStart := a.run }
  | none => { x with stat := .running }

/-- Break the latches that list a group that has not arrived there (R236), but not `keep`: the held groups come loose
and their numbers are returned. -/
def breakLatches (gidx : Nat) (keep : Option Word) (s : State) : State × List Nat :=
  let bad (l : Latch) : Bool := gangLists l.gang gidx && !l.arrived.contains gidx && keep != some l.gang
  let hit := s.t.latches.filter bad
  let us := (groupsOf s s.t.uid).filter fun x => hit.any fun l => l.arrived.contains x.gidx
  let us := us.map (·.uid)
  (mapGroups (fun x => if us.contains x.uid then x.unhold else x)
    { s with t := { s.t with latches := s.t.latches.filter (fun l => !bad l) } }, us)

/-- The end of a task (R349): the spawn credits of R268, then the end signals in LINK order. -/
def taskEnd (s : State) : State :=
  match runOf s s.t.uid with
  | none => s
  | some r =>
    let t := s.t
    let gid := myGid s
    let core := coreOf t s.g
    let gen := peek s.gens (64 * t.core + t.seat)
    let sig := s.g.sig
    let s := { s with g := { s.g with unack := 0, sig := 0 } }
    let s := r.work.recs.foldl (fun s x =>
      match x.spawn with
      | some p => match p.obj with
        | some o => credit t.tag p.team o p.bytes gid t.slice sig s
        | none => emit t.tag ⟨0x08, 0, t.slice, gid, 0, p.bytes, some 4, none⟩ s
      | none => s) s
    r.work.recs.foldl (fun s x =>
      let va := recSucc x.bytes
      if va = 0 then s
      else match signal t.tag engUnit va (bindOf t core (recScope x.bytes)) gid gen t.slice (r.work.recs.flatMap (·.subs)).eraseDups sig s with
        | .ok s' => s'
        | .error _ => taskFault t.tag t.slice gid va s) s

/-- The end of a team (R322, R264, R244, R338): its slots, seat, monitors and remap entry are given back; its tiles are
returned by a step of their own. -/
def teamEnd (uid : Nat) (s : State) : State :=
  match findTeam s uid with
  | none => s
  | some t =>
    let bumpGen (c : Nat) (m : Cells 32) : Cells 32 := poke m (64 * c + t.seat) (peek m (64 * c + t.seat) + 1)
    let gens := bumpGen t.core s.gens
    let gens := if t.pair then bumpGen (t.core + 1) gens else gens
    let s := updTeam uid (fun t => { t with resid := if t.tiles = [] then .gone else .drained, latches := [] }) s
    let s := { s with gens := gens, mons := s.mons.filter (·.team != uid) }
    let s := (slotsHeld s t.tag uid).foldl (fun s va => returnSlot t.tag va s) s
    let s := { s with slices := s.slices.map fun x => { x with remap := x.remap.filter (· != uid) } }
    match t.origin with
    | .launch => updSub t.sub (fun x => { x with live := x.live - 1 }) s
    | _ => s

/-- Does the team have an asynchronous operation in flight (R132, R268)? -/
def teamBusy (s : State) (uid : Nat) : Bool :=
  s.ops.any (fun o => o.team == uid) || s.queries.any fun q => q.team == uid && q.live && q.st == 0

/-- A team whose groups have all ended ends when none of its operations is in flight (R132). -/
def teamQuiet (uid : Nat) (s : State) : State :=
  match findTeam s uid with
  | none => s
  | some t =>
    if !t.lives || !(groupsOf s uid).all Group.over then s
    else if teamBusy s uid then updTeam uid (fun t => { t with resid := .ending }) s
    else teamEnd uid s

/-- The end of the group in focus, at an instruction: no lane is live any more (R23, R132, R268). Returns the groups whose
latch broke. -/
def endGroup (st : GStat) (pc : VA) (s : State) : State × List Nat :=
  let s := onG (fun x => { x with stat := st, live := 0, lockRes := false, lockLost := false, arrive := none, stop := none }) s
  let s := traceMine 9 pc 0 0 s
  let (s, us) := breakLatches s.g.gidx none s
  let s := taskEnd s
  (teamQuiet s.t.uid s, us)

/-! ### Taking an exception -/

/-- A synchronous fault as an instruction raises it: cause, failing specifiers, lane, the code of `trap`, the address and
kind of a faulting access, and where it lands when that is not the instruction (R33). -/
structure FaultInfo where
  cause : Nat
  opf : BitVec 4 := 0
  lane : Nat := 0
  code : Nat := 0
  va : Nat := 0
  write : Bool := false
  fetch : Bool := false
  land : Option (VA × Nat) := none
  deriving DecidableEq, Repr

/-- SR_TINFO of a fault (R35). -/
def tinfoOf (f : FaultInfo) (inh : Bool) (pos : Nat) : Word :=
  BitVec.ofNat 32 (f.opf.toNat * 2 ^ 16 + f.lane % 64 * 2 ^ 8 + (if inh then 2 ^ 7 else 0) + pos % 4)

/-- SR_TCAUSE of a fault (R143). -/
def tcauseOf (f : FaultInfo) : Word :=
  BitVec.ofNat 32 ((if f.cause = cSWTRAP then f.code % 2 ^ 16 * 2 ^ 16 else 0) + f.cause)

/-- The start of the current run. -/
def Group.startOfRun (x : Group) : VA := if x.runPos = 0 then x.pc else x.runStart

/-- SR_TPC that a fault records (R33): the run start, or where it lands; bits [1:0] read zero (R34). -/
def faultPc (x : Group) (f : FaultInfo) : VA :=
  let pc := match f.land with | some l => l.1 | none => x.startOfRun
  pc &&& ~~~3

/-- The position that SR_TINFO.OFF records (R33). -/
def faultPos (x : Group) (f : FaultInfo) : Nat := match f.land with | some l => l.2 | none => x.runPos

/-- Write SR_TPC, SR_TEM, SR_TCAUSE and SR_TINFO (R33, R36). -/
def recordFault (f : FaultInfo) (x : Group) : Group :=
  { x with tpc := faultPc x f, tem := x.em &&& x.all, tcause := tcauseOf f,
           tinfo := tinfoOf f x.shadowed (faultPos x f) }

/-- What an asynchronous stop records where it lands (R33): the next run start, offset 0 and EM; SR_TCAUSE changes only for
a stop that has a cause code. In a handler the registers keep what its return needs (R38, R39), and a group parked on
PAGE_FAULT what its fault recorded (log 86). -/
def Group.recordStop (x : Group) : Group :=
  if x.shadowed || x.stat == .parked then x else { x with tpc := x.pc &&& ~~~3, tem := x.em &&& x.all, tinfo := 0 }

/-- The stop that stays pending when a debug halt lands: one that is no halt or step. -/
def keptStop (o : Option StopKind) : Option StopKind :=
  match o with
  | some .preempt => o
  | some .external => o
  | some .watchdog => o
  | _ => none

/-- The stop of a step command once its run has begun (R421). -/
def begun (o : Option StopKind) : Option StopKind :=
  match o with
  | some .step => some .stepped
  | some .stepWait => some .steppedWait
  | o => o

/-- A debug halt lands in a group (R417, R418): one that hit a watchpoint of ACTION 1 records WATCHPOINT in SR_TCAUSE. -/
def Group.halt (x : Group) : Group :=
  { x.recordStop with
    halted := true, stop := keptStop x.stop, hits := x.hits.filter (·.2 != 1),
    tcause := if x.hits.any (·.2 == 1) then BitVec.ofNat 32 cWATCH else x.tcause }

/-- Enter a shadow context at a handler (R36, R40): fresh registers, EM from SR_TEM, a new run. -/
def enterShadow (k : Handler) (entry : VA) (s : State) : State :=
  let stop := if k = .trap then begun s.g.stop else s.g.stop
  { s with g := { s.g with sh := some ⟨k, Bank.empty⟩, em := s.g.tem, pc := normPc s entry, stat := .running,
                           stop := stop }.endRun }

/-- Is the cluster of a core halted for a tag (R419)? -/
def clusterHalted (s : State) (tag cl : Nat) : Bool :=
  bit (peek s.obs (obsKey tag (cl / 3) (0x8004 + 0x40 * (cl % 3)))).toNat 31

/-- Is a debugger attached (R419)? -/
def attached (s : State) (tag cl : Nat) : Bool :=
  bit (peek s.obs (obsKey tag (cl / 3) (0x8000 + 0x40 * (cl % 3)))).toNat 0

/-- Is a group in the cluster, for a tag, and running? -/
def inCluster (s : State) (tag cl : Nat) (x : Group) : Bool :=
  x.uid != 0 && !x.over && (match findTeam s x.team with
    | some t => t.tag == tag && clusterOf (coreOf t x) == cl && t.resid == .resident
    | none => false)

/-- Stop-the-cluster (R417, R418): cause and trigger tick; a group in `waitp`, held or parked stays where it is and
writes its record at once, the others stop at the first run boundary after the broadcast reaches their core. `ran` lists the
groups that began runs since the trigger, once for each (R420). -/
def haltCluster (tag cl cause at_ : Nat) (ran : List Nat) (s : State) : State :=
  if clusterHalted s tag cl then s
  else
    let k := obsKey tag (cl / 3) (0x8000 + 0x40 * (cl % 3))
    let s := { s with obs := poke (poke s.obs (k + 4) (BitVec.ofNat 64 (2 ^ 31 + cause))) (k + 8) (BitVec.ofNat 64 at_) }
    let still (x : Group) : Bool := match x.stat with
      | .running => false
      | .port => false
      | _ => true
    let hit := (allGroups s).filter (inCluster s tag cl)
    let s := mapGroups (fun x =>
      if hit.any (fun y => y.uid == x.uid) then
        if still x then { x.halt with skid := 0 }
        else { x with stop := some .cluster, skid := Nat.min (ran.filter (· == x.uid)).length 65535 }
      else x) s
    hit.foldl (fun s x =>
      if still x then
        match findTeam s x.team with
        | some t => trace tag (coreOf t x) 3 x.pc (x.gidIn s) 0 x.em s
        | none => s
      else s) s

/-- Stop the group in focus on the slice's error path (R36, R38): the event, the trace record, and its end. -/
def stopError (f : FaultInfo) (s : State) : State × List Nat :=
  let pc := s.g.pc
  let s := if f.cause = cECC then s
    else emit s.t.tag ⟨0x01, f.cause, s.t.slice, myGid s, s.g.tpc.toNat, s.g.tinfo.toNat, some 0, none⟩ s
  let s := traceMine 1 s.g.tpc s.g.tcause s.g.tem s
  endGroup .stopped pc s

/-- Park on PAGE_FAULT (R33, R38, R124, R302): event 0x02; the run re-executes after resolution. In a handler the registers
of the interrupted context stay until a cancel, since no handler is entered and its return needs them (log 86). -/
def park (f : FaultInfo) (s : State) : State :=
  let x := s.g
  let info := tinfoOf f x.shadowed x.runPos
  let pc := x.startOfRun
  let x := if x.shadowed then x else recordFault f x
  let s := { s with g := { x with stat := .parked, pc := pc, faultVa := BitVec.ofNat 56 f.va, parkInfo := info,
                                  again := some pc, arrive := none }.endRun }
  emit s.t.tag ⟨0x02, cPAGE, s.t.slice, myGid s, f.va,
    f.lane % 64 + (if f.write then 2 ^ 8 else 0) + (if f.fetch then 2 ^ 9 else 0), none, none⟩ s

/-- One group takes a synchronous fault (R31–R38): PAGE_FAULT parks; the trap handler is entered if the launch gives one
and the group is not in a shadow context; a debugger that is attached takes BREAKPOINT and WATCHPOINT; otherwise the
group stops on the error path. Event 0x03 goes with every ECC_UE (R472). The one issue that `mhret` exempts from PC match
entries is over (R40, R412). Returns the groups whose latch broke. -/
def takeFaultOne (f : FaultInfo) (s : State) : State × List Nat :=
  let s := bump (onG (fun x => { x with noMatch := false }) s)
  let s := if f.cause = cECC then
      emit s.t.tag ⟨0x03, cECC, s.t.slice, myGid s, f.va / 128 * 128, f.lane % 64, some 1, none⟩ s
    else s
  let s := if f.cause = cLOCK then countMine 9 1 s else s
  if f.cause = cPAGE then (park f s, [])
  else
    let inh := s.g.shadowed
    let s := onG (recordFault f) s
    if s.t.desc.handler ≠ 0 ∧ !inh then
      let s := onG (fun x => { x with again := if f.land.isSome then none else some x.tpc }) s
      (enterShadow .trap s.t.desc.handler (traceMine 1 s.g.tpc s.g.tcause s.g.tem s), [])
    else
      let cl := clusterOf (coreOf s.t s.g)
      if !inh && (f.cause = cBRK || f.cause = cWATCH) && attached s s.t.tag cl then
        let stepped := begun s.g.stop == some .stepped
        let s := onG (fun x => { x with pc := x.tpc }.endRun) s
        let s := haltCluster s.t.tag cl f.cause s.tick [] s
        let s := onG (fun x => { x with halted := true, stop := keptStop x.stop, skid := if stepped then x.skid else 0 }) s
        (if stepped then traceMine 4 s.g.pc 1 s.g.em s else traceMine 3 s.g.pc 0 s.g.em s, [])
      else stopError f s

/-- Every group whose latch broke raises GANG_BROKEN at its `mma` (R236). -/
def breakAll : Nat → List Nat → State → State
  | 0, _, s => s
  | _ + 1, [], s => s
  | n + 1, u :: us, s =>
    let r := takeFaultOne { cause := cGANG } (focus u s)
    breakAll n (us ++ r.2) r.1

/-- What follows when latches broke: the held groups fault, and the focus returns. -/
def withBroken (me : Nat) (r : State × List Nat) : State :=
  if r.2 = [] then r.1 else focus me (breakAll (r.1.gs.length + 1) r.2 r.1)

/-- THE EXCEPTION: the group in focus takes a synchronous fault (R31–R38, R236). -/
def takeFault (f : FaultInfo) (s : State) : State := withBroken s.g.uid (takeFaultOne f s)

/-- Leave the shadow context (R39, R40): EM := SR_TEM ∧ live lanes, PC := SR_TPC, the shadow registers are discarded.
DESIGN CHOICE (log 87): where the handler's `exit` has ended every lane of SR_TEM while others live, the interrupted path
goes on with EM empty; the spec does not say whether it is then complete. -/
def leaveShadow (suppress : Bool) (s : State) : State :=
  let x := s.g
  goto x.tpc { s with g := { x with sh := none, em := x.tem &&& x.live, noMatch := suppress } }

/-! ### Issue -/

/-- What the body of an instruction answers: the next state, or a synchronous fault. -/
inductive Act where
  | ok (s : State)
  | fault (f : FaultInfo)
  deriving Repr

/-- Does a field fail step 4 of R73 in the group's present state: window and operand file (R12), latches (R27), the
shadow context (R37)? -/
def fieldBad (t : Team) (x : Group) (e : Enc) (f : FieldUse) : Bool :=
  match f.operand e with
  | none => false
  | some (o, n, d) =>
    match o with
    | .v r => (!(x.shadowed && r.toNat < 16) && windowOf t x < r.toNat + n) ||
        (x.shadowed && d != .rd && 16 < r.toNat + n)
    | .g r => x.shadowed && d != .rd && 8 < r.toNat + n
    | .o _ => !t.desc.ofile || x.shadowed
    | .h k => x.runPos ≤ k.toNat
    | _ => false

/-- The failing specifiers that depend on the state (R12, R27, R28, R37). -/
def dynOpf (t : Team) (x : Group) (e : Enc) (r : Row) : BitVec 4 :=
  let bad (f : FieldUse) : Bool := fieldBad t x e f ||
    (writeKeys e r x).any fun k => k.2 == f.bit && x.runReads.contains k.1
  (fieldsOf e r).foldl (fun m f => if bad f then m ||| BitVec.twoPow 4 f.bit else m) 0

/-- The checks at issue, in the order of R73, then ECC_UE (R189): what the instruction raises before it does anything. -/
def issueFault (e : Enc) (s : State) : Option FaultInfo :=
  let x := s.g
  match rowOf e.w.opc with
  | none => some { cause := cILLOPC }
  | some r =>
    if !e.subOk r then some { cause := cILLOPC }
    else if !e.encOk r || (x.runPos == 3 && stays e) then some { cause := cILLENC }
    else if x.shadowed && !r.shadow then some { cause := cILLOPERAND }
    else
      let opf := e.staticOpf r ||| e.roleOpf ||| dynOpf s.t x e r
      if opf ≠ 0 then some { cause := cILLOPERAND, opf := opf }
      else match markFault x e r with
        | some l => some { cause := cECC, lane := l }
        | none => none

/-- Retire the pending results that the instruction is held on (R155, R190); queued results retire in issue order. -/
def retireFor (ks : List Nat) (ps : List Pend) : List Pend :=
  let hit (p : Pend) : Bool := p.regs.any ks.contains
  let sfu := (ps.filter (·.sfu))
  let k := ((List.range sfu.length).filter fun i => (sfu.drop i).any hit).length
  ps.filter (fun p => !p.sfu && !hit p) ++ sfu.drop k

/-- A latch goes with its run: a result still pending no longer holds it (R27). -/
def Pend.unlatched (p : Pend) : Pend := { p with regs := p.regs.filter (· < latchKey 0) }

/-- A run begins in a cluster while a hit there is still to be reported (R420). -/
def noteRun (tag cl uid : Nat) (h : WpHit) : WpHit :=
  if h.tag = tag ∧ clusterOf h.core = cl then { h with runs := h.runs ++ [uid] } else h

/-- The cached translations after the fetch at the PC (R301). -/
def fetchTlb (s : State) : List TlbEnt :=
  match xlate s s.t.tag (coreOf s.t s.g) s.g.pc.toNat needX with
  | .ok x => (tlbPut x.ent s).tlb
  | .error _ => s.tlb

/-- The registers and latches that an instruction reads or writes, by key: it is held on their pending results. -/
def issueKeys (e : Enc) (x : Group) : List Nat :=
  match rowOf e.w.opc with
  | some r => readKeys e r ++ (writeKeys e r x).map (·.1)
  | none => []

/-- The group at the start of an instruction: holds end, and at position 0 a run starts (R25, R155, R190, R283). -/
def Group.begin (e : Enc) (x : Group) : Group :=
  let first := x.runPos == 0
  { x with pend := retireFor (issueKeys e x) (if first then x.pend.map Pend.unlatched else x.pend),
           runStart := if first then x.pc else x.runStart, noMatch := false, yielded := false,
           again := if first && !x.shadowed then none else x.again,
           skid := if first && x.stop == some .cluster then Nat.min (x.skid + 1) 65535 else x.skid,
           stop := if first then begun x.stop else x.stop }

/-- The watchdogs that an issue restarts, the hits that note its run, the translation of its fetch (R301, R343, R344, R420). -/
def State.begin (e : Enc) (s : State) : State :=
  let now := BitVec.ofNat 64 s.tick
  { s with g := s.g.begin e, fresh := s.fresh + 1, wdog := poke s.wdog s.t.tag now,
           wext := if peek s.wext s.t.tag = BitVec.allOnes 64 then poke s.wext s.t.tag now else s.wext,
           wpq := if s.g.runPos = 0 then s.wpq.map (noteRun s.t.tag (clusterOf (coreOf s.t s.g)) s.g.uid) else s.wpq,
           tlb := fetchTlb s }

/-- Core events 0 to 2 (R424): an instruction, a run, a run issued again. -/
def countIssue (first re : Bool) (s : State) : State :=
  let s := countMine 0 1 s
  let s := if first then countMine 1 1 s else s
  if re then countMine 2 1 s else s

/-- The start of an instruction. -/
def beginIssue (e : Enc) (s : State) : State :=
  let first := s.g.runPos == 0
  countIssue first (first && !s.g.shadowed && s.g.again == some s.g.pc) (s.begin e)

/-- The address after an instruction, normalised (R44, R122). -/
def nextPc (e : Enc) (s : State) : VA := normPc s (s.g.pc + BitVec.ofNat 56 e.f.bytes)

/-- Sequential fetch after an instruction (R19, R29, R44): the next position of the run, or a new run. -/
def seqNext (e : Enc) (s : State) : State :=
  let x := s.g
  let pc := normPc s (x.pc + BitVec.ofNat 56 e.f.bytes)
  let rd := match rowOf e.w.opc with
    | some r => readKeys e r
    | none => []
  let x := { x with pc := pc }
  let x := if stays e then { x with runPos := x.runPos + 1, runReads := x.runReads ++ rd } else x.endRun
  settle false { s with g := x }

/-- Issue an instruction of the group in focus: its checks, its body, and the exception if it faults. -/
def issue (i : Instr) (s : State) (body : Enc → State → Act) : Host.Outcome State Fault Refusal :=
  match toEnc i with
  | none => .next s
  | some e =>
    match issueFault e s with
    | some f => .next (takeFault f s)
    | none =>
      match body e (beginIssue e s) with
      | .ok s' => .next s'
      | .fault f => .next (takeFault f s)

/-- A body that cannot fault and falls through. -/
def plain (f : Enc → State → State) : Enc → State → Act := fun e s => .ok (seqNext e (f e s))

end Sys2Proof.Machine
end

