-- ==== Sys2Proof/Machine/Operands.lean ====
section
/-!
DEFINITION. Reading operands by type (spec/02 R55, spec/04 R96) and writing results with the latch of the run position
(spec/01 R14, R17, R26).
-/
namespace Sys2Proof.Machine

/-- The format of a floating-point type (R76, R91). -/
def FType.fmt : FType → Fmt
  | .f32 => fmtF32
  | .f64 => fmtF64
  | .f16 | .f16x2 => fmtF16
  | .bf16 | .bf16x2 => fmtBf16

/-- Two elements in one register? -/
def FType.packed : FType → Bool
  | .f16x2 | .bf16x2 => true
  | _ => false

/-- A register pair? -/
def FType.wide : FType → Bool
  | .f64 => true
  | _ => false

/-- A pair at this integer type? -/
def IType.wide (T : IType) : Bool := T == .i64

/-- Registers of a value. -/
def regsOf (wide : Bool) : Nat := if wide then 2 else 1

/-- The value of an integer operand in a lane (R55, R96). -/
def srcInt (x : Group) (T : IType) (o : Opnd) (l : Nat) : Int := valInt T (srcBits x (IType.wide T) o l)

/-- A uniform operand: lane 0 stands for the group. -/
def srcU (x : Group) (wide : Bool) (o : Opnd) : DWord :=
  let b := srcBits x wide o 0
  match o with
  | .lane => 0
  | _ => if wide then b else (b.setWidth 32).zeroExtend 64

/-- An integer, exact in every format it is used with (R55). -/
def intEnc (F : Fmt) (i : Int) : Nat := (F.roundZ .rn (decide (i < 0)) i.natAbs 0).x

/-- A binary32 pattern as binary64, exactly, NaNs keeping sign and fraction (R55). -/
def f32ToF64 (x : Nat) : Nat :=
  if bits x 23 8 = 255 then
    (if bit x 31 then 2 ^ 63 else 0) + 2047 * 2 ^ 52 + bits x 0 23 * 2 ^ 29
  else match fmtF32.value x with
    | .fin s m e => (fmtF64.roundZ .rn s m e).x
    | _ => 0

/-- Both halves of a packed pair. -/
def dup (packed : Bool) (x : Nat) : Nat := if packed then x + 2 ^ 16 * x else x

/-- The encoding a floating-point operand gives a lane (R55, R96). -/
def srcFp (x : Group) (T : FType) (o : Opnd) (l : Nat) : Nat :=
  let F := FType.fmt T
  let int (i : Int) : Nat := dup (FType.packed T) (intEnc F i)
  match o with
  | .imm i => int i.toInt
  | .lane => int l
  | .gw => int x.gw
  | .lit v =>
    match T with
    | .f64 => f32ToF64 v.toNat
    | .f16 | .bf16 => v.toNat % 2 ^ 16
    | _ => v.toNat
  | o =>
    let b := (srcBits x (FType.wide T) o l).toNat
    match T with
    | .f64 => b
    | .f16 | .bf16 => b % 2 ^ 16
    | _ => b % 2 ^ 32

/-! ### Results -/

/-- One register of a vector or operand-file destination, in a lane. -/
def Group.putReg (o : Opnd) (i l : Nat) (w : Word) (m : Bool) (x : Group) : Group :=
  match o with
  | .v r => x.setV (r.toNat + i) l w m
  | .o r => x.setO r.toNat l w m
  | _ => x

/-- The present value of a vector, operand-file or uniform destination in a lane. -/
def Group.curReg (x : Group) (o : Opnd) (l : Nat) : Word :=
  match o with
  | .v r => x.vAt r.toNat l
  | .o r => x.oAt r.toNat l
  | .g r => x.gAt r.toNat
  | _ => 0

/-- The present mark. -/
def Group.curMark (x : Group) (o : Opnd) (l : Nat) : Bool :=
  match o with
  | .v r => x.vMark r.toNat l
  | .o r => x.oMark r.toNat l
  | .g r => x.gMark r.toNat
  | _ => false

/-- Write the latch of this position for lanes 0 … GW − 1, when the run goes on (R26). -/
def latchAll (e : Enc) (f : Nat → Word) (m : Nat → Bool) (x : Group) : Group :=
  if stays e then forLanes (fun l y => y.setH x.runPos l (f l) (m l)) x.gw x else x

/-- Registers 0 … n − 1 of one lane from a value. -/
def putRegs (o : Opnd) (l : Nat) (v : Nat) (m : Bool) : Nat → Group → Group
  | 0, x => x
  | n + 1, x => (putRegs o l v m n x).putReg o n l (BitVec.ofNat 32 (v / 2 ^ (32 * n))) m

/-- Write the registers of one lane, if it is active and has a value. -/
def putLane (d : Opnd) (n : Nat) (act : Mask) (f : Nat → Option Nat) (m : Nat → Bool) (l : Nat) (y : Group) : Group :=
  if act.getLsbD l then match f l with
    | some v => putRegs d l v (m l) n y
    | none => y
  else y

/-- Write a vector result of n registers with marks in the active lanes, and the latch (R17, R26). `none` leaves a lane
as it is (R175). -/
def wrVec (e : Enc) (d : Opnd) (n : Nat) (act : Mask) (f : Nat → Option Nat) (m : Nat → Bool) (s : State) : State :=
  let x := s.g
  if nwb e then
    let y := latchAll e
      (fun l => if act.getLsbD l then (match f l with | some v => BitVec.ofNat 32 v | none => x.curReg d l) else 0)
      (fun l => if act.getLsbD l then (match f l with | some _ => m l | none => x.curMark d l) else false) x
    { s with g := y }
  else
    let y := forLanes (putLane d n act f m) x.gw x
    { s with g := latchAll e (fun l => y.curReg d l) (fun l => y.curMark d l) y }

/-- A vector result in every active lane. -/
def wrV (e : Enc) (d : Opnd) (wide : Bool) (act : Mask) (f : Nat → DWord) (s : State) : State :=
  wrVec e d (regsOf wide) act (fun l => some (f l).toNat) (fun _ => false) s

/-- Write a uniform result, or nothing with an empty active set, and the latch (R17, R26). -/
def wrG (e : Enc) (d : Opnd) (wide : Bool) (act : Mask) (v : DWord) (s : State) : State :=
  let x := s.g
  match d with
  | .g r =>
    if nwb e then
      { s with g := latchAll e (fun _ => if act = 0 then 0 else v.setWidth 32) (fun _ => false) x }
    else
      let y := if act = 0 then x
        else if wide then x.setGPair r.toNat v else x.setG r.toNat (v.setWidth 32) false
      { s with g := latchAll e (fun _ => y.gAt r.toNat) (fun _ => y.gMark r.toNat) y }
  | _ => s

/-- Write a predicate result in the active lanes, and the latch as 1 or 0 (R14, R26). -/
def wrP (e : Enc) (d : Opnd) (act : Mask) (f : Nat → Bool) (s : State) : State :=
  let x := s.g
  match d with
  | .p n =>
    let new := maskOf fun l => act.getLsbD l && f l
    let one (m : Mask) (l : Nat) : Word := if m.getLsbD l then 1 else 0
    if nwb e then { s with g := latchAll e (one new) (fun _ => false) x }
    else
      let y := x.setP n.toNat ((x.pAt n.toNat &&& ~~~act) ||| new)
      { s with g := latchAll e (one (y.pAt n.toNat)) (fun _ => false) y }
  | _ => s

/-- The latch of an instruction with no destination register. DESIGN CHOICE (log 92): R26 names no content for it; nothing is
written, so a later position that reads it reads 0 in every lane. -/
def noResult (s : State) : State := s

end Sys2Proof.Machine
end

