-- ==== Sys2Proof/Machine/Memory.lean ====
section
/-!
DEFINITION. Memory operands, loads, stores and prefetch (spec/07 R184–R195) with the order, signatures and reports that
go with them (spec/11 R311–R324, spec/17 R415, spec/20 R472).
-/
namespace Sys2Proof.Machine

/-! ### Where an access goes -/

/-- What an access does (R187, R188, R299). -/
inductive AccKind where
  | rd | wr | rmw
  deriving DecidableEq, Repr

/-- Permissions of an access to global memory (R299). -/
def AccKind.need : AccKind → Need
  | .rd => needR
  | .wr => needW
  | .rmw => needRW

/-- Does the access write? -/
def AccKind.writes (k : AccKind) : Bool := k != .rd

/-- A place an access lands: translated global bytes, the snapshot of `.cn`, a scratchpad, or the L1. -/
inductive Spot where
  | glob (x : Xl)
  | snap (x : Xl)
  | pad (team off : Nat)
  /-- the copy of the line that the core's L1 holds -/
  | copy (x : Xl) (line : List Byte)
  deriving DecidableEq, Repr

/-- The scratchpad bytes a `.pd` or `.cl` address names (R184, R185). -/
def padSpot (s : State) (cl : Bool) (ea size : Nat) : Option (Team × Nat) :=
  if cl then
    if bits ea 24 8 != 0 || bit ea 21 then none
    else
      let core := coreOf s.t s.g / 4 * 4 + bits ea 22 2
      match peerOf s s.t core with
      | some t => if bits ea 0 21 + size ≤ t.desc.pad then some (t, bits ea 0 21) else none
      | none => none
  else if ea + size ≤ s.t.desc.pad then some (s.t, ea) else none

/-- The place of an access of size bytes, or the causes it meets (R186–R188, R214, R299). -/
def resolve (s : State) (sp : Space) (k : AccKind) (size ea : Nat) : Except (List Nat) Spot :=
  let mis : List Nat := if ea % size = 0 then [] else [cMISALIGN]
  match sp with
  | .pd | .cl =>
    match padSpot s (sp == .cl) ea size with
    | none => .error (mis ++ [cPADB])
    | some (t, off) =>
      let bar : List Nat := if k.writes && off < 16 * t.desc.barriers then [cBARRIER] else []
      let lk : List Nat := if lockPad s t.uid off size k.writes then [cLOCK] else []
      if mis ++ bar ++ lk = [] then .ok (.pad t.uid off) else .error (mis ++ bar ++ lk)
  | .global | .cn =>
    let lk : List Nat := if lockGlobal s s.t.tag (coreOf s.t s.g) ea size k.writes then [cLOCK] else []
    match xlate s s.t.tag (coreOf s.t s.g) ea k.need with
    | .error c => .error (mis ++ lk ++ [c])
    | .ok x => if mis ++ lk = [] then .ok (if sp = .cn then .snap x else .glob x) else .error (mis ++ lk)

/-- The order in which causes are raised (R187). -/
def causeOrder : List Nat := [cMISALIGN, cPADB, cBARRIER, cPERM, cLOCK, cPAGE]

/-- The fault of the lanes' accesses: the first cause in the order that any lane meets, with the lowest lane that meets
it (R187). -/
def laneFault (wr : Bool) (rs : List (Nat × Nat × Except (List Nat) Spot)) : Option FaultInfo :=
  causeOrder.findSome? fun c =>
    (rs.find? fun r => match r.2.2 with | .error cs => cs.contains c | .ok _ => false).map fun r =>
      { cause := c, lane := r.1, va := r.2.1, write := wr }

/-- The places of accesses without a fault: lane, address, place. -/
def laneSpots (rs : List (Nat × Nat × Except (List Nat) Spot)) : List (Nat × Nat × Spot) :=
  rs.filterMap fun r => match r.2.2 with | .ok p => some (r.1, r.2.1, p) | .error _ => none

/-- Value and mark of a read of size bytes (R189, R192, R471). -/
def spotRead (s : State) (size : Nat) : Spot → Nat × Bool
  | .glob x => (gRead s x size, gPoison s x 0 || gPoison s x (size - 1))
  | .snap x => (gRead (s.asOf s.t.cn) x size, gPoison (s.asOf s.t.cn) x 0 || gPoison (s.asOf s.t.cn) x (size - 1))
  | .pad t off =>
    match findTeam s t with
    | some t => (padRead t off size, padMark t off size)
    | none => (0, false)
  | .copy x line => (field line (x.addr % 128) size, false)

/-- Write size bytes (R192). -/
def spotWrite (size v : Nat) (p : Spot) (s : State) : State :=
  match p with
  | .glob x => gWrite x v size s
  | .snap _ => s
  | .pad t off => updTeam t (padWrite off size v) s
  | .copy _ _ => s

/-- The bytes an access touches, as a port sees them (R415). -/
def spotTouch (s : State) (lane va size : Nat) : Spot → List Touch
  | .glob _ => [⟨lane, coreOf s.t s.g, true, 0, va, size⟩]
  | .snap _ => [⟨lane, coreOf s.t s.g, true, 0, va, size⟩]
  | .copy _ _ => [⟨lane, coreOf s.t s.g, true, 0, va, size⟩]
  | .pad t off => match findTeam s t with
    | some t => [padTouch t lane off size]
    | none => []

/-- The translation an access used, if any. -/
def Spot.xl : Spot → Option Xl
  | .glob x => some x
  | .snap x => some x
  | .copy x _ => some x
  | .pad _ _ => none

/-- Remember the translations (R301). -/
def rememberAll (ps : List (Nat × Nat × Spot)) (s : State) : State :=
  ps.foldl (fun s p => match p.2.2.xl with | some x => tlbPut x.ent s | none => s) s

/-! ### The caches -/

/-- The places of a load that may use the core's L1, as they are read: from the copy where the L1 holds the line, which it may
have evicted (R298, R318). A stale copy is what a relaxed load may return (R311). -/
def viaL1 (s : State) (ps : List (Nat × Nat × Spot)) : List (Nat × Nat × Spot) :=
  ps.map fun p =>
    match p.2.2 with
    | .glob x =>
      match (if x.inL1 then l1Find s (coreOf s.t s.g) x else none) with
      | some l => if Config.flip .count [s.fresh, x.line, x.kid, 5] then p else (p.1, p.2.1, .copy x l.data)
      | none => p
    | _ => p

/-- One of each line among translated addresses. -/
def onePerLine : List Xl → List Xl
  | [] => []
  | x :: xs =>
    if (onePerLine xs).any fun y => y.line == x.line && y.kid == x.kid then onePerLine xs else x :: onePerLine xs

/-- The local lines that an access reads or writes at their home stations. -/
def l2Lines (ps : List (Nat × Nat × Spot)) : List Xl :=
  onePerLine (ps.filterMap fun p => match p.2.2 with | .glob x => if x.inL2 then some x else none | _ => none)

/-- Reads at the home station (R324): a foreign hit is served in place and counted; what misses fills. -/
def l2Reads (xs : List Xl) (s : State) : State :=
  xs.foldl (fun s x => if x.foreign && l2Hits s x then countMine 11 1 s else l2Fill s.t.tag x s) s

/-- What a load does to the caches (R324, R424): L1 hits and misses, one for each line of the access; the
lines it misses fill the L1. With `l1` clear it bypasses the L1, whose copy goes, so that no later load of the core
returns an older write (R308). -/
def cacheLoads (l1 : Bool) (ps : List (Nat × Nat × Spot)) (s : State) : State :=
  let core := coreOf s.t s.g
  let xs := l2Lines ps
  let s := l2Reads xs s
  if l1 then
    let hit := (onePerLine (ps.filterMap fun p => match p.2.2 with | .copy x _ => some x | _ => none)).length
    let miss := xs.filter Xl.inL1
    let s := if hit = 0 then s else countMine 5 hit s
    let s := if miss = [] then s else countMine 6 miss.length s
    miss.foldl (fun s x => l1Fill core x s) s
  else xs.foldl (fun s x => l1Drop core (fun l => l.line == x.line && l.kid == x.kid) s) s

/-- A poisoned transfer from the host or a peer is reported (R482, R502). -/
def reportLinks (ps : List (Nat × Nat × Spot)) (s : State) : State :=
  match ps.find? fun p => match p.2.2.xl with | some x => x.linkDead s | none => false with
  | some p => linkPoison s.t.tag s.t.slice (myGid s) p.2.1 s
  | none => s

/-! ### Order (R311–R321) -/

/-- The lines of a list of global places, by line index PA[51:7] (R319). -/
def linesOf (ps : List (Nat × Nat × Spot)) : List Nat := ps.filterMap fun p => p.2.2.xl.map Xl.sigLine

/-- The entry of a line in its home station's signature cache (R320). -/
def lineCarrier (s : State) (l : Nat) : Option (BitVec 1024) := (s.lineSig.find? (·.1 == l)).map (·.2)

/-- Do two lines have one home station? -/
def sameStation (l m : Nat) : Bool := homeStation (128 * l) == homeStation (128 * m)

/-- Keep at most n entries of a line's station; those of task records are elsewhere. -/
def keepSigs (l : Nat) : Nat → List (Nat × BitVec 1024) → List (Nat × BitVec 1024)
  | _, [] => []
  | n, e :: es =>
    if 2 ^ 64 ≤ e.1 || !sameStation l e.1 then e :: keepSigs l n es
    else match n with
      | 0 => keepSigs l 0 es
      | n + 1 => e :: keepSigs l n es

/-- A line's carrier receives a signature (R320): a station holds 256 entries, and the oldest gives way. -/
def carryLine (sig : BitVec 1024) (l : Nat) (s : State) : State :=
  { s with lineSig := (l, (lineCarrier s l).getD 0 ||| sig) :: keepSigs l 255 (s.lineSig.filter (·.1 != l)) }

/-- The signature that the carrier of a place holds (R320): its line's entry, a full one where the station holds none; in a
scratchpad the completion record that stands there. -/
def spotCarrier (s : State) (p : Spot) : BitVec 1024 :=
  match p, p.xl with
  | _, some x => (lineCarrier s x.sigLine).getD (BitVec.allOnes 1024)
  | .pad t off, _ => match findTeam s t with
    | some t => carrierOf t (recKey (off / 16 * 16))
    | none => 0
  | _, _ => 0

/-- An acquire receives the signatures that the places it reads carry (R320). -/
def acquireAt (ps : List (Nat × Nat × Spot)) (s : State) : State :=
  if ps = [] then s else receive (ps.foldl (fun m p => m ||| spotCarrier s p.2.2) 0) s

/-- The signature that an access's stores add to the group's (R319). Where a release fence has published one, the write
carries it on to a line that has an entry (R203, R313). -/
def signLines (ls : List Nat) (s : State) : State :=
  if fallback s s.t.tag then s
  else
    let pub := carrierOf s.t (fenceKey s.g.uid)
    let s := onG (fun x => { x with sig := ls.foldl (fun m l => m ||| sigOf (128 * l)) x.sig }) s
    if pub = 0 then s else ls.foldl (fun s l => if (lineCarrier s l).isSome then carryLine pub l s else s) s

/-- The wait of a release: every store is acknowledged and every load has its value (R318). -/
def releaseWait (s : State) : State := onG (fun x => { x with unack := 0, pend := x.pend.filter (·.sfu) }) s

/-- A release hands the group's signature to the lines it writes (R320). -/
def releaseLines (ls : List Nat) (s : State) : State :=
  let s := releaseWait s
  if fallback s s.t.tag || ls = [] then s
  else
    let sig := s.g.sig
    onG (fun x => { x with sig := 0 }) (ls.foldl (fun s l => carryLine sig l s) s)

/-! ### Addresses -/

/-- Displacement of a memory operand (R184, R191). -/
def Disp.val : Disp → Int
  | .short i => i.toInt
  | .long d => d.toInt
  | .ext d _ => d.toInt

/-- The order's scope, when one is written. -/
def Disp.ordered : Disp → Bool
  | .ext _ (some _) => true
  | _ => false

/-- Is the base a pair: global and `.cn` (R184)? -/
def Space.paired (sp : Space) : Bool := sp == .global || sp == .cn

/-- The effective address from base, offset and displacement (R184). -/
def effAddr (x : Group) (sp : Space) (a b : Opnd) (disp : Int) (l : Nat) : Nat :=
  if Space.paired sp then
    let base : Int := (srcU x true a).toNat
    ((base + (src32 x b l).toInt + disp) % 2 ^ 56).toNat
  else
    let base : Int := (srcU x false a).toNat
    ((base + ((src32 x b l).toNat : Int) + disp) % 2 ^ 32).toNat

/-- Bytes of an access size (R80). -/
def Size.bytes : Size → Nat
  | .n8 | .i8 => 1
  | .n16 | .i16 => 2
  | .b32 => 4
  | .b64 => 8
  | .b128 => 16

/-- Registers of an access size. -/
def Size.regs : Size → Nat
  | .b64 => 2
  | .b128 => 4
  | _ => 1

/-- extend(M) as R96 has it. -/
def Size.extend (sz : Size) (v : Nat) : Nat :=
  match sz with
  | .i8 => (BitVec.ofInt 32 (sextNat v 8)).toNat
  | .i16 => (BitVec.ofInt 32 (sextNat v 16)).toNat
  | _ => v

/-- The accesses of the given lanes. -/
def resolveLanes (s : State) (sp : Space) (k : AccKind) (size : Nat) (ea : Nat → Nat) (ls : List Nat) :
    List (Nat × Nat × Except (List Nat) Spot) :=
  ls.map fun l => (l, ea l, resolve s sp k size (ea l))

/-- Does the group wait for the port's answer (R188)? -/
def portWait (sp : Space) (ls : List Nat) (s : State) : State :=
  if sp = .cl ∧ ls ≠ [] then onG (fun x => { x with stat := .port }) s else s

/-- Accesses to the host and to peers become transactions (R480): reads and atomics in VC1, writes in VC0. -/
def sendSpots (kind size : Nat) (ps : List (Nat × Nat × Spot)) (s : State) : State :=
  ps.foldl (fun s p => match p.2.2.xl with
    | some x => sendOut x.target (if kind = 1 then 0 else 1) s.t.tag size (kind != 0) s
    | none => s) s

/-- Queue the watchpoint hits of accesses (R415): bit 0 read, 1 write, 2 atomic. -/
def hitsOf (kind size : Nat) (ps : List (Nat × Nat × Spot)) (s : State) : State :=
  wpGroup kind (ps.flatMap fun p => spotTouch s p.1 p.2.1 size p.2.2) (sendSpots kind size ps s)

/-! ### Loads and stores -/

/-- The results of a load by lane: value and mark; 0 for a lane that is not there. -/
def loaded (s : State) (sz : Size) (ps : List (Nat × Nat × Spot)) (l : Nat) : Nat × Bool :=
  match ps.find? (·.1 == l) with
  | some p => let r := spotRead s (Size.bytes sz) p.2.2; (Size.extend sz r.1, r.2)
  | none => (0, false)

/-- What every load does besides its result: acquire, reports, hits, caches. -/
def loadEffects (acq l1 : Bool) (size : Nat) (ps : List (Nat × Nat × Spot)) (s : State) : State :=
  let s := if acq then acquireAt ps s else s
  let s := hitsOf 0 size ps (reportLinks ps s)
  cacheLoads l1 ps (rememberAll ps s)

/-- May a load use the L1: it is no acquire, which reads at the home station, and not `.nl1` (R194, R320)? -/
def usesL1 (pol : CachePol) (disp : Disp) : Bool := pol != .nl1 && !Disp.ordered disp

/-- The places a load reads, in the order of its lanes. -/
def loadSpots (pol : CachePol) (disp : Disp) (rs : List (Nat × Nat × Except (List Nat) Spot)) (s : State) :
    List (Nat × Nat × Spot) :=
  if usesL1 pol disp then viaL1 s (laneSpots rs) else laneSpots rs

/-- A pending result that later uses are held on (R190). -/
def pendOn (ks : List Nat) (s : State) : State := onG (fun x => { x with pend := x.pend ++ [⟨false, ks⟩] }) s

/-- Write a uniform result of n registers with its mark, and the latch (R26, R189). -/
def wrGN (e : Enc) (d : Opnd) (n : Nat) (v : Nat) (m : Bool) (s : State) : State :=
  match d with
  | .g r =>
    let w (i : Nat) : Word := BitVec.ofNat 32 (v / 2 ^ (32 * i))
    if nwb e then { s with g := latchAll e (fun _ => w 0) (fun _ => m) s.g }
    else
      let y := (List.range n).foldl (fun x i => Group.setG (r.toNat + i) (w i) m x) s.g
      { s with g := latchAll e (fun _ => y.gAt r.toNat) (fun _ => y.gMark r.toNat) y }
  | _ => s

/-- `ld` (R192). -/
def execLd (h : Hdr) (sp : Space) (pol : CachePol) (sz : Size) (d a b : Opnd) (disp : Disp) (s : State) :
    Host.Outcome State Fault Refusal :=
  issue (.ld h sp pol sz d a b disp) s fun e s =>
    let x := s.g
    let act := x.active h.toGuard
    let rs := resolveLanes s sp .rd (Size.bytes sz) (effAddr x sp a b (Disp.val disp)) (lanesOf act)
    match laneFault false rs with
    | some f => .fault f
    | none =>
      let ps := loadSpots pol disp rs s
      let r (l : Nat) : Nat × Bool := loaded s sz ps l
      let t := loadEffects (Disp.ordered disp) (usesL1 pol disp) (Size.bytes sz) ps s
      let t := wrVec e d (Size.regs sz) act (fun l => some (r l).1) (fun l => (r l).2) t
      .ok (seqNext e (if act = 0 then t else pendOn (pendKeys e d (Size.regs sz) x.runPos) t))

/-- `gld` (R192). -/
def execGld (h : Hdr) (sp : Space) (pol : CachePol) (sz : Size) (d a b : Opnd) (disp : Disp) (s : State) :
    Host.Outcome State Fault Refusal :=
  issue (.gld h sp pol sz d a b disp) s fun e s =>
    let x := s.g
    if x.active h.toGuard = 0 then .ok (seqNext e (wrG e d false 0 0 s))
    else
      let rs := resolveLanes s sp .rd (Size.bytes sz) (effAddr x sp a b (Disp.val disp)) [0]
      match laneFault false rs with
      | some f => .fault f
      | none =>
        let ps := loadSpots pol disp rs s
        let r := loaded s sz ps 0
        let t := loadEffects (Disp.ordered disp) (usesL1 pol disp) (Size.bytes sz) ps s
        let t := wrGN e d (Size.regs sz) r.1 r.2 t
        .ok (seqNext e (pendOn (pendKeys e d (Size.regs sz) x.runPos) t))

/-- The low bytes of a store's data in a lane (R192). -/
def storeData (x : Group) (d : Opnd) (sz : Size) (l : Nat) : Nat :=
  let one (i : Nat) : Nat := match d with
    | .v r => (x.vAt (r.toNat + i) l).toNat
    | .g r => (x.gAt (r.toNat + i)).toNat
    | .o r => (x.oAt r.toNat l).toNat
    | _ => 0
  ((List.range (Size.regs sz)).foldl (fun v i => v + one i * 2 ^ (32 * i)) 0) % 2 ^ (8 * Size.bytes sz)

/-- The local bytes that writes cover, for R472. -/
def spansOf (size : Nat) (ps : List (Nat × Nat × Spot)) : List (Nat × Nat) :=
  ps.filterMap fun p => match p.2.2.xl with
    | some x => if x.target = 0 then some (x.addr, size) else none
    | none => none

/-- The copy of the L1 follows a store (R318). -/
def copyStore (size v : Nat) (p : Spot) (s : State) : State :=
  match p with
  | .glob x => l1Store (coreOf s.t s.g) x (natBytes v size) s
  | _ => s

/-- What writes do to the caches: their lines stand in the L2. -/
def cacheWrites (ps : List (Nat × Nat × Spot)) (s : State) : State :=
  (l2Lines ps).foldl (fun s x => l2Fill s.t.tag x s) s

/-- Perform a store: bytes in ascending lane order, so that the highest lane stands (R193), then signature, release,
poison, hits and the count of unacknowledged stores. -/
def storeAll (rel : Bool) (size : Nat) (data : Nat → Nat) (ps : List (Nat × Nat × Spot)) (s : State) : State :=
  let t := ps.foldl (fun t p => spotWrite size (data p.1) p.2.2 t) s
  let t := clearPoison (spansOf size ps) t
  let t := ps.foldl (fun t p => copyStore size (data p.1) p.2.2 t) t
  let t := signLines (linesOf ps) t
  let t := if rel then releaseLines (linesOf ps) t else t
  let t := hitsOf 1 size ps t
  let t := cacheWrites ps (rememberAll ps t)
  if ps = [] then t else onG (fun x => { x with unack := x.unack + 1 }) t

/-- `st` (R192, R193). -/
def execSt (h : Hdr) (sp : Space) (pol : CachePol) (sz : Size) (d a b : Opnd) (disp : Disp) (s : State) :
    Host.Outcome State Fault Refusal :=
  issue (.st h sp pol sz d a b disp) s fun e s =>
    let x := s.g
    let ls := lanesOf (x.active h.toGuard)
    let rs := resolveLanes s sp .wr (Size.bytes sz) (effAddr x sp a b (Disp.val disp)) ls
    match laneFault true rs with
    | some f => .fault f
    | none =>
      let t := storeAll (Disp.ordered disp) (Size.bytes sz) (storeData x d sz) (laneSpots rs) s
      .ok (portWait sp ls (seqNext e t))

/-- `gst` (R192). -/
def execGst (h : Hdr) (sp : Space) (pol : CachePol) (sz : Size) (d a b : Opnd) (disp : Disp) (s : State) :
    Host.Outcome State Fault Refusal :=
  issue (.gst h sp pol sz d a b disp) s fun e s =>
    let x := s.g
    let ls : List Nat := if x.active h.toGuard = 0 then [] else [0]
    let rs := resolveLanes s sp .wr (Size.bytes sz) (effAddr x sp a b (Disp.val disp)) ls
    match laneFault true rs with
    | some f => .fault f
    | none =>
      let t := storeAll (Disp.ordered disp) (Size.bytes sz) (storeData x d sz) (laneSpots rs) s
      .ok (portWait sp ls (seqNext e t))

/-- `prf` (R195): nothing a program observes. -/
def execPrf (h : Hdr) (l1 : Bool) (a b : Opnd) (disp : Disp) (s : State) : Host.Outcome State Fault Refusal :=
  issue (.prf h l1 a b disp) s (plain fun _ s => s)

end Sys2Proof.Machine
end

