-- ==== Sys2Proof/Machine/Atomic.lean ====
section
/-!
DEFINITION. Atomics, `atmc` and `fence` (spec/07 R196–R203, spec/13 R346, R359–R361, spec/11 R309, R313, R318–R321).
-/
namespace Sys2Proof.Machine

/-- The space of an atomic (R196). -/
def ADisp.space : ADisp → Space
  | .ext .pd _ _ _ => .pd
  | .ext .cl _ _ _ => .cl
  | _ => .global

/-- The displacement of an atomic (R196). -/
def ADisp.val : ADisp → Int
  | .short => 0
  | .long d => d.toInt
  | .ext _ _ _ d => d.toInt

/-- Is the order an acquire? -/
def ADisp.acq : ADisp → Bool
  | .ext _ a _ _ => a
  | _ => false

/-- Is the order a release? -/
def ADisp.rel : ADisp → Bool
  | .ext _ _ r _ => r
  | _ => false

/-- u ⊕ v of an atomic operation (R197). -/
def aopVal (op : AOp) (w64 : Bool) (u v : Nat) : Nat :=
  let w := if w64 then 64 else 32
  let su := sextNat u w
  let sv := sextNat v w
  match op with
  | .add => (u + v) % 2 ^ w
  | .smin => if su ≤ sv then u else v
  | .umin => if u ≤ v then u else v
  | .smax => if su ≤ sv then v else u
  | .umax => if u ≤ v then v else u
  | .and => Nat.land u v
  | .or => Nat.lor u v
  | .xor => Nat.xor u v
  | .fadd => (fAdd (if w64 then fmtF64 else fmtF32) false .rn u v).x
  | .xchg => v
  | .cas => v

/-- The data operand of a lane (R55, R196). -/
def atomData (x : Group) (op : AOp) (w64 : Bool) (c : Opnd) (l : Nat) : Nat :=
  if op = .fadd then srcFp x (if w64 then .f64 else .f32) c l
  else (srcBits x w64 c l).toNat % 2 ^ (if w64 then 64 else 32)

/-- What each lane gets back: lane, old value, mark. -/
abbrev Olds := List (Nat × Nat × Bool)

/-- A poisoned target: no update; `atm` returns marked values, `ared` is dropped with event 0x03 (R472). -/
def poisonTarget (red : Bool) (lane va old : Nat) (ls : List Nat) (r : State × Olds) : State × Olds :=
  (if red then emit r.1.t.tag ⟨0x03, cECC, r.1.t.slice, myGid r.1, va / 128 * 128, lane, some 1, none⟩ r.1 else r.1,
   r.2 ++ ls.map fun l => (l, old, true))

/-- One combine set: one indivisible update (R197). -/
def combineSet (op : AOp) (w64 red : Bool) (data : Nat → Nat) (p : Nat × Nat × Spot) (ls : List Nat)
    (r : State × Olds) : State × Olds :=
  let n := if w64 then 8 else 4
  let (old, bad) := spotRead r.1 n p.2.2
  if bad then poisonTarget red p.1 p.2.1 old ls r
  else
    let go := ls.foldl (fun (a : Option Nat × Olds) l =>
      let d := match a.1 with | none => old | some v => aopVal op w64 old v
      let v := match a.1 with | none => data l | some v => aopVal op w64 v (data l)
      (some v, a.2 ++ [(l, d, false)])) ((none : Option Nat), ([] : Olds))
    let new := match go.1 with | some v => aopVal op w64 old v | none => old
    (spotWrite n new p.2.2 r.1, r.2 ++ go.2)

/-- `.xchg` and `.cas`, one lane (R198). -/
def swapLane (op : AOp) (w64 red : Bool) (data cmp : Nat → Nat) (p : Nat × Nat × Spot) (r : State × Olds) :
    State × Olds :=
  let n := if w64 then 8 else 4
  let (cur, bad) := spotRead r.1 n p.2.2
  if bad then poisonTarget red p.1 p.2.1 cur [p.1] r
  else (if op = .cas ∧ cur ≠ cmp p.1 then r.1 else spotWrite n (data p.1) p.2.2 r.1, r.2 ++ [(p.1, cur, false)])

/-- Perform an atomic on its places: sets of equal addresses, or lane by lane (R197, R198). -/
def atomAll (op : AOp) (w64 red : Bool) (data cmp : Nat → Nat) (ps : List (Nat × Nat × Spot)) (s : State) :
    State × Olds :=
  if op = .xchg ∨ op = .cas then ps.foldl (fun r p => swapLane op w64 red data cmp p r) (s, [])
  else
    let firsts := ps.filter fun p => (ps.find? fun q => q.2.1 == p.2.1) == some p
    firsts.foldl (fun r p =>
      combineSet op w64 red data p ((ps.filter fun q => q.2.1 == p.2.1).map (·.1)) r) (s, [])

/-- The core's L1 drops the lines that its atomics update at their stations. -/
def dropLines (ps : List (Nat × Nat × Spot)) (s : State) : State :=
  (l2Lines ps).foldl (fun s x => l1Drop (coreOf s.t s.g) (fun l => l.line == x.line && l.kid == x.kid) s) s

/-- Order, reports and counts of an atomic after its updates (R188, R318–R320, R415). -/
def atomEffects (acq rel : Bool) (size : Nat) (ps : List (Nat × Nat × Spot)) (s : State) : State :=
  let s := dropLines ps (if acq then acquireAt ps s else s)
  let s := signLines (linesOf ps) s
  let s := if rel then releaseLines (linesOf ps) s else s
  let s := hitsOf 2 size ps (reportLinks ps s)
  let s := cacheWrites ps (rememberAll ps s)
  if ps = [] then s else onG (fun x => { x with unack := x.unack + 1 }) s

/-- The compare value that D holds on entry (R198). -/
def cmpOf (x : Group) (w64 : Bool) (d : Opnd) (l : Nat) : Nat := (srcBits x w64 d l).toNat

/-- `atm` (R196–R199). -/
def execAtm (h : Hdr) (op : AOp) (sc : Scope) (w64 : Bool) (d a b c : Opnd) (ad : ADisp) (s : State) :
    Host.Outcome State Fault Refusal :=
  issue (.atm h op sc w64 d a b c ad) s fun e s =>
    let x := s.g
    let act := x.active h.toGuard
    let n := if w64 then 8 else 4
    let sp := ADisp.space ad
    let rs := resolveLanes s sp .rmw n (effAddr x sp a b (ADisp.val ad)) (lanesOf act)
    match laneFault true rs with
    | some f => .fault f
    | none =>
      let ps := laneSpots rs
      let r := atomAll op w64 false (atomData x op w64 c) (cmpOf x w64 d) ps s
      let t := atomEffects (ADisp.acq ad) (ADisp.rel ad) n ps r.1
      let t := wrVec e d (regsOf w64) act (fun l => (r.2.find? (·.1 == l)).map (·.2.1))
        (fun l => match r.2.find? (·.1 == l) with | some o => o.2.2 | none => false) t
      let t := if act = 0 then t else pendOn (pendKeys e d (regsOf w64) x.runPos) t
      .ok (portWait sp (lanesOf act) (seqNext e t))

/-- `ared` (R196–R199). -/
def execAred (h : Hdr) (op : AOp) (sc : Scope) (w64 : Bool) (a b c : Opnd) (ad : ADisp) (s : State) :
    Host.Outcome State Fault Refusal :=
  issue (.ared h op sc w64 a b c ad) s fun e s =>
    let x := s.g
    let ls := lanesOf (x.active h.toGuard)
    let n := if w64 then 8 else 4
    let sp := ADisp.space ad
    let rs := resolveLanes s sp .rmw n (effAddr x sp a b (ADisp.val ad)) ls
    match laneFault true rs with
    | some f => .fault f
    | none =>
      let ps := laneSpots rs
      let r := atomAll op w64 true (atomData x op w64 c) (fun _ => 0) ps s
      .ok (portWait sp ls (seqNext e (atomEffects (ADisp.acq ad) (ADisp.rel ad) n ps r.1)))

/-! ### `atmc` -/

/-- The station that is home to a place (R438); lines of the host and of peers use the accessing slice's first. -/
def stationOf (s : State) (p : Spot) : Nat :=
  match p.xl with
  | some x => if x.target = 0 then homeStation x.addr else 8 * s.t.slice
  | none => 8 * s.t.slice

/-- The template record, if it passes the checks of R346 and R360. -/
def templateOf (s : State) (va : Nat) : Option (List Byte) :=
  match vBytes s s.t.tag va needR 64, (getFn s s.t.tag).ctx with
  | .ok raw, some c =>
    let q := bits (recQds raw) 0 16
    match c.queues[q]? with
    | some tq => if recordOk raw q false none && tq.contOk && !vPoison s s.t.tag va 64 then some raw else none
    | none => none
  | _, _ => none

/-- May a launch of the group's tag take an entry of a station (R201, R359)? -/
def launchRoom (s : State) (station : Nat) : Bool :=
  let at_ := s.launches.filter (·.station == station)
  decide (at_.length < 64) && decide ((at_.filter (·.tag == s.t.tag)).length < (getFn s s.t.tag).lim.launch)

/-- What `atmc` gives a lane: status and, with status 0 or 1, the old value with its mark. -/
structure AtmcOut where
  lane : Nat
  status : Nat
  old : Option (Nat × Bool)
  deriving DecidableEq, Repr

/-- One lane at its station (R201). -/
def atmcLane (w64 : Bool) (tmpl : Nat) (cmp swap : Nat → Nat) (p : Nat × Nat × Spot)
    (r : State × List AtmcOut) : State × List AtmcOut :=
  let s := r.1
  let n := if w64 then 8 else 4
  match templateOf s tmpl with
  | none => (taskFault s.t.tag s.t.slice (myGid s) tmpl s, r.2 ++ [⟨p.1, 3, none⟩])
  | some raw =>
    let st := stationOf s p.2.2
    if !launchRoom s st then (s, r.2 ++ [⟨p.1, 2, none⟩])
    else
      let (cur, bad) := spotRead s n p.2.2
      if bad || cur != cmp p.1 then (s, r.2 ++ [⟨p.1, 0, some (cur, bad)⟩])
      else
        let raw := putBytes raw 0x28 (natBytes cur 8)
        let due := recDue s s.tick raw (ancestors s s.t)
        let rec_ : TaskRec :=
          { slot := 0, tag := s.t.tag, node := false, idx := bits (recQds raw) 0 16,
            bytes := stampRec raw 2 .dev (myGid s) (peek s.gens (64 * s.t.core + s.t.seat)),
            bind := ⟨false, .dev, s.t.core / 12, s.t.core % 12⟩, entry := s.tick, deadline := due.1, cls := due.2,
            subs := ancestors s s.t, sig := s.g.sig, spawn := none }
        let s := spotWrite n (swap p.1) p.2.2 s
        ({ s with launches := s.launches ++ [⟨st, s.t.tag, rec_⟩] }, r.2 ++ [⟨p.1, 1, some (cur, false)⟩])

/-- Write a lane's results (R200). -/
def atmcWrite (d : Nat) (w64 : Bool) (o : AtmcOut) (x : Group) : Group :=
  let n := if w64 then 2 else 1
  let x := match o.old with
    | some (v, m) => (List.range n).foldl (fun x i => Group.setV (d + i) o.lane (BitVec.ofNat 32 (v / 2 ^ (32 * i))) m x) x
    | none => x
  x.setV (d + n) o.lane (BitVec.ofNat 32 o.status) false

/-- `atmc` (R200–R202). -/
def execAtmc (h : Hdr) (sc : Scope) (w64 : Bool) (d a b c : Opnd) (tmpl : DWord) (s : State) :
    Host.Outcome State Fault Refusal :=
  issue (.atmc h sc w64 d a b c tmpl) s fun e s =>
    let x := s.g
    let act := x.active h.toGuard
    let n := if w64 then 8 else 4
    let rs := resolveLanes s .global .rmw n (effAddr x .global a b 0) (lanesOf act)
    match laneFault true rs with
    | some f => .fault f
    | none =>
      let ps := laneSpots rs
      if ps = [] then .ok (seqNext e s)
      else
        let t := signLines (linesOf ps) (acquireAt ps s)
        let r := ps.foldl (fun r p => atmcLane w64 tmpl.toNat (cmpOf x w64 d) (atomData x .xchg w64 c) p r) (t, [])
        let t := atomEffects false true n ps r.1
        let t := match d with
          | .v k => pendOn (opKeys d (if w64 then 3 else 2)) (onG (fun x => r.2.foldl (fun x o => atmcWrite k.toNat w64 o x) x) t)
          | _ => t
        .ok (seqNext e t)

/-- A release fence waits for the group's stores and loads and publishes its signature, which the group's later writes
carry (R203, R313, R318). -/
def fenceRelease (s : State) : State :=
  let s := releaseWait s
  if fallback s s.t.tag then s
  else
    let k := fenceKey s.g.uid
    { s with t := setCarrier k (carrierOf s.t k ||| s.g.sig) s.t }

/-- `fence` (R203, R313). DESIGN CHOICE (log 95): an acquire fence receives a full signature, since any earlier read may have
read what a release wrote. -/
def execFence (h : Hdr) (kind : FenceKind) (sc : Scope) (s : State) : Host.Outcome State Fault Refusal :=
  issue (.fence h kind sc) s (plain fun _ s =>
    if s.g.active h.toGuard = 0 then s
    else
      let s := if kind = .acq then s else fenceRelease s
      if kind = .rel then s else receive (BitVec.allOnes 1024) s)

end Sys2Proof.Machine
end

