-- ==== Sys2Proof/Machine/Hash.lean ====
section
/-!
DEFINITION. SHAKE256, the hash that spec/00 R7 names for every hash of the device, as FIPS 202 publishes it (log 31).
The constants are computed by the two recurrences of that text (the walk over the lanes, the shift register of the
round constants), and a message enters one byte at a time.
-/
namespace Sys2Proof.Machine

/-- Add a byte into byte n (0 to 199) of the 25 words of the hash. -/
def spongeXor (ws : List DWord) (n : Nat) (b : Byte) : List DWord :=
  ws.modify (n / 8) fun w => w ^^^ (b.setWidth 64 <<< (8 * (n % 8)))

/-- The shift register of the round constants after n clocks: x^8 + x^6 + x^5 + x^4 + 1. -/
def spongeReg : Nat → Nat
  | 0 => 1
  | n + 1 =>
    let r := 2 * spongeReg n
    if 256 ≤ r then r ^^^ 0x171 else r

/-- The constant of round ir: bit 2^j - 1 is the register's low bit at clock j + 7 ir. -/
def spongeConst (ir : Nat) : DWord :=
  BitVec.ofNat 64 <| (List.range 7).foldl
    (fun w j => w + (spongeReg (j + 7 * ir) % 2) * 2 ^ (2 ^ j - 1)) 0

/-- The 24 moves of a round: from lane (1, 0) each lane (x, y) goes to (y, 2 x + 3 y), the t-th rotated by the t-th
triangular number. Each entry is (from, to, rotation), lanes numbered x + 5 y. -/
def spongeMoves : Nat → Nat → Nat → Nat → List (Nat × Nat × Nat)
  | 0, _, _, _ => []
  | n + 1, t, x, y =>
    let y' := (2 * x + 3 * y) % 5
    (x + 5 * y, y + 5 * y', (t + 1) * (t + 2) / 2 % 64) :: spongeMoves n (t + 1) y y'

/-- The parity of column x, over the words five apart from word x on. -/
def columnSum (ws : List DWord) (x : Nat) : DWord :=
  (ws.zipIdx.filter fun p => p.2 % 5 == x % 5).foldl (fun m p => m ^^^ p.1) 0

/-- Every word with the parities of the two columns beside its own added. -/
def spongeMix (ws : List DWord) : List DWord :=
  ws.zipIdx.map fun p => p.1 ^^^ columnSum ws (p.2 + 4) ^^^ (columnSum ws (p.2 + 1)).rotateLeft 1

/-- Every word at its new lane, rotated. -/
def spongeMove (ws : List DWord) : List DWord :=
  (spongeMoves 24 0 1 0).foldl (fun out m => out.set m.2.1 ((ws.getD m.1 0).rotateLeft m.2.2)) ws

/-- The one nonlinear layer, within a row of five words. -/
def spongeRow : List DWord → List DWord
  | [a, b, c, d, e] => [a ^^^ (~~~b &&& c), b ^^^ (~~~c &&& d), c ^^^ (~~~d &&& e), d ^^^ (~~~e &&& a), e ^^^ (~~~a &&& b)]
  | ws => ws

/-- All rows, the first five words first. -/
def spongeRows : Nat → List DWord → List DWord
  | 0, _ => []
  | n + 1, ws => spongeRow (ws.take 5) ++ spongeRows n (ws.drop 5)

/-- The permutation: 24 rounds. -/
def spongeTurn (ws : List DWord) : List DWord :=
  (List.range 24).foldl
    (fun ws ir => (spongeRows 5 (spongeMove (spongeMix ws))).modify 0 fun w => w ^^^ spongeConst ir) ws

/-- Take a message byte by byte from place n of the block of 136 on; at its end the suffix 1111 and the padding's
first bit follow, and its last bit ends the block. -/
def spongeTake : List Byte → Nat → List DWord → List DWord
  | [], n, ws => spongeTurn (spongeXor (spongeXor ws n 0x1F) 135 0x80)
  | b :: bs, n, ws =>
    let ws := spongeXor ws n b
    if n = 135 then spongeTake bs 0 (spongeTurn ws) else spongeTake bs (n + 1) ws

/-- SHAKE256 with n bytes of output, n at most 136. -/
def shake256 (bs : List Byte) (n : Nat) : List Byte :=
  let ws := spongeTake bs 0 (List.replicate 25 0)
  (List.range n).map fun i => (ws.getD (i / 8) 0 >>> (8 * (i % 8))).setWidth 8

end Sys2Proof.Machine
end

