-- ==== Sys2Proof/Machine/Life.lean ====
section
/-!
DEFINITION. Life counters (spec/23 R515–R518), the end of power, and the fatal dump (spec/20 R476–R478).
-/
namespace Sys2Proof.Machine

/-! ### Counters -/

/-- Does the image keep a field of 8 bytes at an offset (R517)? The others have 4. -/
def lifeWide (off : Nat) : Bool :=
  (decide (0x40 ≤ off) && decide (off < 0x140)) || (decide (0xA10 ≤ off) && decide (off < 0xA30)) || off == 0xA88

/-- Add to a live counter, which saturates (R515). -/
def lifeAdd (off n : Nat) (s : State) : State :=
  let top := 2 ^ (if lifeWide off then 64 else 32) - 1
  let v := BitVec.ofNat 64 (Nat.min ((peek s.life.live off).toNat + n) top)
  { s with life := { s.life with live := poke s.life.live off v } }

/-- Set a live field. -/
def lifeSet (off n : Nat) (s : State) : State :=
  { s with life := { s.life with live := poke s.life.live off (BitVec.ofNat 64 n) } }

/-- The live counters go to flash (R515). -/
def lifeFlush (s : State) : State := { s with life := { s.life with flash := s.life.live } }

/-- LIFE_COUNTER_FLUSH (R515). -/
def execLifeCounterFlush (s : State) : Host.Outcome State Fault Refusal := .next (lifeFlush s)

/-- A list of bytes as a sparse map from an address on. -/
def cellsOf (bs : List Byte) (a : Nat) (m : Cells 8) : Cells 8 := pokeN m a (fun i => bs.getD i 0) bs.length

/-- The bytes of a sparse map below n. -/
def bytesOf (m : Cells 8) (n : Nat) : List Byte := (List.range n).map (peek m)

/-- Bytes of the last dump that the image holds (R517). -/
def dumpLen (s : State) : Nat := Nat.min s.dump.lastSize 1048576

/-- The read image (R517) but for its hash. -/
def lifeBody (s : State) : Cells 8 :=
  let size := 0x1000 + dumpLen s
  let m := pokeBytes (pokeBytes (pokeBytes [] 0 4 1) 4 4 size) 8 8 s.tick
  let m := s.life.live.foldl (fun m c => pokeBytes m c.1 (if lifeWide c.1 then 8 else 4) c.2.toNat) m
  let m := pokeBytes m 0x18 4 s.fw.version.toNat
  let m := pokeBytes (pokeBytes m 0xA84 4 (dumpLen s)) 0xA88 8 s.dump.lastTick
  pokeN m 0x1000 (peek s.dump.lastImage) (dumpLen s)

/-- The read image with its hash. -/
def lifeImage (s : State) : Cells 8 :=
  let m := lifeBody s
  let tail := (bytesOf m (0x1000 + dumpLen s)).drop 0x40
  cellsOf (shake256 tail 32) 0x20 m

/-- LC_SNAPSHOT (R516): every live counter is copied into the read image at one instant. Before S1 the write of LC_CTL is
ignored (R495). -/
def execLcSnapshot (s : State) : Host.Outcome State Fault Refusal :=
  .next (if s.boot.stage = 0 then s
    else { s with life := { s.life with image := lifeImage s, valid := true, size := 0x1000 + dumpLen s } })

/-! ### Power -/

/-- What outlasts the power of the package: flash, fuses, and what lies outside it. -/
def unpowered (s : State) : State :=
  { State.reset with
    agenda := s.agenda, fresh := s.fresh, nextUid := s.nextUid,
    mem := { State.reset.mem with host := s.mem.host },
    fw := { State.reset.fw with slotA := s.fw.slotA, slotB := s.fw.slotB, nextB := s.fw.nextB, svnMin := s.fw.svnMin },
    life := { State.reset.life with live := s.life.flash, flash := s.life.flash },
    dump := { State.reset.dump with
      lastImage := if s.dump.fatal.isSome then s.dump.image else s.dump.lastImage,
      lastSize := if s.dump.fatal.isSome then s.dump.size else s.dump.lastSize,
      lastTick := if s.dump.fatal.isSome then bytesAt s.dump.image 8 8 else s.dump.lastTick } }

/-- PACKAGE_COLD_RESET (R478, R495): the package is as at power-on; the live counters go on, and the dump becomes the last
dump of the life-counter flash. -/
def execPackageColdReset (s : State) : Host.Outcome State Fault Refusal := .next (unpowered (lifeFlush s))

/-- ORDERLY_POWER_DOWN (R515): the live counters are in flash before the power goes. -/
def execOrderlyPowerDown (s : State) : Host.Outcome State Fault Refusal := .next (unpowered (lifeFlush s))

/-- ABRUPT_LOSS_OF_POWER (R515): what was counted since the last write to flash is missing. A dump goes to flash with the
cold reset only. -/
def execAbruptLossOfPower (s : State) : Host.Outcome State Fault Refusal :=
  .next (unpowered { s with dump := { s.dump with fatal := none } })

/-! ### The fatal dump (R476, R477) -/

/-- SL_STATE of a slice (R439). -/
def slState (s : State) (n : Nat) : Nat :=
  let x := getSlice s n
  x.st % 16 * 2 ^ 28 + x.owner % 32 * 2 ^ 16 + x.part % 16 * 2 ^ 8

/-- Tags of the contexts resident on a slice. -/
def residentTags (s : State) (n : Nat) : List Nat :=
  let x := getSlice s n
  if x.cond = 2 then (List.range 16).filterMap fun i => if x.sharers.getLsbD i then some (i + 2) else none
  else if 2 ≤ x.owner then [x.owner] else []

/-- The part number AFZ-9160 and the stepping B0, in ASCII (R7). -/
def partName : List Byte := [0x41, 0x46, 0x5A, 0x2D, 0x39, 0x31, 0x36, 0x30]
def stepName : List Byte := [0x42, 0x30]

/-- The header detail of a dump: part number, stepping, firmware version; what else stands there is open (R477, log 67). -/
def headerDetail (s : State) : List Byte :=
  partName ++ stepName ++ (List.range 50).map (fun i => Config.bits .unstated 8 [477, i]) ++ natBytes s.fw.version.toNat 4

/-- The sections of a dump: type, index, bytes (R477). -/
def dumpSections (s : State) : List (Nat × Nat × List Byte) :=
  [(1, 0, headerDetail s)] ++
  ((List.range 16).map fun n => (2, n, natBytes (slState s n) 4 ++
    (residentTags s n).flatMap (fun t => natBytes (getFn s t).er.ust.toNat 4) ++
    (s.dump.recent.filter (·.1 == n)).flatMap (·.2))) ++
  [(3, 0, s.dump.tag0.flatten), (4, 0, bytesOf (lifeImage s) 0x1000)]

/-- Round up to a multiple of 64. -/
def up64 (n : Nat) : Nat := (n + 63) / 64 * 64

/-- Place the sections from an offset on: table bytes, data with its end. -/
def layDump : Nat → List (Nat × Nat × List Byte) → List Byte × List Byte
  | _, [] => ([], [])
  | off, (ty, ix, bs) :: rest =>
    let n := up64 bs.length
    let r := layDump (off + n) rest
    (natBytes ty 4 ++ natBytes ix 4 ++ natBytes off 4 ++ natBytes bs.length 4 ++ r.1,
     bs ++ List.replicate (n - bs.length) 0 ++ r.2)

/-- The dump of a fatal error (R477). -/
def dumpBytes (cause : Nat) (s : State) : List Byte :=
  let secs := dumpSections s
  let start := up64 (64 + 16 * secs.length)
  let r := layDump start secs
  let body := r.1 ++ List.replicate (start - 64 - 16 * secs.length) 0 ++ r.2
  natBytes 1 4 ++ natBytes secs.length 4 ++ natBytes s.tick 8 ++ natBytes (64 + body.length) 4 ++ natBytes cause 4
    ++ shake256 body 32 ++ natBytes 0 8 ++ body

/-- A device-wide fatal error (R476): counted, the life counters in flash, every slice stopped for good, the dump written. -/
def goFatal (cause : Nat) (s : State) : State :=
  if s.dump.fatal.isSome then s
  else
    let s := lifeFlush (lifeAdd 0xA80 1 s)
    let d := dumpBytes cause s
    { s with dump := { s.dump with fatal := some cause, image := cellsOf d 0 [], size := d.length } }

/-- DEVICE_FATAL (R476): an uncorrectable error charged to tag 0, a failure of the root of trust or of the timebase. -/
def execDeviceFatal (cause : Nat) (s : State) : Host.Outcome State Fault Refusal :=
  .next (if 1 ≤ cause ∧ cause ≤ 3 then goFatal cause s else s)

end Sys2Proof.Machine
end

