-- ==== Sys2Proof/Machine/Boundary.lean ====
section
/-!
DEFINITION. What comes about at a run boundary of a group before its next run issues: asynchronous stops (spec/01 R32),
delivery of WATCHPOINT (spec/17 R416) and PC match entries (R411, R412); and fetching an instruction (spec/02 R42–R47).
-/
namespace Sys2Proof.Machine

/-- Halt the group in focus, with a trace record (R417, R418, R420). -/
def haltNow (ty payload : Nat) (s : State) : State :=
  let s := onG Group.halt s
  traceMine ty s.g.pc (BitVec.ofNat 32 payload) s.g.em s

/-- WATCHDOG lands (R33, R35, R343): no handler is entered, the group stops. -/
def watchdogStop (s : State) : State :=
  let s := onG (recordFault { cause := cWDOG, land := some (s.g.pc, 0) }) s
  let s := traceMine 1 s.g.tpc s.g.tcause s.g.tem s
  withBroken s.g.uid (endGroup .stopped s.g.pc s)

/-- Does a pending stop land now? One on its way to the core does not (R432), nor a step that has not begun (R421), nor
a pre-emption, which FINE_PREEMPTION collects (R336); a halt lands while a port's answer is awaited (R433). -/
def stopReady (x : Group) : Bool :=
  x.runPos == 0 && match x.stop with
  | some .halt => true
  | some .stepped => true
  | some .steppedWait => true
  | some .external => x.stat != .port
  | some .watchdog => x.stat != .port
  | _ => false

/-- PAYLOAD of the record that ends the step of a group that waited: 0 where it waits still (R421). -/
def stepPayload (x : Group) : Nat :=
  match x.stat with
  | .waiting _ => 0
  | _ => 1

/-- The pending stop of the group in focus lands (R32). A pre-emption leaves the group stopped for its save. -/
def landStop (s : State) : State :=
  match s.g.stop with
  | some .halt => haltNow 3 s.g.skid s
  | some .stepped => haltNow 4 1 s
  | some .steppedWait => haltNow 4 (stepPayload s.g) s
  | some .watchdog => watchdogStop s
  | some .external => onG (fun x => { x.recordStop with stop := none }.reissue) s
  | _ => s

/-- Is a WATCHPOINT to be delivered (R416)? -/
def hitReady (x : Group) : Bool := x.runPos == 0 && x.stat == .running && x.hits.any (·.2 == 0)

/-- WATCHPOINT is raised in the group in focus: the earliest hit is delivered, the others drop (R33, R416). -/
def deliverHit (s : State) : State :=
  match s.g.hits.find? (·.2 == 0) with
  | none => s
  | some h =>
    let s := onG (fun x => { x with hits := x.hits.filter (·.2 != 0) }) s
    takeFault { cause := cWATCH, land := some (s.g.pc, h.1) } s

/-- The lowest-numbered PC match entry that matches the group in focus at its run start (R411, R412). -/
def pcMatch (s : State) : Option Nat :=
  let x := s.g
  if x.runPos != 0 || x.shadowed || x.noMatch || x.stat != .running then none
  else
    let core := coreOf s.t x
    let k (e : Nat) : Nat := obsKey s.t.tag (core / 12) (0x2000 + 0x800 * (core % 12) + 0x20 * e)
    (List.range 32).find? fun e =>
      let pm := (peek s.obs (k e)).toNat
      let fl := peek s.obs (k e + 8)
      let gm : Word := fl.extractLsb' 32 32
      bit pm 0 && bits pm 2 54 == x.pc.toNat / 4 && (myGid s &&& gm) == ((fl.extractLsb' 0 32 : Word) &&& gm)

/-- Entry e fires (R40, R412). -/
def fireMatch (e : Nat) (s : State) : State :=
  let core := coreOf s.t s.g
  let h := (peek s.obs (obsKey s.t.tag (core / 12) (0x2000 + 0x800 * (core % 12) + 0x20 * e + 0x10))).toNat
  let s := onG (fun x => { x with tpc := x.pc, tem := x.em &&& x.all }) s
  let s := traceMine 5 s.g.tpc (BitVec.ofNat 32 e) s.g.tem (countMine 12 1 s)
  let entry : VA := BitVec.ofNat 56 (bits h 5 51 * 32)
  let s := enterShadow .pcMatch entry s
  if entry = 0 then onG (fun x => { x with pc := 0 }) s else s

/-! ### Fetch -/

/-- What fetch finds at the PC: an instruction, or a fault. -/
inductive Fetched where
  | instr (i : Instr)
  | fault (f : FaultInfo)
  deriving Repr

/-- The fault of a fetch at an address. -/
def fetchFault (cause : Nat) (va : VA) : Fetched := .fault { cause := cause, va := va.toNat, fetch := true }

/-- Does a PC-match handler fetch at address 0 (R413)? -/
def nullEntry (s : State) : Bool :=
  s.g.pc == 0 && (match s.g.sh with | some h => h.kind == .pcMatch | none => false)

/-- A word of the instruction at the PC, with the fault of its fetch (R299, R303, R472). DESIGN CHOICE (log 94): the fetch at
address 0 that R413 has fault in a PC-match handler raises PERM, whatever the page tables hold there. -/
def fetchAt (s : State) (n : Nat) : Except Fetched Word :=
  let va := s.g.pc + BitVec.ofNat 56 (4 * n)
  if nullEntry s then .error (fetchFault cPERM 0)
  else match fetchWord s va with
  | .error k => .error (fetchFault k va)
  | .ok (w, p) => if p then .error (fetchFault cECC va) else .ok w

/-- Fetch and decode at the PC (R42–R47, R73): a word of LEN 3 first, then FETCH_SPLIT, then the encoding checks, the
failing specifiers of an illegal operand together with those that depend on the group. -/
def fetch (s : State) : Fetched :=
  match fetchAt s 0 with
  | .error f => f
  | .ok w0 =>
    let len := (w0.extractLsb' 0 2 : BitVec 2).toNat
    if len = 3 then .instr (.unassignedOpc w0)
    else
      let n := len + 2
      if 32 < s.g.pc.toNat % 32 + 4 * n then .fault { cause := cSPLIT }
      else match fetchAt s 1, (if 2 < n then fetchAt s 2 else .ok 0), (if 3 < n then fetchAt s 3 else .ok 0) with
        | .error f, _, _ => f
        | _, .error f, _ => f
        | _, _, .error f => f
        | .ok w1, .ok w2, .ok w3 =>
          match decode w0 w1 w2 w3 with
          | .ok i => .instr i
          | .error _ =>
            match issueFault (Enc.ofWords w0 w1 w2 w3) s with
            | some f => .fault f
            | none => .fault { cause := cILLENC }

/-- A fetched word that is no instruction: a pad word is skipped (R43, R44), one with other bits set raises ILLEGAL_ENC, any
other word ILLEGAL_OPC (R71). -/
def execUnassignedOpc (w : Word) (s : State) : Host.Outcome State Fault Refusal :=
  .next (if w = padWord then settle false { s with g := { s.g with pc := normPc s (s.g.pc + 4) } }
    else takeFault { cause := if isPadLen w then cILLENC else cILLOPC } s)

end Sys2Proof.Machine
end

