-- ==== Sys2Proof/Machine/Place.lean ====
section
/-!
DEFINITION. Launch descriptors (spec/10 R287–R290, R294) and the placing and resuming of teams on cores (spec/12
R325–R333, R341): seats, slots, register file, scratchpad, tiles and loft.
-/
namespace Sys2Proof.Machine

/-! ### Launch descriptors -/

/-- A role entry (R288); none where it breaks the limits. -/
def parseRole (n : Nat) : Option RoleEntry :=
  let w := n / 2 ^ 56
  let e := n % 2 ^ 56
  if 32 < w ∨ e % 32 ≠ 0 ∨ (w = 0 ∧ e ≠ 0) ∨ (w ≠ 0 ∧ e = 0) then none else some ⟨8 * w, BitVec.ofNat 56 e⟩

/-- The largest window over the present roles (R289). -/
def Desc.wmax (d : Desc) : Nat := d.roles.foldl (fun m r => Nat.max m r.win) 0

/-- A launch descriptor from its 128 bytes; none where it breaks R287 or R288. -/
def parseDesc (bs : List Byte) : Option Desc :=
  let f := field bs
  let roles := (List.range 8).map fun i => parseRole (f (0x20 + 8 * i) 8)
  let ok := f 0 8 % 32 == 0 && [16, 32, 64].contains (f 8 1) && decide (f 9 1 ≤ 31) && decide (f 0xA 1 < 16)
    && f 0xC 4 % 256 == 0 && decide (f 0xC 4 ≤ 2097152) && decide (f 0x10 2 ≤ 512) && f 0x12 2 % 16 == 0
    && f 0x14 4 % 16 == 0 && f 0x18 8 % 16 == 0 && f 0x60 8 % 16 == 0 && f 0x68 24 == 0
    && roles.all (·.isSome) && decide (f 0x20 8 ≠ 0) && decide (f 0xB 1 * 16 + (f 9 1 + 1) * f 0x12 2 ≤ f 0xC 4)
    && (f 0x14 4 == 0 || f 0x18 8 != 0)
  let d : Desc := { handler := BitVec.ofNat 56 (f 0 8), gw := f 8 1, ngrp := f 9 1 + 1, coop := bit (f 0xA 1) 0,
                    ofile := bit (f 0xA 1) 1, fz := BitVec.ofNat 2 (f 0xA 1 / 4), barriers := f 0xB 1, pad := f 0xC 4,
                    ztiles := f 0x10 2, pdstk := f 0x12 2, gstksz := f 0x14 4, gstack := f 0x18 8,
                    roles := roles.filterMap id, livemap := BitVec.ofNat 56 (f 0x60 8) }
  if ok && decide (d.gw * d.wmax * 4 * d.ngrp ≤ 2 ^ 20) then some d else none

/-- Does a liveness table keep R294: counts, order, zero bytes? -/
def liveTableOk (s : State) (tag base : Nat) : Bool :=
  if base = 0 then true
  else match vBytes s tag base needR 16 with
    | .error _ => false
    | .ok h =>
      let n := field h 0 4
      let ent (i : Nat) : Option (List Byte) := (vBytes s tag (base + 16 + 96 * i) needR 96).toOption
      let off (i : Nat) : Option Int := (ent i).map fun b => sextNat (field b 0 4) 32
      field h 4 12 == 0 && (List.range n).all fun i => match ent i with
        | none => false
        | some b => decide (field b 4 1 ≤ 4) && field b 6 2 == 0 && field b 0x34 4 == 0 && field b 0x58 8 == 0 &&
            ((List.range 4).all fun k => decide (k < field b 4 1) || field b (0x38 + 8 * k) 8 == 0) &&
            (i == 0 || (match off (i - 1), off i with | some x, some y => decide (x < y) | _, _ => false))

/-! ### Resources (R328) -/

/-- Does a team hold resources of its core: it is placed and not saved? -/
def Team.holds (t : Team) : Bool := t.uid != 0 && (t.resid == .resident || t.resid == .saving || t.resid == .ending)

/-- Is a team saved in the loft? -/
def Team.isSaved (t : Team) : Bool := t.uid != 0 && (t.resid == .saved || t.resid == .savedBarrier)

/-- Groups that occupy slots of a core, with the descriptor of their team. -/
def groupsAt (s : State) (core : Nat) : List (Nat × Desc) :=
  (allGroups s).filterMap fun x =>
    if x.uid = 0 then none
    else match findTeam s x.team with
      | some t => if t.holds && coreOf t x == core then some (x.slot % 64, t.desc) else none
      | none => none

/-- Register-file bytes of a group (R289). -/
def Desc.rf (d : Desc) : Nat := d.wmax * d.gw * 4

/-- Does a scheduler have room for one more group: a free slot, the lowest, and register file (R145, R289)? -/
def slotFor (used : List (Nat × Nat)) (q bytes : Nat) : Option Nat :=
  if (used.filter fun u => u.1 / 16 = q).foldl (fun n u => n + u.2) 0 + bytes ≤ 256 * 1024 then
    ((List.range 16).map fun i => 16 * q + i).find? fun k => !used.any (·.1 == k)
  else none

/-- Slots of the groups of a team, in order of GIDX: on a pair, the first half on the lower core (R328). -/
def assignSlots (d : Desc) (pair : Bool) (lo hi : List (Nat × Nat)) : Nat → Option (List Nat)
  | 0 => some []
  | n + 1 =>
    match assignSlots d pair lo hi n with
    | none => none
    | some ks =>
      let upper := pair && decide ((d.ngrp + 1) / 2 ≤ n)
      let mine := ks.filterMap fun k => if (decide (64 ≤ k)) == upper then some (k % 64, d.rf) else none
      match slotFor ((if upper then hi else lo) ++ mine) (n % 4) d.rf with
      | some k => some (ks ++ [if upper then k + 64 else k])
      | none => none

/-- Scratchpad bytes of a team on a core (R328). -/
def padShare (t : Team) (core : Nat) : Nat :=
  if t.pair then (if t.core = core then 2 ^ 20 else t.desc.pad - 2 ^ 20) else t.desc.pad

/-- Scratchpad bytes in use on a core. -/
def padUsed (s : State) (core : Nat) : Nat :=
  (allTeams s).foldl (fun n t => if t.holds && t.on core then n + padShare t core else n) 0

/-- The loft image of a team (R332). -/
def Desc.image (d : Desc) : Nat := ((8192 + d.rf) * d.ngrp + d.pad + 16384 * d.ztiles + 4095) / 4096 * 4096

/-- Loft bytes in use on a slice (R332). -/
def loftUsed (s : State) (slice : Nat) : Nat :=
  (allTeams s).foldl (fun n t => if t.lives && t.image && t.slice == slice then n + t.desc.image else n) 0

/-- Has the loft room for the image that a team is to be saved in? One that has resumed gave its image back and takes one
anew (R332; log 99). -/
def loftRoom (s : State) (t : Team) : Bool := t.image || decide (loftUsed s t.slice + t.desc.image ≤ loftBytes)

/-- Does a team occupy a seat of a core? A saved team keeps its seat (R336). -/
def seatTaken (s : State) (core seat : Nat) : Bool := (allTeams s).any fun t => t.lives && t.on core && t.seat == seat

/-- Does a multicast in flight hold the generation of a seat (R322, R327)? -/
def castHolds (s : State) (core seat : Nat) (swarm : Option Nat) : Bool :=
  s.ops.any fun o => match o.kind with
    | .amc _ _ ts => ts.any fun x => x.1 == core && x.2.1 != 0 &&
        (match findTeam s x.2.1 with
         | some t => t.seat == seat && (match swarm with
            | some w => t.swarm == w
            | none => x.2.2 == (peek s.gens (64 * core + seat)).toNat)
         | none => false)
    | _ => false

/-- Does a swarm hold a seat number in a cluster (R327)? -/
def swarmHolds (s : State) (swarm cl seat : Nat) : Bool :=
  ((List.range 4).any fun i => (allTeams s).any fun t =>
    t.lives && t.on (4 * cl + i) && t.seat == seat && t.swarm == swarm) ||
    (List.range 4).any fun i => castHolds s (4 * cl + i) seat (some swarm)

/-- Does another swarm hold it? -/
def otherHolds (s : State) (swarm cl seat : Nat) : Bool :=
  ((List.range 4).any fun i => (allTeams s).any fun t =>
    t.lives && t.on (4 * cl + i) && t.seat == seat && t.swarm != swarm) ||
    (s.ops.any fun o => match o.kind with
      | .amc _ _ ts => ts.any fun x => clusterOf x.1 == cl && (match findTeam s x.2.1 with
          | some t => t.seat == seat && t.swarm != swarm
          | none => false)
      | _ => false)

/-- The seat number that a team of a swarm takes on its cores (R327). -/
def seatFor (s : State) (swarm : Nat) (cores : List Nat) : Option Nat :=
  let cl := clusterOf (cores.headD 0)
  let free (n : Nat) : Bool := cores.all fun c => !seatTaken s c n && !castHolds s c n none
  match (List.range 16).find? fun n => swarmHolds s swarm cl n && free n with
  | some n => some n
  | none => (List.range 16).find? fun n => free n && !otherHolds s swarm cl n

/-- The slots of a core in use, with their register file bytes. -/
def usedAt (s : State) (core : Nat) : List (Nat × Nat) := (groupsAt s core).map fun g => (g.1, g.2.rf)

/-- Do the resources of R328 but seat and loft fit, and in which slots? -/
def fitSlots (s : State) (d : Desc) (core tiles : Nat) (pair : Bool) : Option (List Nat) :=
  let cs : List Nat := if pair then [core, core + 1] else [core]
  let probe : Team := { Team.blank with core := core, pair := pair, desc := d }
  if (cs.all fun c => decide (padUsed s c + padShare probe c ≤ 2 ^ 20) && decide (tilesUsed s c + tiles ≤ 512)) then
    assignSlots d pair (usedAt s core) (usedAt s (core + 1)) d.ngrp
  else none

/-- Does a team span a core pair (R66, R328)? -/
def Desc.pair (d : Desc) : Bool := decide (2 ^ 20 < d.pad)

/-- Seat and slots of a team on a core, if it fits there now (R329). -/
def fitAt (s : State) (swarm : Nat) (d : Desc) (core : Nat) : Option (Nat × List Nat) :=
  let pair := d.pair
  if pair && core % 2 == 1 then none
  else if loftBytes < loftUsed s (core / 12) + d.image then none
  else match seatFor s swarm (if pair then [core, core + 1] else [core]), fitSlots s d core d.ztiles pair with
    | some n, some ks => some (n, ks)
    | _, _ => none

/-- May a core take new teams of a tag (R330, R448, R470)? -/
def placeable (s : State) (tag core : Nat) : Bool :=
  clusterServes s tag (clusterOf core) && !(getFn s tag).noPlace.getLsbD (core / 12)

/-- The core, seat and slots that the dispatcher takes among some cores (R330). -/
def fitIn (s : State) (tag swarm : Nat) (d : Desc) (cores : List Nat) : Option (Nat × Nat × List Nat) :=
  (cores.filter (placeable s tag)).findSome? fun c => (fitAt s swarm d c).map fun r => (c, r.1, r.2)

/-! ### Placing -/

/-- The launch inputs of a group (R290). -/
def launchRegs (d : Desc) (team gidx : Nat) (argp arg slot : Nat) : Cells 32 :=
  let top := if d.gstack = 0 then 0 else d.gstack + (team * d.ngrp + gidx + 1) * d.gstksz
  let pair (r x : Nat) (m : Cells 32) : Cells 32 :=
    poke (poke m r (BitVec.ofNat 32 x)) (r + 1) (BitVec.ofNat 32 (x / 2 ^ 32))
  poke (pair 58 top (pair 4 slot (pair 2 arg (pair 0 argp [])))) 62 (BitVec.ofNat 32 (d.pad - gidx * d.pdstk))

/-- One more start in a group slot (R145). -/
def startSlot (core slot : Nat) (s : State) : Nat × State :=
  let k := 64 * core + slot % 64
  let n := peek s.inst k + 1
  (n.toNat, { s with inst := poke s.inst k n })

/-- Argument value and slot that a group starts with (R290). -/
def Origin.inputs : Origin → Nat × Nat
  | .launch => (0, 0)
  | .task sl arg _ => (arg.toNat, sl)
  | .batch sls arg _ => (arg.toNat, sls.headD 0)

/-- Start group gidx of a team in a slot, with its trace record of type 0x08: the start of a task acquires what its record
carries (R311, R320). On a cluster that a debugger holds the group starts halted (R418; log 100). -/
def startGroup (t : Team) (gidx slot : Nat) (sig : BitVec 1024) (entry : VA) (s : State) : State :=
  let core := t.core + (if t.pair then slot / 64 else 0)
  let (n, s) := startSlot core slot s
  let (u, s) := newUid s
  let d := t.desc
  let ins := Origin.inputs t.origin
  let em := laneMask d.gw
  let pc := normPc { s with t := t } entry
  let regs : Bank := { Bank.empty with g := launchRegs d t.idx gidx t.argp.toNat ins.1 ins.2 }
  let x : Group := { Group.blank with uid := u, team := t.uid, slot := slot, inst := n, gidx := gidx, gw := d.gw,
                                      start := s.tick, stat := .running, pc := pc, em := em, live := em, regs := regs,
                                      fmode := d.fz, sig := sig, halted := clusterHalted s t.tag (clusterOf core) }
  let s := if t.origin = .launch then s else acquireL1 t.tag core sig s
  trace t.tag core 8 pc (gidOf core slot n) 0 em { s with gs := s.gs ++ [x] }

/-- Place a team on a core with its seat and slots, and start every group (R329). -/
def putTeam (proto : Team) (entry : VA) (sig : BitVec 1024) (core seat : Nat) (slots : List Nat) (s : State) : State :=
  let (u, s) := newUid s
  let cs : List Nat := if proto.desc.pair then [core, core + 1] else [core]
  let tiles := cs.flatMap fun c => (List.range proto.desc.ztiles).map fun n => Tile.mk c n [] []
  let t : Team := { proto with uid := u, slice := core / 12, core := core, pair := proto.desc.pair, seat := seat,
                               resid := .resident, image := true, tiles := tiles, placedAt := s.tick }
  let s := { s with ts := s.ts ++ [t] }
  (List.range slots.length).foldl (fun s i => startGroup t i (slots.getD i 0) sig entry s) s

/-- Forget groups and teams that are gone: nothing can name them any more. -/
def sweep (s : State) : State :=
  let keep := s.ts.filter fun t => t.resid != .gone
  let used (u : Nat) : Bool := s.t.uid == u || keep.any (·.uid == u) || s.runs.any (·.team == u)
  { s with ts := s.ts.filter (fun t => used t.uid), gs := s.gs.filter (fun x => used x.team) }

/-! ### Resuming -/

/-- The slots in which a saved team fits on its own core (R341). -/
def fitSaved (s : State) (t : Team) : Option (List Nat) :=
  let n (c : Nat) : Nat := (t.tiles.filter (·.core == c)).length
  fitSlots s t.desc t.core (Nat.max (n t.core) (n (t.core + 1))) t.pair

/-- A group of a team that resumes, in its new slot: a wait is issued again (R209), a group parked at a stop point runs on,
and on a halted cluster it is halted (R418, R422; log 100). -/
def Group.resume (slot inst : Nat) (halt : Bool) (x : Group) : Group :=
  let y : Group := { x with slot := slot, inst := inst, halted := x.halted || halt }
  let x := if y.halted then y else y.reissue
  match x.stat with
  | .barrier _ => { x with stat := .running }
  | _ => x

/-- Take again the lock entry that a save released, where the core's table has one free (R210). -/
def relock (uid : Nat) (s : State) : State :=
  match findGroup s uid with
  | none => s
  | some x =>
    match findTeam s x.team with
    | none => s
    | some t =>
      if x.lockLost && decide (locksUsed s (coreOf t x) < 64) then
        updGroup uid (fun x => { x with lockRes := true, lockLost := false }) s
      else s

/-- Bring a saved team back (R338, R341): new slots and starts, its remap entries and loft image gone, lock entries taken
again; the L1 of its cores keeps no copy of an earlier time, and what the port held lands (R338). -/
def resumeTeam (uid : Nat) (slots : List Nat) (s : State) : State :=
  match findTeam s uid with
  | none => s
  | some t =>
    let gs := (groupsOf s uid).filter fun x => !x.over
    let s := gs.foldl (fun s x =>
      let slot := slots.getD x.gidx 0
      let core := t.core + (if t.pair then slot / 64 else 0)
      let r := startSlot core slot s
      updGroup x.uid (Group.resume slot r.1 (clusterHalted s t.tag (clusterOf core))) r.2) s
    let s := { s with slices := s.slices.map fun z => { z with remap := z.remap.filter (· != uid) },
                      l1 := s.l1.filter fun l => !t.on l.core }
    let s := updTeam uid (fun t => { t with resid := .resident, sliceEnd := none, image := false }) s
    landHeld (gs.foldl (fun s x => relock x.uid s) s)

/-! ### The ready set (R325) -/

/-- Work of the ready set. -/
inductive Ready where
  | sub (x : Sub)
  | work (w : Work)
  deriving DecidableEq, Repr

/-- The keys of R325: class, deadline, entry, then queue before node and index. -/
def Ready.key : Ready → Nat × Nat × Nat × Nat × Nat
  | .sub x => (bits x.flags 1 2, x.deadline.toNat, x.start, 0, x.q)
  | .work w => (w.cls, w.deadline.toNat, w.entry, if w.node then 2 else 1, w.idx)

/-- Does the first stand before the second in the order of R325? -/
def Ready.before (a b : Ready) : Bool :=
  let x := a.key
  let y := b.key
  let bg (n : Nat) : Bool := n == 2
  if bg x.1 != bg y.1 then bg y.1
  else if !bg x.1 && x.2.1 != y.2.1 then decide (x.2.1 < y.2.1)
  else if x.1 != y.1 then decide (x.1 < y.1)
  else if x.2.2.1 != y.2.2.1 then decide (x.2.2.1 < y.2.2.1)
  else if x.2.2.2.1 != y.2.2.2.1 then decide (x.2.2.2.1 < y.2.2.2.1)
  else decide (x.2.2.2.2 < y.2.2.2.2)

/-- Insert, after what stands before it or ties. -/
def insReady (a : Ready) : List Ready → List Ready
  | [] => [a]
  | b :: bs => if a.before b then a :: b :: bs else b :: insReady a bs

/-- The work of a tag whose teams are still to be placed or resumed, in the order of R325. -/
def readyOf (s : State) (tag : Nat) : List Ready :=
  let saved (x : Sub) : Bool := (allTeams s).any fun t => t.isSaved && t.origin == .launch && t.sub == x.uid
  let xs := (s.subs.filter fun x => x.tag == tag && x.started && !x.finished && x.desc.isSome &&
    (decide (x.next < x.teams) || saved x)).map Ready.sub
  let ws := (s.ready.filter (·.tag == tag)).map Ready.work
  (xs ++ ws).foldl (fun l a => insReady a l) []

/-- The work a resident team belongs to, for the order of R325. -/
def Ready.ofTeam (s : State) (t : Team) : Option Ready :=
  match t.origin with
  | .launch => (findSub s t.sub).map .sub
  | _ => (runOf s t.uid).map fun r => .work r.work

end Sys2Proof.Machine
end

