-- ==== Sys2Proof/Machine/Sync.lean ====
section
/-!
DEFINITION. Barrier, wait, watch and batch instructions (spec/07 R204–R214) and stop points (spec/10 R294, R295,
spec/12 R339).
-/
namespace Sys2Proof.Machine

/-- The object operand (R205, R206). -/
def objAddr (x : Group) (a : Opnd) : Nat := (src32 x a 0).toNat

/-- Is the address one of the special objects (R210)? -/
def isSpecial (o : Nat) : Bool := o == objBatch || o == objLock

/-- What an object address raises (R206, R210, R214); `waitp` alone accepts the special objects. -/
def objFault (t : Team) (o : Nat) (special : Bool) : Option FaultInfo :=
  if o % 16 ≠ 0 then some { cause := cMISALIGN }
  else if isSpecial o then (if special then none else some { cause := cBARRIER })
  else if t.desc.pad = 0 then some { cause := cPADB }
  else if 16 * t.desc.barriers ≤ o then some { cause := cBARRIER }
  else none

/-- Does a group wait on an object, on any path (R207)? -/
def waitsOn (x : Group) (o : Nat) : Bool :=
  (match x.stat with | .waiting w => w.obj == o | _ => false) ||
    (x.regs.stk ++ (match x.sh with | some h => h.bank.stk | none => [])).any fun d =>
      match d.other with
      | .waiting _ m w => m != 0 && w.obj == o
      | _ => false

/-- The body of an instruction on an object: its guard, its address check, and `f` on the object. -/
def onObj (h : Hdr) (a : Opnd) (f : Nat → Enc → State → Act) : Enc → State → Act := fun e s =>
  if s.g.active h.toGuard = 0 then .ok (seqNext e s)
  else
    let o := objAddr s.g a
    match objFault s.t o false with
    | some x => .fault x
    | none => f o e s

/-- BARRIER_MISUSE. -/
def misuse : Act := .fault { cause := cBARRIER }

/-- `bini` (R207). -/
def execBini (h : Hdr) (a b c : Opnd) (s : State) : Host.Outcome State Fault Refusal :=
  issue (.bini h a b c) s (onObj h a fun o e s =>
    let n := (src32 s.g b 0).toNat
    if n = 0 ∨ 65535 < n ∨ (groupsOf s s.t.uid).any (waitsOn · o) then misuse
    else
      let x : BObj := { xb := 0, cb := 0, xarr := n, carr := 0, phase := (src32 s.g c 0).toNat % 2 ^ 16, flags := 0x8000 }
      .ok (seqNext e { s with t := setCarrier o 0 (setCarrier (o + 8) 0 (padWrite o 16 x.num s.t)) }))

/-! ### Stop points -/

/-- The liveness entry of an address in a team's kernel: its 96 bytes (R294, R295). -/
def liveEntry (s : State) (t : Team) (pc : VA) : Option (List Byte) :=
  if t.desc.livemap = 0 then none
  else
    let base := t.desc.livemap.toNat
    let off : Int := (pc.toNat : Int) - ((t.desc.roles.getD 0 ⟨0, 0⟩).entry.toNat : Int)
    match vNat s t.tag base 4 with
    | none => none
    | some n => (List.range n).findSome? fun i =>
      match vBytes s t.tag (base + 16 + 96 * i) needR 96 with
      | .ok bs => if sextNat (field bs 0 4) 32 = off then some bs else none
      | .error _ => none

/-- The tick at which stopping the team at barrier points began: at the end of its context's time slice (R339), or when an
operator forced a shrink on its swarm (R334). -/
def stopsSince (s : State) (t : Team) : Option Nat :=
  let x := getSlice s t.slice
  if x.ending.isSome && x.prev == t.tag then x.ending else t.sliceEnd

/-- Is the team being stopped at barrier points? -/
def stopsAtBarriers (s : State) (t : Team) : Bool := (stopsSince s t).isSome

/-- `arv` (R208): a release; at a stop point of an outgoing context the group parks (R339). -/
def execArv (h : Hdr) (sc : Scope) (d a : Opnd) (s : State) : Host.Outcome State Fault Refusal :=
  issue (.arv h sc d a) s (onObj h a fun o e s =>
    let ob := getObj s.t o
    if !ob.valid || ob.carr == ob.xarr then misuse
    else
      let sig : BitVec 1024 := if fallback s s.t.tag then 0 else s.g.sig
      let park := stopsAtBarriers s s.t && (liveEntry s s.t s.g.pc).isSome
      let s := onG (fun x => { x with unack := 0, pend := x.pend.filter (·.sfu), sig := 0 }) s
      let s := { s with t := storeObj o { ob with carr := ob.carr + 1 } sig s.t }
      let s := wrG e d false (s.g.active h.toGuard) (BitVec.ofNat 64 ob.phase) s
      let at_ := s.g.pc
      let s := seqNext e s
      .ok (if park then onG (fun x => { x with stat := .barrier at_ }) s else s))

/-- `xpct` (R208). -/
def execXpct (h : Hdr) (a b : Opnd) (s : State) : Host.Outcome State Fault Refusal :=
  issue (.xpct h a b) s (onObj h a fun o e s =>
    let ob := getObj s.t o
    let n := ob.xb + (src32 s.g b 0).toNat
    if !ob.valid || decide (2 ^ 32 ≤ n) then misuse
    else .ok (seqNext e { s with t := storeObj o { ob with xb := n } 0 s.t }))

/-- `waitp` (R209, R210). -/
def execWaitp (h : Hdr) (sc : Scope) (a b : Opnd) (s : State) : Host.Outcome State Fault Refusal :=
  issue (.waitp h sc a b) s fun e s =>
    if s.g.active h.toGuard = 0 then .ok (seqNext e s)
    else
      let o := objAddr s.g a
      match objFault s.t o true with
      | some x => .fault x
      | none =>
        if !isSpecial o && !(getObj s.t o).valid then misuse
        else
          let w := newWait s o ((src32 s.g b 0).toNat % 2 ^ 16) sc none e.f.bytes
          .ok (if waitPassed s s.g w then seqNext e (finishWait w s) else suspendWait w s)

/-- Does a line lie in a completion ring of the tag's shed rings (R213, R451)? -/
def inShedRing (s : State) (tag va : Nat) : Bool :=
  match (getFn s tag).ctx with
  | some c => c.rings.any fun r => decide (r.cplBase < va / 128 * 128 + 128) && decide (va / 128 * 128 < r.cplBase + 16 * 2 ^ r.logn)
  | none => false

/-- `watch` (R212, R213). -/
def execWatch (h : Hdr) (a b : Opnd) (s : State) : Host.Outcome State Fault Refusal :=
  issue (.watch h a b) s (onObj h a fun o e s =>
    let va := (srcU s.g true b).toNat % 2 ^ 56 / 2 * 2
    let ob := getObj s.t o
    if !ob.valid then misuse
    else match xlate s s.t.tag (coreOf s.t s.g) va needR with
      | .error c => .fault { cause := if c = cPAGE then cPAGE else cPERM, va := va }
      | .ok x =>
        let ext := x.target != 0 || inShedRing s s.t.tag va
        let t := if ext then padWrite o 16 { ob with flags := ob.flags / 2 * 2 + 1 }.num s.t else s.t
        let s := tlbPut x.ent { s with t := t }
        .ok (seqNext e (arm ⟨coreOf s.t s.g, s.t.uid, o, some (va / 128), none⟩ s)))

/-- `bcls` (R211). -/
def execBcls (h : Hdr) (d : Opnd) (s : State) : Host.Outcome State Fault Refusal :=
  issue (.bcls h d) s fun e s =>
    let act := s.g.active h.toGuard
    if act = 0 then .ok (seqNext e s)
    else if 32768 < s.g.closed + 1 - firstBusy s s.g.uid (s.g.closed + 1) then misuse
    else
      let n := s.g.closed % 2 ^ 16
      let s := wrG e d false act (BitVec.ofNat 64 n) s
      .ok (seqNext e (onG (fun x => { x with closed := x.closed + 1, batch := BitVec.ofNat 16 n }) s))

end Sys2Proof.Machine
end

