-- ==== Sys2Proof/Machine/Task.lean ====
section
/-!
DEFINITION. Tasks and roles: `talc`, `tsub`, `tsig`, `tend`, `role` (spec/09 R259–R270), and the device's steps on
records, batches and slots (spec/13 R345–R361, R368).
-/
namespace Sys2Proof.Machine

/-- `talc` (R262–R264). -/
def execTalc (h : Hdr) (d a : Opnd) (s : State) : Host.Outcome State Fault Refusal :=
  issue (.talc h d a) s fun e s =>
    let act := s.g.active h.toGuard
    if act = 0 then .ok (seqNext e s)
    else
      let v := (src32 s.g a 0).toNat
      let pool := bits v 0 16
      let obj := bits v 24 8
      if bits v 16 8 ≠ 0 ∨ (poolsOf s s.t.tag).length ≤ pool then .fault { cause := cTASK }
      else if obj ≠ 255 ∧ (s.t.desc.barriers ≤ obj ∨ !(getObj s.t (16 * obj)).valid) then misuse
      else
        let put (v : Nat) (s : State) : Act := .ok (seqNext e (pendOn (pendKeys e d 2 s.g.runPos) (wrG e d true act (BitVec.ofNat 64 v) s)))
        match takeSlot s.t.tag pool (.held s.t.uid) s with
        | some (va, s) => put va s
        | none =>
          if obj = 255 then put 0xFFFFFFFF s
          else
            let ph := (getObj s.t (16 * obj)).phase
            put (0xFFFFFFFF + 2 ^ 32 * ph) (arm ⟨coreOf s.t s.g, s.t.uid, 16 * obj, none, some pool⟩ s)

/-- The signature that a release of the group in focus hands over (R320, R321). -/
def sigOut (s : State) : BitVec 1024 := if fallback s s.t.tag then 0 else s.g.sig

/-- The waits of a release, and the group's signature handed over (R318, R320). -/
def releaseOut (s : State) : State := onG (fun x => { x with sig := 0 }) (releaseWait s)

/-- The kind of the pool that holds a slot. -/
def poolKindAt (s : State) (va : Nat) : Option (Nat × PoolKind) :=
  match slotAt s s.t.tag va with
  | some (i, _) => ((poolsOf s s.t.tag)[i]?).map fun p => (i, p.kind)
  | none => none

/-- Does a handle name a queue or node of the tenant that the slot's pool may go to (R265, R351)? For a node, its
entry. -/
def tsubTarget (s : State) (node : Bool) (hd va : Nat) : Option (Option Nat) :=
  match (getFn s s.t.tag).ctx, poolKindAt s va with
  | some c, some (i, k) =>
    if 2 ^ 16 ≤ hd then none
    else if node then
      match c.nodes[hd]? with
      | some n => if n.pool = i then some (some n.entry) else none
      | none => none
    else if k = .queue ∧ (hd = 0xFFFF ∨ hd < c.queues.length) then some none
    else none
  | _, _ => none

/-- `tsub` (R265, R266, R351, R352). -/
def execTsub (h : Hdr) (node : Bool) (sc : Scope) (a b : Opnd) (s : State) : Host.Outcome State Fault Refusal :=
  issue (.tsub h node sc a b) s fun e s =>
    if s.g.active h.toGuard = 0 then .ok (seqNext e s)
    else
      let va := (srcU s.g true a).toNat % 2 ^ 56
      let hd := (src32 s.g b 0).toNat
      let park := !node && hd == 0xFFFF
      if va % 64 ≠ 0 then .fault { cause := cMISALIGN }
      else if slotState s s.t.tag va ≠ some (.held s.t.uid) then .fault { cause := cTASK }
      else match tsubTarget s node hd va with
        | none => .fault { cause := cTASK }
        | some nd =>
          match vBytes s s.t.tag va needR 64 with
          | .error (c, at_) => .fault { cause := c, va := at_ }
          | .ok raw =>
            if vPoison s s.t.tag va 64 then .fault { cause := cECC, va := va }
            else if !recordOk raw hd park nd then .fault { cause := cTASK }
            else
              let sig := sigOut s
              let s := releaseOut s
              if park then .ok (seqNext e (setRecSig s.t.tag va sig (setSlotState s.t.tag va (some .parked) s)))
              else
                let lv := if sc = .grp then Scope.team else sc
                .ok (seqNext e (submitRec s.t.tag va raw 0 node hd lv (bindOf s.t (coreOf s.t s.g) lv) (myGid s)
                  (peek s.gens (64 * s.t.core + s.t.seat)) (ancestors s s.t) sig none s))

/-- `tsig` (R267, R354). The group then waits for the station's answer. -/
def execTsig (h : Hdr) (sc : Scope) (a : Opnd) (s : State) : Host.Outcome State Fault Refusal :=
  issue (.tsig h sc a) s fun e s =>
    if s.g.active h.toGuard = 0 then .ok (seqNext e s)
    else
      let va := (srcU s.g true a).toNat % 2 ^ 56
      if va % 16 ≠ 0 then .fault { cause := cMISALIGN }
      else
        let sig := sigOut s
        match signal s.t.tag (coreOf s.t s.g) va (bindOf s.t (coreOf s.t s.g) sc) (myGid s) (peek s.gens (64 * s.t.core + s.t.seat))
            s.t.slice (ancestors s s.t) sig (releaseOut s) with
        | .error c => .fault { cause := c, va := va, write := true }
        | .ok s =>
          let s := wpGroup 2 [⟨0, coreOf s.t s.g, true, 0, va, 16⟩] s
          .ok (onG (fun x => { x with stat := .port }) (seqNext e s))

/-- `tend` (R268, R349). -/
def execTend (s : State) : Host.Outcome State Fault Refusal :=
  issue .tend s fun _ s =>
    if s.t.origin = .launch then .fault { cause := cTASK }
    else .ok (withBroken s.g.uid (endGroup .ended s.g.pc s))

/-- `role` (R269, R270). -/
def execRole (a : Opnd) (s : State) : Host.Outcome State Fault Refusal :=
  issue (.role a) s fun e s =>
    let x := s.g
    let n := (src32 x a 0).toNat
    if (s.t.desc.roles.getD n ⟨0, 0⟩).win = 0 ∨ x.bank.stk ≠ [] ∨ x.em ≠ x.live then .fault { cause := cROLE }
    else if 32768 < x.closed + 1 - firstBusy s x.uid (x.closed + 1) then misuse
    else
      let q := x.closed % 2 ^ 16
      let s := onG (fun x => { x with closed := x.closed + 1, batch := BitVec.ofNat 16 q }) s
      let w := newWait s objBatch q .grp (some n) e.f.bytes
      .ok (if waitPassed s s.g w then afterWait w s else suspendWait w s)

/-! ### Device steps on groups -/

/-- PORT_ANSWER (R188, R267): the group may issue again. -/
def execPortAnswer (grp : Nat) (s : State) : Host.Outcome State Fault Refusal :=
  .next (updGroup grp (fun x => if x.stat = .port then { x with stat := .running } else x) s)

/-- WAITP_WAKE (R209): a path whose phase has passed resumes; a halted group stays halted after its `waitp` (R434). -/
def execWaitpWake (grp : Nat) (s : State) : Host.Outcome State Fault Refusal :=
  let s := focus grp s
  .next (if s.g.uid = grp ∧ s.g.stop ≠ some .preempt ∧ s.t.resid = .resident then (wake s).getD s else s)

/-! ### Records, batches and slots -/

/-- STATION_LAUNCH (R359, R361): an entry whose pool has a free slot is copied there and submitted, in the order of the
station's swaps for its queue. -/
def execStationLaunch (st idx : Nat) (s : State) : Host.Outcome State Fault Refusal :=
  .next (
    let mine := s.launches.filter (·.station == st)
    match mine[idx]? with
    | none => s
    | some l =>
      let r := l.recd
      if (mine.take idx).any fun k => k.tag == l.tag && k.recd.idx == r.idx then s
      else match ((getFn s l.tag).ctx.bind fun c => c.queues[r.idx]?) with
        | none => s
        | some q =>
          match takeSlot l.tag q.pool .submitted s with
          | none => s
          | some (va, s) =>
            let due := recDue s s.tick r.bytes r.subs
            let s := (vWriteAll l.tag va r.bytes s).getD s
            let s := { s with launches := s.launches.erase l }
            enterRec { r with slot := va, entry := s.tick, deadline := due.1, cls := due.2 }
              (countCode l.tag (12 * (st / 8)) 0x28 1 s))

/-- NODE_BATCH_TIMEOUT (R357). -/
def execNodeBatchTimeout (tag node : Nat) (s : State) : Host.Outcome State Fault Refusal :=
  .next (closeDue tag node s)

/-- The tile of a coverage record (R366); none for another kind. -/
def recTile (r : TaskRec) : Option (Nat × Nat) :=
  if bits (recFlags r.bytes) 4 4 = 1 then some (field r.bytes 0x10 2, field r.bytes 0x12 2) else none

/-- Do two items of one node share a tile? -/
def shareTile (a b : Work) : Bool :=
  a.tag == b.tag && b.node && a.idx == b.idx &&
    a.recs.any fun r => (recTile r).isSome && b.recs.any fun q => recTile q == recTile r

/-- The tile interlock (R368): does an earlier batch that has not ended hold the item back? -/
def interlocked (s : State) (w : Work) : Bool :=
  w.node && ((s.ready.takeWhile (·.uid != w.uid)).any (shareTile w ·) ||
    s.runs.any fun r => shareTile w r.work && (groupsOf s r.team).any fun x => !x.over)

/-- The instance an item is bound to (R352, R357). -/
def Work.bind (w : Work) : Bind :=
  match w.recs with
  | [] => ⟨false, .dev, 0, 0⟩
  | r :: rs => rs.foldl (fun b r => b.join r.bind) r.bind

/-- The descriptor and entry of an item (R348): none where they cannot be read or break the rules. -/
def Work.kernel (s : State) (w : Work) : Option (Desc × VA) :=
  match (getFn s w.tag).ctx with
  | none => none
  | some c =>
    let at_ : Option (Nat × Nat) :=
      if w.node then (c.nodes[w.idx]?).map fun n => (n.ldesc, n.entry)
      else (c.queues[w.idx]?).map fun q => (q.ldesc, match w.recs with | r :: _ => field r.bytes 0 8 | [] => 0)
    match at_ with
    | none => none
    | some (ld, en) =>
      match vBytes s w.tag ld needR 128 with
      | .ok bs => match parseDesc bs with
        | some d => if d.ngrp = 1 then some (d, BitVec.ofNat 56 en) else none
        | none => none
      | .error _ => none

/-- Core, seat and slots for an item, if it may start now (R348, R352, R368). -/
def Work.fit (s : State) (w : Work) : Option (Nat × Nat × List Nat) :=
  if interlocked s w then none
  else match w.kernel s with
    | none => none
    | some (d, _) =>
      let b := w.bind.cores
      fitIn s w.tag (2 * s.nextUid + 1) d
        ((List.range 192).filter fun c => decide (b.1 ≤ c) && decide (c + (if d.pair then 2 else 1) ≤ b.1 + b.2))

/-- Start an item: a team of one group, its slots owned by it (R290, R348, R350). -/
def startWork (w : Work) (core seat : Nat) (slots : List Nat) (s : State) : State :=
  match w.kernel s, w.recs with
  | some (d, en), r :: _ =>
    let arg := BitVec.ofNat 64 (field r.bytes 0x28 8)
    let pool := match slotAt s w.tag r.slot with | some (i, _) => i | none => 0
    let team := s.nextUid
    let og : Origin := if w.node then .batch (w.recs.map (·.slot)) arg pool else .task r.slot arg pool
    let cn := match findSub s (r.subs.headD 0) with | some x => x.cn | none => s.snapshot
    let proto : Team := { Team.blank with sub := r.subs.headD 0, tag := w.tag, desc := d, deadline := w.deadline, cls := w.cls,
                                          argp := BitVec.ofNat 64 (field r.bytes 8 8), origin := og, cn := cn }
    let sig := w.recs.foldl (fun (m : BitVec 1024) r => m ||| r.sig) 0
    let s := putTeam proto en sig core seat slots s
    let s := w.recs.foldl (fun s r => setSlotState w.tag r.slot (some (.owned team)) s) s
    countCode w.tag core 0x27 1 { s with ready := s.ready.filter (·.uid != w.uid), runs := s.runs ++ [⟨team, w⟩] }
  | _, _ => s

/-- TASK_PLACEMENT (R348): on the core that R330 gives. -/
def execTaskPlacement (item core : Nat) (s : State) : Host.Outcome State Fault Refusal :=
  .next (match s.ready.find? (·.uid == item) with
    | none => s
    | some w => match w.fit s with
      | some (c, n, ks) => if c = core then startWork w c n ks s else s
      | none => s)

/-- TASK_SLOTS_RETURN (R268, R349): once the ended task has nothing in flight. -/
def execTaskSlotsReturn (team : Nat) (s : State) : Host.Outcome State Fault Refusal :=
  .next (match runOf s team with
    | none => s
    | some r =>
      if (groupsOf s team).all Group.over && !teamBusy s team then
        let s := r.work.recs.foldl (fun s x => returnSlot x.tag x.slot s) s
        { s with runs := s.runs.filter (·.team != team) }
      else s)

end Sys2Proof.Machine
end

