-- ==== Sys2Proof/Machine/Sched.lean ====
section
/-!
DEFINITION. The dispatcher and pre-emption (spec/12 R325–R344), and the device's steps on a group that no instruction
makes: retirement, acknowledgement, monitors, stops (spec/01 R32, spec/06 R155, spec/07 R190, R212, spec/11 R318).
-/
namespace Sys2Proof.Machine

/-! ### Steps on one group -/

/-- LOAD_RETIRE (R190): a pending memory result retires, in any order. -/
def execLoadRetire (grp idx : Nat) (s : State) : Host.Outcome State Fault Refusal :=
  .next (updGroup grp (fun x =>
    let ms := x.pend.filter (!·.sfu)
    match ms[idx]? with
    | some p => { x with pend := x.pend.erase p }
    | none => x) s)

/-- SFU_RETIRE (R155): the oldest queued result retires. -/
def execSfuRetire (grp : Nat) (s : State) : Host.Outcome State Fault Refusal :=
  .next (updGroup grp (fun x => match x.pend.find? (·.sfu) with
    | some p => { x with pend := x.pend.erase p }
    | none => x) s)

/-- STORE_ACKNOWLEDGE (R318). -/
def execStoreAcknowledge (grp : Nat) (s : State) : Host.Outcome State Fault Refusal :=
  .next (updGroup grp (fun x => { x with unack := x.unack - 1 }) s)

/-- WATCH_MONITOR_COMPLETE (R212): the line changed, or the completion is spurious, which is allowed at any time. -/
def execWatchMonitorComplete (core mon : Nat) (s : State) : Host.Outcome State Fault Refusal :=
  .next (match (s.mons.filter fun m => m.core == core && m.watch.isSome)[mon]? with
    | none => s
    | some m => fireMons (· == m) s)

/-- EXTERNAL_INTERRUPT (R32): pending until it lands. -/
def execExternalInterrupt (grp : Nat) (s : State) : Host.Outcome State Fault Refusal :=
  .next (updGroup grp (fun x => if x.stop.isNone && !x.over then { x with stop := some .external } else x) s)

/-- ASYNC_STOP_LANDS (R32): a pending stop lands at a run boundary. -/
def execAsyncStopLands (grp : Nat) (s : State) : Host.Outcome State Fault Refusal :=
  let s := focus grp s
  .next (if s.g.uid = grp ∧ !s.g.halted ∧ !s.g.over ∧ stopReady s.g ∧ s.t.resid = .resident then landStop s else s)

/-- PC_MATCH_FIRE (R412): the lowest entry that matches the run about to issue. -/
def execPcMatchFire (grp : Nat) (s : State) : Host.Outcome State Fault Refusal :=
  let s := focus grp s
  .next (if s.g.uid = grp ∧ !s.g.halted ∧ s.t.resid = .resident ∧ !stopReady s.g ∧ !hitReady s.g then
      match pcMatch s with
      | some e => fireMatch e s
      | none => s
    else s)

/-- WATCHPOINT_DELIVERY (R416). -/
def execWatchpointDelivery (grp : Nat) (s : State) : Host.Outcome State Fault Refusal :=
  let s := focus grp s
  .next (if s.g.uid = grp ∧ !s.g.halted ∧ s.t.resid = .resident ∧ hitReady s.g then deliverHit s else s)

/-! ### Placing the work of the ready set -/

/-- The teams of a submission that are saved, in order. -/
def savedTeams (s : State) (sub : Nat) : List Team :=
  (allTeams s).filter fun t => t.isSaved && t.origin == .launch && t.sub == sub

/-- May a saved team resume on a core that takes no new team: its slice is leaving its partition and no force saved it
(R443), or its cluster is passing to another tenant (R448)? -/
def mayReturn (s : State) (t : Team) : Bool :=
  let x := getSlice s t.slice
  (x.st == 3 && x.owner == t.tag && t.sliceEnd.isNone) ||
    s.elastics.any fun e => e.cluster == clusterOf t.core && e.passing && (if e.lent then e.borrower else e.lender) == t.tag

/-- Resume one saved team if it fits. -/
def tryResume (t : Team) (s : State) : Option State :=
  if placeable s t.tag t.core || mayReturn s t then (fitSaved s t).map fun ks => resumeTeam t.uid ks s else none

/-- Is a core on one of the partition's own clusters, not a lent one (R333)? -/
def ownCore (s : State) (core : Nat) : Bool := !s.elastics.any fun e => e.lent && e.cluster == clusterOf core

/-- A free cluster of the partition's own for a saved cluster of a cooperative swarm, whose loft can hold these bytes (R332 to
R334). -/
def freeCluster (s : State) (tag image from_ : Nat) (taken : List Nat) : Option Nat :=
  (List.range 48).find? fun cl => clusterServes s tag cl && ownCore s (4 * cl) && !taken.contains cl &&
    (!(allTeams s).any fun t => t.lives && clusterOf t.core == cl) &&
    (cl / 3 == from_ / 3 || decide (loftUsed s (cl / 3) + image ≤ loftBytes))

/-- Move the saved teams of a cooperative swarm whose cluster is lost to free clusters, core by core (R334). -/
def moveSwarm (tag sub : Nat) (s : State) : State :=
  let lost := (((savedTeams s sub).filter fun t => !mayReturn s t).map fun t => clusterOf t.core).eraseDups.filter
    fun cl => !clusterServes s tag cl
  (lost.foldl (fun (r : State × List Nat) cl =>
    let here (t : Team) : Bool := t.isSaved && t.origin == .launch && t.sub == sub && clusterOf t.core == cl
    let image := (allTeams r.1).foldl (fun n t => if here t && t.image then n + t.desc.image else n) 0
    match freeCluster r.1 tag image cl r.2 with
    | none => r
    | some free =>
      let mv (c : Nat) : Nat := 4 * free + c % 4
      (mapTeams (fun t =>
        if here t then
          let tiles := t.tiles.map fun z => { z with core := mv z.core }
          { t with core := mv t.core, slice := mv t.core / 12, tiles := tiles }
        else t) r.1, free :: r.2)) (s, [])).1

/-- Resume a cooperative swarm, all its teams at one instant or none (R333). -/
def resumeSwarm (tag sub : Nat) (s : State) : Option State :=
  let s := moveSwarm tag sub s
  (savedTeams s sub).foldl (fun r t => match r with
    | none => none
    | some s => match findTeam s t.uid with
      | some t => tryResume t s
      | none => none) (some s)

/-- Resume the saved teams of a submission that fit, in order, until one does not; and whether all are back. -/
def resumeSub (x : Sub) (s : State) : State × Bool :=
  if (match x.desc with | some d => d.coop | none => false) && savedTeams s x.uid != [] then
    match resumeSwarm x.tag x.uid s with
    | some s => (s, true)
    | none => (s, false)
  else (savedTeams s x.uid).foldl (fun r t =>
    if !r.2 then r else match tryResume t r.1 with
      | some s => (s, true)
      | none => (r.1, false)) (s, true)

/-- Place the next team of a submission, if it fits. -/
def placeNext (x : Sub) (s : State) : Option State :=
  match findSub s x.uid with
  | none => none
  | some x => match x.desc with
    | none => none
    | some d =>
      let cores := (List.range 192).filter fun c => !d.coop || ownCore s c
      (fitIn s x.tag (2 * x.uid) d cores).map fun r =>
        let proto : Team := { Team.blank with sub := x.uid, idx := x.next, tag := x.tag, desc := d,
                                              deadline := x.deadline, cls := bits x.flags 1 2, argp := x.value,
                                              cn := x.cn }
        let s := putTeam proto (d.roles.getD 0 ⟨0, 0⟩).entry 0 r.1 r.2.1 r.2.2 s
        updSub x.uid (fun x => { x with next := x.next + 1, live := x.live + 1 }) s

/-- Place teams of a submission, at most n, until one does not fit; and whether all n were placed. -/
def placeTeams (x : Sub) : Nat → State → State × Bool
  | 0, s => (s, true)
  | n + 1, s => match placeNext x s with
    | some s => placeTeams x n s
    | none => (s, false)

/-- Visit a submission: saved teams first, then its next teams; a cooperative swarm all at once (R325, R326, R333). -/
def visitSub (x : Sub) (s : State) : State × Bool :=
  let r := resumeSub x s
  if !r.2 then r
  else
    let p := placeTeams x (x.teams - x.next) r.1
    if (match x.desc with | some d => d.coop | none => false) && !p.2 then (r.1, false) else p

/-- Visit one piece of work; and whether all of it was placed. -/
def visit (a : Ready) (s : State) : State × Bool :=
  match a with
  | .sub x => visitSub x s
  | .work w => match w.fit s with
    | some (c, n, ks) => (startWork w c n ks s, true)
    | none => (s, false)

/-- Do both name one piece of work? -/
def Ready.same : Ready → Ready → Bool
  | .sub x, .sub y => x.uid == y.uid
  | .work x, .work y => x.uid == y.uid
  | _, _ => false

/-- Is the second due later than the first: it stands behind by the class background or the deadline (R325)? -/
def Ready.sooner (a b : Ready) : Bool :=
  if a.key.1 == 2 || b.key.1 == 2 then a.key.1 != 2 && b.key.1 == 2 else decide (a.key.2.1 < b.key.2.1)

/-- Are saved teams of work held back because the head, which is due sooner, waits itself (R341)? -/
def holdsBack (s : State) (tag : Nat) (own : Ready) : Bool :=
  match readyOf s tag with
  | head :: _ => !head.same own && head.sooner own
  | [] => false

/-- One visit of some work: passed over while its saved teams are held back (R326, R341). -/
def visitDue (tag : Nat) (a : Ready) (s : State) : State :=
  let saved : Bool := match a with
    | .sub x => savedTeams s x.uid != []
    | .work _ => false
  if saved && holdsBack s tag a then s else (visit a s).1

/-! ### Victims (R335) -/

/-- Is a team a possible victim for a head? -/
def isVictim (s : State) (tag : Nat) (head : Ready) (t : Team) : Bool :=
  t.tag == tag && t.uid != 0 && t.resid == .resident && !t.coopSwarm &&
    !(groupsOf s t.uid).any (fun x => x.halted || clusterHalted s t.tag (clusterOf (coreOf t x))) &&
    (match Ready.ofTeam s t with | some r => head.before r | none => false)

/-- Insert a victim: latest in the order first, then most recently placed. -/
def insVictim (s : State) (t : Team) : List Team → List Team
  | [] => [t]
  | u :: us =>
    let later (a b : Team) : Bool := match Ready.ofTeam s a, Ready.ofTeam s b with
      | some x, some y => y.before x || (!x.before y && decide (b.placedAt < a.placedAt))
      | _, _ => false
    if later t u then t :: u :: us else u :: insVictim s t us

/-- Would the head's next team fit on a core? -/
def headFits (s : State) (head : Ready) (core : Nat) : Bool :=
  match head with
  | .sub x => match savedTeams s x.uid, x.desc with
    | t :: _, _ => t.core == core && (tryResume t s).isSome
    | [], some d => placeable s x.tag core && (!d.coop || ownCore s core) && (fitAt s (2 * x.uid) d core).isSome
    | [], none => false
  | .work w => match w.kernel s with
    | some (d, _) =>
      let b := w.bind.cores
      decide (b.1 ≤ core) && decide (core + (if d.pair then 2 else 1) ≤ b.1 + b.2) && placeable s w.tag core && !interlocked s w
        && (fitAt s (2 * s.nextUid + 1) d core).isSome
    | none => false

/-- The fewest victims, in order, that make the head fit on a core. -/
def victimsAt (s : State) (head : Ready) (core : Nat) : List Team → List Nat → Option (List Nat)
  | [], _ => none
  | t :: ts, us =>
    let us := us ++ [t.uid]
    let s' := mapTeams (fun t => if us.contains t.uid then { t with resid := .saved, image := true } else t) s
    if headFits s' head core then some us else victimsAt s head core ts us

/-- Does the head's next team need a core pair (R328)? -/
def Ready.pair (s : State) (head : Ready) : Bool :=
  match head with
  | .sub x => match savedTeams s x.uid, x.desc with
    | t :: _, _ => t.pair
    | [], some d => d.pair
    | [], none => false
  | .work w => match w.kernel s with
    | some (d, _) => d.pair
    | none => false

/-- The victims that the dispatcher takes for a head (R335). -/
def victimsFor (s : State) (tag : Nat) (head : Ready) : List Nat :=
  if head.key.1 = 2 then []
  else
    let vs := ((allTeams s).filter (isVictim s tag head)).foldl (fun l t => insVictim s t l) []
    ((placementCores s tag).findSome? fun c =>
      victimsAt s head c (vs.filter fun t => t.on c || (head.pair s && t.on (c + 1))) []).getD []

/-- Mark a team's groups for fine pre-emption (R336). -/
def markPreempt (team : Nat) (s : State) : State :=
  mapGroups (fun x => if x.team = team ∧ !x.over ∧ x.stop.isNone then { x with stop := some .preempt } else x) s

/-- DISPATCHER_VISIT (R325–R335). -/
def execDispatcherVisit (tag : Nat) (s : State) : Host.Outcome State Fault Refusal :=
  let s := sweep s
  let work := readyOf s tag
  let s' := work.foldl (fun s a => visitDue tag a s) s
  .next (match work with
    | [] => s'
    | head :: _ =>
      match (readyOf s' tag).find? head.same with
      | none => s'
      | some head =>
        let d := head.key.2.1
        let near := decide (d ≤ s'.tick + s'.period) && decide (s'.tick ≤ d + s'.period)
        let s' := if near then updFn tag (fun f => { f with passed := true }) s' else s'
        (victimsFor s' tag head).foldl (fun s u => markPreempt u s) s')

/-! ### Saving (R336–R338) -/

/-- Has a group stopped for a save: at a run boundary, its port answered (R336)? -/
def savedReady (x : Group) : Bool := x.over || (x.stop == some .preempt && x.runPos == 0 && x.stat != .port)

/-- Is an accepted operation on a team's own tiles in flight (R243, R336)? A lease tile is not saved. -/
def tileBusy (s : State) (team : Nat) : Bool :=
  s.ops.any fun o => match o.kind with
    | .mma x => x.tileTeam == team && x.lease == 0
    | .zld v _ => o.team == team && bits v.toNat 16 16 == 0
    | .zdrn v .. => o.team == team && bits v.toNat 16 16 == 0
    | _ => false

/-- Remap entries that a team takes: one for each of its cores (R337). -/
def remapNeed (t : Team) : Nat := if t.pair then 2 else 1

/-- Remap entries of a slice in use or being filled (R337). -/
def remapUsed (s : State) (slice : Nat) : Nat :=
  (getSlice s slice).remap.length +
    (allTeams s).foldl (fun n t => if t.uid ≠ 0 ∧ t.slice = slice ∧ t.resid = .saving then n + remapNeed t else n) 0

/-- What stopping for a save leaves of a group (R33, R190, R210, R336): a pre-emption that lands records the stop, pending
results retire, and a lock reservation is given back until the group resumes. -/
def Group.quiet (x : Group) : Group :=
  let y := if x.stop = some .preempt then { x.recordStop with stop := none } else x
  { y with pend := [], unack := 0, lockRes := false, lockLost := x.lockRes || x.lockLost }

/-- What stopping for a save does to the groups and monitors of a team (R336 steps 1 to 3). -/
def quietGroups (team : Nat) (s : State) : State :=
  fireMons (fun m => m.team == team)
    (mapGroups (fun x => if x.team = team && !x.over then x.quiet else x) s)

/-- The resident teams that are saved at one instant with a team: those of its cooperative swarm (R333). -/
def saveMates (s : State) (t : Team) : List Team :=
  if t.coopSwarm then (allTeams s).filter fun u => u.uid != 0 && u.resid == .resident && u.coopSwarm && u.sub == t.sub
  else [t]

/-- Have the slices of some teams remap entries for them all (R337), and their lofts the images they need (R332)? -/
def saveRoom (s : State) (ts : List Team) : Bool :=
  ts.all fun t =>
    let mine := ts.filter (·.slice == t.slice)
    decide (remapUsed s t.slice + (mine.map remapNeed).sum ≤ 128) &&
      (mine.all (·.image) || decide (loftUsed s t.slice +
        (mine.map fun u => if u.image then 0 else u.desc.image).sum ≤ loftBytes))

/-- FINE_PREEMPTION (R336): a team marked for it, with its cooperative swarm (R333), goes into its copy once every group has
stopped, the operations on its tiles are done and the remap table has room. -/
def execFinePreemption (team : Nat) (s : State) : Host.Outcome State Fault Refusal :=
  .next (match findTeam s team with
    | none => s
    | some t =>
      let ts := saveMates s t
      let gs := ts.flatMap fun t => groupsOf s t.uid
      if t.resid ≠ .resident ∨ !(groupsOf s team).any (fun x => x.stop == some .preempt) then s
      else if !gs.all savedReady then ts.foldl (fun s t => markPreempt t.uid s) s
      else if ts.any (fun t => tileBusy s t.uid) || !saveRoom s ts then s
      else ts.foldl (fun s t => updTeam t.uid (fun t => { t with resid := .saving, image := true }) (quietGroups t.uid s)) s)

/-- The next context of a shared slice, once the outgoing one has no team there (R339, R437). -/
def switchContext (slice : Nat) (s : State) : State :=
  let x := getSlice s slice
  if x.ending.isSome && !((allTeams s).any fun t => t.holds && t.slice == slice && t.tag == x.prev) then
    let next := ((List.range 16).map fun i => (x.prev - 2 + 1 + i) % 16).find? (x.sharers.getLsbD ·)
    updSlice slice (fun z => { z with resident := (match next with | some n => n + 2 | none => z.resident), ending := none,
                                      ends := some (s.tick + z.span * 1000) }) s
  else s

/-- A save ends: the remap entries of a team stand, its resources are free, and its slice may pass on (R337, R339). -/
def installSave (resid : Resid) (t : Team) (s : State) : State :=
  let s := updTeam t.uid (fun t => { t with resid := resid, image := true }) s
  switchContext t.slice (updSlice t.slice (fun z => { z with remap := z.remap ++ List.replicate (remapNeed t) t.uid }) s)

/-- REMAP_ENTRY_INSTALL (R337): the copy ends, for a cooperative swarm that of all its teams (R333); then what the port held
lands in the images. -/
def execRemapEntryInstall (slice team : Nat) (s : State) : Host.Outcome State Fault Refusal :=
  .next (match findTeam s team with
    | none => s
    | some t =>
      if t.resid ≠ .saving ∨ t.slice ≠ slice then s
      else
        let ts := if t.coopSwarm then (allTeams s).filter fun u => u.uid != 0 && u.resid == .saving && u.coopSwarm && u.sub == t.sub
          else [t]
        landHeld (ts.foldl (fun s t => installSave .saved t s) s))

/-- Can anything still reach a saved team's scratchpad (R338)? -/
def reachable (s : State) (team : Nat) : Bool :=
  teamBusy s team ||
    (s.ops.any fun o => match o.kind with
      | .amc _ _ ts => ts.any (·.2.1 == team)
      | _ => false) ||
    (let owes (r : TaskRec) : Bool := match r.spawn with | some p => p.team == team | none => false
     s.ready.any (fun w => w.recs.any owes) || s.runs.any (fun r => r.work.recs.any owes) ||
       s.fns.any fun f => match f.ctx with | some c => c.nodes.any (fun n => n.gather.any owes) | none => false)

/-- REMAP_ENTRY_FREE (R338). -/
def execRemapEntryFree (slice team : Nat) (s : State) : Host.Outcome State Fault Refusal :=
  .next (match findTeam s team with
    | some t =>
      if t.isSaved && t.slice == slice && !reachable s team then
        updSlice slice (fun z => { z with remap := z.remap.filter (· != team) }) s
      else s
    | none => s)

/-! ### Time slices (R339, R340) -/

/-- TIME_SLICE_END (R339): barrier-point pre-emption of the resident context begins, or fine pre-emption where one of its
clusters is halted (R422); where its last team is gone, the next context takes the slice. -/
def execTimeSliceEnd (slice : Nat) (s : State) : Host.Outcome State Fault Refusal :=
  let x := getSlice s slice
  .next (
    if x.ending.isSome then switchContext slice s
    else if x.st = 2 && x.up && (match x.ends with | some t => decide (t ≤ s.tick) | none => false) then
      let s := if (List.range 3).any fun c => clusterHalted s x.resident (3 * slice + c) then
          (allTeams s).foldl (fun s t => if t.holds && t.slice == slice && t.tag == x.resident then markPreempt t.uid s else s) s
        else s
      switchContext slice (updSlice slice (fun z => { z with ending := some s.tick, prev := z.resident, ends := none }) s)
    else s)

/-- What a group keeps at a stop point (R296), from its liveness entry. -/
def keepLive (b : List Byte) (x : Group) : Group :=
  let v := field b 8 32
  let g := field b 0x28 8
  let o := field b 5 1
  let kv (k : Nat) : Bool := bit v (k / 64)
  let kg (k : Nat) : Bool := bit g k || k == 58 || k == 59 || k == 62
  let ko (k : Nat) : Bool := bit o (k / 64)
  { x with regs := { x.regs with v := x.regs.v.filter (fun c => kv c.1), vm := x.regs.vm.filter (fun c => kv c.1),
                                 g := x.regs.g.filter (fun c => kg c.1), gm := x.regs.gm.filter (fun c => kg c.1) },
           o := x.o.filter (fun c => ko c.1), om := x.om.filter (fun c => ko c.1) }

/-- What a team keeps at a stop point (R296): barrier objects, listed pad ranges, listed tiles of a group's core. -/
def keepTeam (bs : List (Nat × List Byte)) (t : Team) : Team :=
  let ranges := bs.flatMap fun b => (List.range (field b.2 4 1)).map fun i =>
    (field b.2 (0x38 + 8 * i) 4, field b.2 (0x3C + 8 * i) 4)
  let keep (a : Nat) : Bool := decide (a < 16 * t.desc.barriers) ||
    ranges.any fun r => decide (r.1 ≤ a) && decide (a < r.1 + r.2)
  let live (z : Tile) : Bool := bs.any fun b => b.1 == z.core && decide (field b.2 0x30 2 ≤ z.name) &&
    decide (z.name < field b.2 0x30 2 + field b.2 0x32 2)
  { t with pad := t.pad.filter (fun c => keep c.1), padm := t.padm.filter (fun c => keep (4 * c.1)),
           tiles := t.tiles.map fun z => if live z then z else { z with z := [], zm := [] } }

/-- The liveness entry of a parked group. -/
def parkedEntry (s : State) (t : Team) (x : Group) : Option (List Byte) :=
  match x.stat with
  | .barrier a => liveEntry s t a
  | _ => none

/-- Is the group parked at a stop point (R339)? -/
def Group.atStop (x : Group) : Bool :=
  match x.stat with
  | .barrier _ => true
  | _ => false

/-- Save a team whose groups have parked (R296, R339). -/
def barrierSave (t : Team) (s : State) : State :=
  let gs := (groupsOf s t.uid).filter fun x => !x.over
  let es := gs.filterMap fun x => (parkedEntry s t x).map fun b => (coreOf t x, b)
  let s := gs.foldl (fun s x => match parkedEntry s t x with
    | some b => updGroup x.uid (keepLive b) s
    | none => s) (quietGroups t.uid s)
  installSave .savedBarrier t (updTeam t.uid (keepTeam es) s)

/-- BARRIER_POINT_SAVE (R339, R296): every live group of the team, and of its cooperative swarm (R333), has parked. -/
def execBarrierPointSave (team : Nat) (s : State) : Host.Outcome State Fault Refusal :=
  .next (match findTeam s team with
    | none => s
    | some t =>
      let ts := saveMates s t
      let ready (t : Team) : Bool :=
        let gs := (groupsOf s t.uid).filter fun x => !x.over
        stopsAtBarriers s t && gs != [] && gs.all Group.atStop && !tileBusy s t.uid
      if t.resid ≠ .resident || !ts.all ready || !saveRoom s ts then s
      else landHeld (ts.foldl (fun s t => barrierSave t s) s))

/-- BARRIER_POINT_LIMIT (R340): 200,000 ticks after the end of the time slice, fine pre-emption takes the team. -/
def execBarrierPointLimit (team : Nat) (s : State) : Host.Outcome State Fault Refusal :=
  .next (match findTeam s team with
    | none => s
    | some t =>
      match stopsSince s t with
      | some e => if t.resid = .resident ∧ e + 200000 ≤ s.tick then markPreempt team s else s
      | none => s)

/-- TEAM_RESUME (R341): not while the head is due sooner and waits itself; a cooperative swarm as one (R333). -/
def execTeamResume (team : Nat) (s : State) : Host.Outcome State Fault Refusal :=
  .next (match findTeam s team with
    | none => s
    | some t =>
      if !t.isSaved || (match Ready.ofTeam s t with | some own => holdsBack s t.tag own | none => false) then s
      else if t.coopSwarm then (resumeSwarm t.tag t.sub s).getD s
      else (tryResume t s).getD s)

/-! ### Watchdogs (R343, R344) -/

/-- The live groups of a tag's context, on whatever slices. -/
def contextGroups (s : State) (tag : Nat) : List Group :=
  (allGroups s).filter fun x => x.uid != 0 && !x.over &&
    (match findTeam s x.team with | some t => t.tag == tag | none => false)

/-- Is a tag's context resident on a slice (R339, R406, R437)? -/
def contextOn (s : State) (slice tag : Nat) : Bool :=
  let x := getSlice s slice
  if x.st == 2 then x.resident == tag else x.owner == tag && (x.st == 1 || x.st == 3)

/-- The phases that the paths of a group wait on (R21, R209). -/
def waitsOf (x : Group) : List Wait :=
  (match x.stat with | .waiting w => [w] | _ => []) ++
    x.bank.stk.filterMap fun e => match e.other with
      | .waiting _ em w => if em == 0 then none else some w
      | _ => none

/-- Is the phase that a group waits on external (R213)? -/
def phaseExternal (s : State) (x : Group) (w : Wait) : Bool :=
  match findTeam s x.team with
  | some t => !isSpecial w.obj && bit (getObj t w.obj).flags 0
  | none => false

/-- Are all the phases that a group waits on external? -/
def waitsExternal (s : State) (x : Group) : Bool := (waitsOf x).all (phaseExternal s x)

/-- Is a group suspended in `waitp`? -/
def isWaiting (x : Group) : Bool :=
  match x.stat with
  | .waiting _ => true
  | _ => false

/-- WATCHDOG_FIRE (R343). -/
def execWatchdogFire (slice tag : Nat) (s : State) : Host.Outcome State Fault Refusal :=
  let gs := contextGroups s tag
  .next (match (getFn s tag).ctx with
    | none => s
    | some c =>
      let since := s.tick - (peek s.wdog tag).toNat
      let halted := (List.range 48).any fun cl => clusterHalted s tag cl
      if !contextOn s slice tag || gs == [] || !gs.all isWaiting || gs.all (waitsExternal s) || decide (since < c.wdint)
          || halted then s
      else
        let at_ (x : Group) : Nat := match findTeam s x.team with | some t => t.slice | none => slice
        let s := gs.foldl (fun s x => emit tag ⟨0x0A, cWDOG, at_ x, x.gidIn s, x.pc.toNat, 0, some 5, none⟩ s) s
        let us := gs.map (·.uid)
        let s := mapGroups (fun x => if us.contains x.uid then { x with stop := some .watchdog } else x) s
        { s with subs := s.subs.map fun x =>
            if x.tag = tag ∧ x.started ∧ !x.finished then { x with status := 3, next := x.teams } else x })

/-- The tick since which every waiting group has waited on an external phase: the first of the present waits began, and the
last other wait had ended by then (R344). -/
def extSince (ended : Nat) : List Nat → Nat
  | [] => ended
  | t :: ts => Nat.max ended (ts.foldl Nat.min t)

/-- EXTERNAL_WAIT_ADVISORY (R344): once, until some group of the context issues again. -/
def execExternalWaitAdvisory (slice tag : Nat) (s : State) : Host.Outcome State Fault Refusal :=
  .next (match (getFn s tag).ctx with
    | none => s
    | some c =>
      let w := peek s.wext tag
      let ws := (contextGroups s tag).flatMap fun x => if isWaiting x then (waitsOf x).map fun v => (x, v) else []
      if !c.extOn || !contextOn s slice tag || ws.isEmpty || !ws.all (fun p => phaseExternal s p.1 p.2)
          || w == BitVec.allOnes 64 || decide (s.tick - extSince w.toNat (ws.map (·.2.since)) < c.extint) then s
      else emit tag ⟨0x0B, 0, slice, 0, 0, 1, none, some 3⟩ { s with wext := poke s.wext tag (BitVec.allOnes 64) })

/-! ### Clocks (R423, R425) -/

/-- The groups resident on a scheduler, with their teams. -/
def schedGroups (s : State) (sched : Nat) : List (Group × Team) :=
  (allGroups s).filterMap fun x =>
    match findTeam s x.team with
    | some t =>
      if x.uid ≠ 0 ∧ !x.over ∧ t.holds ∧ coreOf t x = sched / 4 ∧ x.slot % 64 / 16 = sched % 4 then some (x, t) else none
    | none => none

/-- The pending result that holds a group's next instruction, if one does: is it a queued result (R283)? -/
def heldOn (s : State) (x : Group) : Option Bool :=
  if x.pend = [] then none
  else match fetch (focus x.uid s) with
    | .instr i => match toEnc i with
      | some e => match rowOf e.w.opc with
        | some r =>
          let ks := readKeys e r ++ (writeKeys e r x).map (·.1)
          (x.pend.find? fun p => p.regs.any ks.contains).map (·.sfu)
        | none => none
      | none => none
    | .fault _ => none

/-- Is an instruction a release, which waits for the group's stores (R311)? -/
def isRelease (i : Instr) : Bool :=
  match i with
  | .st _ _ _ _ _ _ _ d => Disp.ordered d
  | .gst _ _ _ _ _ _ _ d => Disp.ordered d
  | .atm _ _ _ _ _ _ _ _ ad => ADisp.rel ad
  | .ared _ _ _ _ _ _ _ ad => ADisp.rel ad
  | .atmc .. => true
  | .fence _ k _ => k != .acq
  | .arv .. => true
  | .tsub .. => true
  | .tsig .. => true
  | .acp .. => true
  | .amc .. => true
  | .mma .. => true
  | .zld .. => true
  | .zdrn .. => true
  | .covr .. => true
  | .bqry .. => true
  | _ => false

/-- Is a group in the wait of a release (R318)? Its instruction and the end of the wait are one step of the model, so whether
one that is about to release has issued already is open (log 102). -/
def releaseHeld (s : State) (x : Group) : Bool :=
  x.unack != 0 && Config.flip .count [s.fresh, x.uid, 11] &&
    (match fetch (focus x.uid s) with | .instr i => isRelease i | .fault _ => false)

/-- Is a group eligible (R285)? Whether its next instruction has been fetched is open. -/
def eligible (s : State) (x : Group) (t : Team) : Bool :=
  x.stat == .running && !x.halted && !x.yielded && !x.lockLost && t.resid == .resident && (heldOn s x).isNone
    && !releaseHeld s x && !Config.flip .count [s.fresh, x.uid]

/-- The stall reason of a group (R423). -/
def stallOf (s : State) (x : Group) (t : Team) : Nat :=
  if x.halted then 14
  else if t.resid = .saving then 15
  else match x.stat with
    | .waiting w =>
      if w.obj = objBatch then 6
      else if w.obj = objLock then 7
      else if phaseExternal s x w then 8 else 5
    | .held => 9
    | .parked => 10
    | .port => 12
    | .barrier _ => 15
    | _ =>
      if x.yielded then 13
      else match heldOn s x with
        | some true => 3
        | some false => 2
        | none => if x.lockLost then 15 else if releaseHeld s x then 11 else 4

/-- The oldest of some groups: least start tick, then lowest slot (R423). -/
def oldest : List (Group × Team) → Option (Group × Team)
  | [] => none
  | a :: as => match oldest as with
    | none => some a
    | some b => if b.1.start < a.1.start ∨ (b.1.start = a.1.start ∧ b.1.slot < a.1.slot) then some b else some a

/-- Is a clock of a scheduler an issue clock (R281, R283, R423)? A run that no hold stops issues, and so does an eligible
group. Where nothing can issue, whether the scheduler still spends the issue clocks of the instruction before is open. -/
def issueClock (s : State) (sched n : Nat) (gs : List (Group × Team)) : Bool :=
  let mid := gs.filter fun p => p.1.runPos != 0 && p.1.stat == .running && !p.1.halted
  if mid.any fun p => (heldOn s p.1).isSome then Config.flip .count [s.fresh, sched]
  else mid != [] || decide (0 < n) || (gs != [] && Config.flip .count [s.fresh, sched])

/-- ARITHMETIC_CLOCK (R423, R425): one clock of a scheduler, 4 × core + q. The events that the caches and links count are
open. -/
def execArithmeticClock (sched : Nat) (s : State) : Host.Outcome State Fault Refusal :=
  let core := sched / 4
  let gs := schedGroups s sched
  let tag := match gs with
    | (_, t) :: _ => t.tag
    | [] => let x := getSlice s (core / 12); if x.cond = 2 then x.resident else x.owner
  let n := Nat.min (gs.filter fun p => eligible s p.1 p.2).length 16
  let kb := 2 ^ 16 * tag + 32 * sched + n
  let s1 := { s with elig := poke s.elig kb (peek s.elig kb + 1) }
  let inside := gs.any fun p => p.1.runPos != 0 && (heldOn s p.1).isSome
  let s2 :=
    if issueClock s sched n gs then s1
    else
      let r := if inside then 1 else match oldest gs with | some p => stallOf s p.1 p.2 | none => 0
      let k := 2 ^ 16 * tag + 16 * sched + r
      countCode tag core (0x10 + r) 1 { s1 with stall := poke s1.stall k (peek s1.stall k + 1) }
  let s3 := if sched % 48 = 0 then
      [0x21, 0x22, 0x23, 0x24, 0x25, 0x26].foldl (fun s c =>
        countCode tag core c (Config.free .count [s.fresh, sched, c] % 256) s) (countCode tag core 0x20 1 s2)
    else s2
  .next (bump s3)

end Sys2Proof.Machine
end

