-- ==== Sys2Proof/Machine/Debug.lean ====
section
/-!
DEFINITION. Debugging and profiling (spec/17 R405–R429, spec/18 R430–R436): watchpoint reports, halts, steps, trace
control, counter banks.
-/
namespace Sys2Proof.Machine

/-! ### Registers of the observation block -/

/-- Does a function's partition hold a slice (R405), one that is leaving it (R443) or under a reset (R474) still? The physical
function has its own copies (R463). -/
def holdsSlice (s : State) (fn slice : Nat) : Bool :=
  let x := getSlice s slice
  decide (slice < 16) && (fn == 1 || ((x.cond == 1 || x.cond == 3) && x.owner == fn) ||
    (x.cond == 2 && decide (2 ≤ fn) && x.sharers.getLsbD (fn - 2)))

/-- A register of a function's observation block. -/
def obsGet (s : State) (fn slice off : Nat) : Nat := (peek s.obs (obsKey fn slice off)).toNat

/-- Write one. -/
def obsSet (fn slice off v : Nat) (s : State) : State :=
  { s with obs := poke s.obs (obsKey fn slice off) (BitVec.ofNat 64 v) }

/-! ### Watchpoint hits (R415–R417) -/

/-- The accessing group takes note of a hit at its run position, with what is to follow (R416, R417). -/
def noteHit (h : WpHit) (act : Nat) (s : State) : State :=
  updGroup h.grp (fun x => if h.grp = 0 then x else { x with hits := x.hits ++ [(h.pos, act)] }) s

/-- The clusters that a hit of ACTION 1 stops: the watchpoint's and that of the accessing group (R417). -/
def hitClusters (s : State) (h : WpHit) : List Nat :=
  clusterOf h.core :: (match findGroup s h.grp with
    | some x => match findTeam s x.team with
      | some t => [clusterOf (coreOf t x)]
      | none => []
    | none => [])

/-- WATCHPOINT_HIT (R415–R417): a port reports the oldest hit, whose record and count its access has made. -/
def execWatchpointHit (s : State) : Host.Outcome State Fault Refusal :=
  .next (match s.wpq with
    | [] => s
    | h :: rest =>
      let s := { s with wpq := rest }
      if bit (obsGet s h.tag (h.core / 12) (0x2400 + 0x800 * (h.core % 12) + 0x10 * h.wp + 8)) 12 then
        if clusterHalted s h.tag (clusterOf h.core) then s
        else (hitClusters s h).foldl (fun s cl => haltCluster h.tag cl cWATCH h.at_ h.runs s) (noteHit h 1 s)
      else noteHit h 0 s)

/-- CLUSTER_HALT_LANDS (R418, R432): the halt reaches a core; groups between runs stop at once. -/
def execClusterHaltLands (core : Nat) (s : State) : Host.Outcome State Fault Refusal :=
  let me := s.g.uid
  let mine := (allGroups s).filter fun x => x.stop == some .cluster &&
    (match findTeam s x.team with | some t => coreOf t x == core | none => false)
  let us := mine.map (·.uid)
  let s := mapGroups (fun x => if us.contains x.uid then { x with stop := some .halt } else x) s
  .next (focus me (us.foldl (fun s u =>
    let s := focus u s
    if stopReady s.g then landStop s else s) s))

/-! ### Cluster debug commands (R419–R422) -/

/-- DBG_HALT (R419): ignored while the cluster is halted. -/
def execDbgHalt (fn slice cl : Nat) (s : State) : Host.Outcome State Fault Refusal :=
  .next (if holdsSlice s fn slice ∧ cl < 3 then haltCluster fn (3 * slice + cl) 0 s.tick [] s else s)

/-- Every group of a cluster for a tag, wherever its halt has come, also of a team that is saved (R422). -/
def clusterGroups (s : State) (tag cl : Nat) : List Nat :=
  ((allGroups s).filter fun x => x.uid != 0 && !x.over && (match findTeam s x.team with
    | some t => t.tag == tag && t.lives && clusterOf (coreOf t x) == cl
    | none => false)).map (·.uid)

/-- A resume command on a group: it continues from its PC (R422). -/
def Group.unhalt (x : Group) : Group := { x with halted := false, stop := keptStop x.stop }.reissue

/-- DBG_RESUME (R422): every group continues from its PC. -/
def execDbgResume (fn slice cl : Nat) (s : State) : Host.Outcome State Fault Refusal :=
  .next (
    if !(holdsSlice s fn slice && decide (cl < 3) && clusterHalted s fn (3 * slice + cl)) then s
    else
      let us := clusterGroups s fn (3 * slice + cl)
      let k := 0x8004 + 0x40 * cl
      mapGroups (fun x => if us.contains x.uid then x.unhalt else x)
        (obsSet fn slice k (obsGet s fn slice k % 2 ^ 31) s))

/-- DBG_STEP (R421): one group of the halted cluster for one run; a waiting group issues its `waitp` or `role` again
(R209, R270). -/
def execDbgStep (fn slice cl core slot : Nat) (s : State) : Host.Outcome State Fault Refusal :=
  let me := s.g.uid
  .next (
    if !(holdsSlice s fn slice && decide (cl < 3) && clusterHalted s fn (3 * slice + cl)) then s
    else match (allGroups s).find? fun x => inCluster s fn (3 * slice + cl) x && x.halted && x.slot % 64 == slot &&
        (match findTeam s x.team with | some t => coreOf t x == 12 * slice + core | none => false) with
      | none => s
      | some x =>
        match x.stat with
        | .running => updGroup x.uid (fun x => { x with halted := false, stop := some .step }) s
        | .port => updGroup x.uid (fun x => { x with halted := false, stop := some .step }) s
        | .waiting _ => updGroup x.uid (fun x => { x.reissue with halted := false, stop := some .stepWait }) s
        | _ =>
          let s := focus x.uid s
          focus me (traceMine 4 s.g.pc 0 s.g.em s))

/-! ### Trace units (R408) -/

/-- Is a size legal for a trace buffer? -/
def traceSizeOk (n : Nat) : Bool := (List.range 19).any fun i => n == 2 ^ (12 + i)

/-- A write of TR_CTL (R408): EN = 1 is ignored while BASE or SIZE breaks its rule; EN from 0 to 1 sets WPTR := RPTR. -/
def writeTrCtl (fn slice cl val : Nat) (s : State) : State :=
  let o := 0x1000 + 0x100 * cl
  let on := bit val 31
  if on && (obsGet s fn slice (o + 8) % 4096 != 0 || !traceSizeOk (obsGet s fn slice (o + 0x10))) then s
  else
    let was := bit (obsGet s fn slice o) 31
    let s := obsSet fn slice o ((if on then 2 ^ 31 else 0) + val % 2 ^ 21) s
    if on && !was then obsSet fn slice (o + 0x18) (obsGet s fn slice (o + 0x20)) s else s

/-- TR_ENABLE (R408). -/
def execTrEnable (fn slice cl : Nat) (val : Word) (s : State) : Host.Outcome State Fault Refusal :=
  .next (if holdsSlice s fn slice ∧ cl < 3 then writeTrCtl fn slice cl val.toNat s else s)

/-- A write of TR_RPTR (R408): a multiple of 32 below SIZE, in the span from RPTR forward to WPTR. -/
def writeTrRptr (fn slice cl val : Nat) (s : State) : State :=
  let o := 0x1000 + 0x100 * cl
  let size := obsGet s fn slice (o + 0x10)
  let w := obsGet s fn slice (o + 0x18)
  let r := obsGet s fn slice (o + 0x20)
  if size ≠ 0 ∧ val % 32 = 0 ∧ val < size ∧ (val + size - r % size) % size ≤ (w + size - r % size) % size then
    obsSet fn slice (o + 0x20) val s
  else s

/-- TR_RPTR_WRITE (R408). -/
def execTrRptrWrite (fn slice cl : Nat) (val : DWord) (s : State) : Host.Outcome State Fault Refusal :=
  .next (if holdsSlice s fn slice ∧ cl < 3 then writeTrRptr fn slice cl val.toNat s else s)

/-- TRACE_SAMPLE (R408): at each multiple of the interval, a record of type 0x10 of one resident group of the cluster;
which group is open. -/
def execTraceSample (cluster : Nat) (s : State) : Host.Outcome State Fault Refusal :=
  let gs := (List.range 16).flatMap fun q => schedGroups s (16 * cluster + q)
  .next (match gs[Config.free .count [s.fresh, cluster] % gs.length]? with
    | none => s
    | some (x, t) =>
      let n := (peek s.obs (trKey (trTag s t.tag cluster) cluster 0)).toNat % 2 ^ 16 * 1024
      if n = 0 ∨ s.tick % n ≠ 0 then s
      else
        let pay := if eligible s x t then 0xFF else stallOf s x t
        bump (trace t.tag (coreOf t x) 0x10 x.startOfRun (x.gidIn s) (BitVec.ofNat 32 pay) x.em s))

/-! ### Counter banks (R425–R428) -/

/-- A claim that holds a guest's bank. -/
def claimOf (s : State) (slice b : Nat) : Bool := bankClaimed s slice b

/-- Keep a guest's write until the claim of the bank ends (R428). -/
def holdWrite (fn slice b off v : Nat) (s : State) : State :=
  { s with claims := s.claims.map fun c =>
      if c.slice = slice ∧ c.what = .bank b then { c with held := c.held ++ [(fn, off, BitVec.ofNat 64 v)] } else c }

/-- A write of CB_CTL (R426). -/
def writeCbCtl (fn slice b val : Nat) (s : State) : State :=
  let s := obsSet fn slice (256 * b + 0xC4) (val % 2) s
  if bit val 1 then (List.range 16).foldl (fun s n => obsSet fn slice (256 * b + 8 * n) 0 s) s else s

/-- CB_CLEAR (R426); during a claim the guest's write waits for the release (R428). -/
def execCbClear (fn slice bank : Nat) (val : Word) (s : State) : Host.Outcome State Fault Refusal :=
  .next (
    if !(holdsSlice s fn slice && decide (bank < 4)) then s
    else if fn ≠ 1 ∧ claimOf s slice bank then holdWrite fn slice bank (256 * bank + 0xC4) val.toNat s
    else writeCbCtl fn slice bank val.toNat s)

/-- A 64-bit counter register at an offset of BAR 0 (R427, R450). -/
def counterReg (s : State) (fn off : Nat) : Option Nat :=
  if off = 0x40 then some (getFn s fn).tok.bal
  else if off = 0x48 then some (getFn s fn).tok.debt
  else if 0x100000 ≤ off ∧ off < 0x200000 then
    let o := off % 0x10000
    if holdsSlice s fn ((off - 0x100000) / 0x10000) ∧ o < 0x400 ∧ o % 0x100 < 0x80 ∧ o % 8 = 0 then
      some (obsGet s fn ((off - 0x100000) / 0x10000) o)
    else none
  else none

/-- HALF_WORD_LATCH_READ (R427): a 32-bit read of a low half loads the function's latch with the high half. -/
def execHalfWordLatchRead (fn off : Nat) (s : State) : Host.Outcome State Fault Refusal :=
  .next (match counterReg s fn off with
    | some v => updFn fn (fun f => { f with latch := some (off, BitVec.ofNat 32 (v / 2 ^ 32)) }) s
    | none => s)

end Sys2Proof.Machine
end

