-- ==== Sys2Proof/Machine/Queue.lean ====
section
/-!
DEFINITION. Submission queues (spec/21 R488–R493, spec/13 R362, R363, spec/10 R287, spec/12 R331).
-/
namespace Sys2Proof.Machine

/-- Are writes to the registers of a function taken? Before S1 only those to ownership, DOE and firmware are (R495); those
to the physical function's come from the owner only (R500). -/
def writable (s : State) (fn : Nat) : Bool :=
  (s.boot.stage == 1 || s.boot.stage == 2) && decide (1 ≤ fn) && decide (fn ≤ 17) && (fn != 1 || s.own.owner.isSome)

/-- Change a queue of a function. -/
def updSq (fn q : Nat) (f : SubQ → SubQ) (s : State) : State := updFn fn (fun x => { x with sqs := modAt x.sqs q f }) s

/-- A queue of a function. -/
def getSq (s : State) (fn q : Nat) : SubQ := (getFn s fn).sqs.getD q SubQ.init

/-- SQ_ENABLE (R488): a write of SQ_CTL with EN = 1. While EN = 1 already, it changes nothing. -/
def execSqEnable (fn q : Nat) (ctl : Word) (s : State) : Host.Outcome State Fault Refusal :=
  let logn := bits ctl.toNat 0 4
  let vec := bits ctl.toNat 4 6
  .next (
    if !writable s fn || !bit ctl.toNat 31 || (getSq s fn q).en || (getFn s fn).ctx.isNone
        || decide (logn < 4) || decide (12 < logn) || vec == 0 then s
    else updSq fn q (fun x => { x with en := true, logn := logn, vec := vec, head := x.tail, done := x.tail }) s)

/-- SQ_DOORBELL (R488): a write of TAIL. -/
def execSqDoorbell (fn q : Nat) (tail : Word) (s : State) : Host.Outcome State Fault Refusal :=
  let x := getSq s fn q
  .next (if !writable s fn || decide (2 ^ x.logn < (tail - x.done).toNat) then s
    else updSq fn q (fun x => { x with tail := tail }) s)

/-! ### Completion -/

/-- An entry completes with a status (R491): START, END, STATUS and INFO are written where the entry still translates,
DONE advances, the slot is free, and the vector is signalled. -/
def completeSub (uid status : Nat) (s : State) : State :=
  match findSub s uid with
  | none => s
  | some x =>
    let bs := natBytes x.start 8 ++ natBytes s.tick 8 ++ natBytes status 4 ++ natBytes x.info 4
    let s := (vWriteAll x.tag (x.slotVa + 0x20) bs s).getD s
    let vec := (getSq s x.tag x.q).vec
    let s := updSq x.tag x.q (fun q => { q with done := q.done + 1 }) s
    let s := if bit x.flags 3 then
        updFn x.tag (fun f => { f with vecs := f.vecs ||| BitVec.twoPow 64 vec }) (sendOut 2 0 x.tag 4 true s) else s
    { s with subs := s.subs.filter (·.uid != uid) }

/-! ### Reading an entry (R489, R490) -/

/-- Slices that serve a tag's partition (R437). -/
def slicesOf (s : State) (tag : Nat) : List Nat := (List.range 16).filter fun n => tag ≠ 0 && holdsBy s tag n
where
  /-- Does a slice belong to the tag, dedicated or shared? -/
  holdsBy (s : State) (tag n : Nat) : Bool :=
    let x := getSlice s n
    (x.owner == tag && decide (2 ≤ tag)) || (x.cond == 2 && decide (2 ≤ tag) && x.sharers.getLsbD (tag - 2))

/-- Tags that use the queue slots of a tag's slices: itself, and the other contexts of its shared slice. -/
def slotMates (s : State) (tag : Nat) : List Nat :=
  (List.range 18).filter fun t => t == tag || (slicesOf s tag).any fun n =>
    (getSlice s n).cond == 2 && decide (2 ≤ t) && (getSlice s n).sharers.getLsbD (t - 2)

/-- Is a queue slot free (R490)? -/
def queueSlotFree (s : State) (tag : Nat) : Bool :=
  decide ((s.subs.filter fun x => (slotMates s tag).contains x.tag).length < 64 * (slicesOf s tag).length)

/-- Offset of the first byte of an entry that breaks R489, if any. -/
def firstBad (e : List Byte) : Option Nat :=
  let f := field e
  let op := f 0 1
  let nz (lo n : Nat) : Option Nat := ((List.range n).map (lo + ·)).find? fun i => f i 1 != 0
  if op < 1 ∨ 4 < op then some 0
  else if bits (f 1 1) 4 4 ≠ 0 ∨ bits (f 1 1) 1 2 = 3 then some 1
  else match nz 2 2 with
    | some i => some i
    | none =>
      match (if op = 1 then (if f 4 4 = 0 then some 4 else none) else nz 4 4) with
      | some i => some i
      | none => if (op = 2 ∨ op = 3) ∧ f 0x10 8 % 8 ≠ 0 then some 0x10 else nz 0x38 8

/-- ENTRY_READ (R363, R490): the entry at HEAD is read as a snapshot, HEAD advances, and a slot is held; a bad entry
completes at once with STATUS 6. An entry that cannot be read, or reads as poison, stays where it is. -/
def execEntryRead (fn q : Nat) (s : State) : Host.Outcome State Fault Refusal :=
  let x := getSq s fn q
  let va := x.base.toNat + 64 * (x.head.toNat % 2 ^ x.logn)
  .next (
    if !x.en || x.head == x.tail || !queueSlotFree s fn || vPoison s fn va 64 then s
    else match vBytes s fn va needR 64 with
      | .error _ => s
      | .ok e =>
        let f := field e
        let prev := s.subs.any fun y => y.tag == fn && y.q == q && y.n == (x.head - 1).toNat
        if prev && !bit (f 1 1) 0 then s
        else
          let (u, s) := newUid s
          let bad := firstBad e
          let y : Sub :=
            { uid := u, tag := fn, q := q, n := x.head.toNat, op := f 0 1, flags := f 1 1, teams := f 4 4,
              deadline := BitVec.ofNat 64 (f 8 8), addr := f 0x10 8, value := BitVec.ofNat 64 (f 0x18 8), start := s.tick,
              started := false, status := 0, info := bad.getD 0, finished := false, desc := none, slotVa := va,
              next := 0, live := 0, cn := Snap.blank, lastRead := none }
          let s := updSq fn q (fun x => { x with head := x.head + 1 }) { s with subs := s.subs ++ [y] }
          if bad.isSome then completeSub u 6 s else s)

/-! ### Starting entries (R287, R331, R492) -/

/-- The entry with a unique number, of an operation, that has or has not started. -/
def queueEntry (s : State) (sub op : Nat) (started : Bool) : Option Sub :=
  (findSub s sub).filter fun x => x.op == op && x.started == started

/-- The entry starts now. -/
def startSub (uid : Nat) (s : State) : State := updSub uid (fun x => { x with started := true, start := s.tick }) s

/-- The machine with nothing placed, for R331. -/
def emptied (s : State) : State :=
  { s with g := Group.blank, gs := [], t := Team.blank, ts := [], leases := [], ops := [], obs := [] }

/-- How many of n teams of a descriptor fit on some cores together. -/
def fitCount (d : Desc) (cores : List Nat) : Nat → State → Nat
  | 0, _ => 0
  | n + 1, s =>
    match cores.findSome? fun c => (fitAt s 2 d c).map fun r => (c, r) with
    | none => 0
    | some (c, r) => 1 + fitCount d cores n (putTeam { Team.blank with sub := 1, desc := d } 0 0 c r.1 r.2 s)

/-- Could a launch ever fit (R331)? -/
def couldFit (s : State) (tag : Nat) (d : Desc) (teams : Nat) : Bool :=
  let cores := (slicesOf s tag).flatMap fun n => (List.range 12).map (12 * n + ·)
  let n := if d.coop then teams else 1
  decide (n ≤ cores.length * 16) && fitCount d cores n (emptied s) == n

/-- The descriptor of a launch (R287, R288, R294), none where it cannot be read or breaks a limit. -/
def readDesc (s : State) (tag va : Nat) : Option Desc :=
  if va % 128 ≠ 0 ∨ vPoison s tag va 128 then none
  else match vBytes s tag va needR 128 with
    | .ok bs => (parseDesc bs).filter fun d => liveTableOk s tag d.livemap.toNat
    | .error _ => none

/-- LAUNCH (R287, R331, R489): the descriptor is read and checked, and the teams are ready to be placed; or the entry
completes with the launch-error status and event 0x09. -/
def execLaunch (sub : Nat) (s : State) : Host.Outcome State Fault Refusal :=
  .next (match queueEntry s sub 1 false with
    | none => s
    | some x =>
      let s := startSub sub s
      match (readDesc s x.tag x.addr).filter fun d => couldFit s x.tag d x.teams with
      | some d => updSub sub (fun x => { x with desc := some d, cn := s.snapshot }) s
      | none => completeSub sub 2 (emit x.tag ⟨0x09, 0, 0xFF, 0, x.addr, x.q, some 6, none⟩ s))

/-- A read of a fence word (R492): the entry completes once it is at least VALUE; a fault gives STATUS 7. -/
def readFence (x : Sub) (s : State) : State :=
  match xlate s x.tag engUnit x.addr needR with
  | .error _ => completeSub x.uid 7 s
  | .ok p =>
    let v := gRead s p 8
    let s := sendOut p.target 1 x.tag 8 false (tlbPut p.ent s)
    if x.value.toNat ≤ v ∧ !gPoison s p 0 then completeSub x.uid 1 s
    else updSub x.uid (fun x => { x with lastRead := some (BitVec.ofNat 64 v) }) s

/-- FENCE_WAIT (R492): the entry starts with the first read. -/
def execFenceWait (sub : Nat) (s : State) : Host.Outcome State Fault Refusal :=
  .next (match queueEntry s sub 2 false with
    | none => s
    | some x => readFence { x with started := true, start := s.tick } (startSub sub s))

/-- FENCE_WAIT_REREAD (R492). -/
def execFenceWaitReread (sub : Nat) (s : State) : Host.Outcome State Fault Refusal :=
  .next (match queueEntry s sub 2 true with
    | none => s
    | some x => readFence x s)

/-- FENCE_SIGNAL (R492). -/
def execFenceSignal (sub : Nat) (s : State) : Host.Outcome State Fault Refusal :=
  .next (match queueEntry s sub 3 false with
    | none => s
    | some x =>
      let s := startSub sub s
      match vWriteAll x.tag x.addr (natBytes x.value.toNat 8) s with
      | none => completeSub sub 7 s
      | some s => completeSub sub 1 s)

/-- NO_OPERATION (R492). -/
def execNoOperation (sub : Nat) (s : State) : Host.Outcome State Fault Refusal :=
  .next (match queueEntry s sub 4 false with
    | none => s
    | some _ => completeSub sub 1 (startSub sub s))

/-- Is a record of a task descended from a submission anywhere (R362)? A parked one does not count. -/
def descended (s : State) (sub : Nat) : Bool :=
  let of (r : TaskRec) : Bool := r.subs.contains sub
  let by_ (team : Nat) : Bool := match findTeam s team with | some t => (ancestors s t).contains sub | none => false
  s.ready.any (fun w => w.recs.any of) || s.runs.any (fun r => r.work.recs.any of) || s.launches.any (fun l => of l.recd) ||
    s.fns.any (fun f => match f.ctx with | some c => c.nodes.any (fun n => n.gather.any of) | none => false) ||
    s.ops.any (fun o => (match o.kind with | .covr .. => true | _ => false) && by_ o.team) ||
    s.queries.any fun q => q.live && by_ q.team

/-- SUBMISSION_COMPLETE (R362, R491): every team and every descended task has ended. -/
def execSubmissionComplete (sub : Nat) (s : State) : Host.Outcome State Fault Refusal :=
  .next (match queueEntry s sub 1 true with
    | none => s
    | some x =>
      if x.desc.isSome ∧ x.teams ≤ x.next ∧ x.live = 0 ∧ !descended s sub then
        completeSub sub (if x.status = 0 then 1 else x.status) s
      else s)

end Sys2Proof.Machine
end

