-- ==== Sys2Proof/Machine/Convert.lean ====
section
/-!
DEFINITION. Conversions (spec/04 R106–R108).
-/
namespace Sys2Proof.Machine

/-- The format of a conversion type, when it is floating-point (R79). -/
def CType.fmt : CType → Option Fmt
  | .f32 => some fmtF32
  | .f64 => some fmtF64
  | .f16 => some fmtF16
  | .bf16 => some fmtBf16
  | .e4m3 => some fmtE4m3
  | .e5m2 => some fmtE5m2
  | _ => none

/-- The integer type of a conversion type. -/
def CType.ity : CType → IType
  | .n32 => .n32
  | .i16 => .i16
  | .n16 => .n16
  | .i8 => .i8
  | .n8 => .n8
  | .i64 => .i64
  | _ => .i32

/-- A pair at this conversion type? -/
def CType.wide : CType → Bool
  | .f64 | .i64 => true
  | _ => false

/-- Is every value of the source exact in the destination (R106)? -/
def exactIn (src dst : CType) : Bool :=
  match src, dst with
  | .f16, .f32 | .f16, .f64 | .bf16, .f32 | .bf16, .f64 | .f32, .f64 => true
  | .e4m3, .f16 | .e4m3, .bf16 | .e4m3, .f32 | .e4m3, .f64 => true
  | .e5m2, .f16 | .e5m2, .bf16 | .e5m2, .f32 | .e5m2, .f64 => true
  | _, _ => false

/-- A float to a narrower float (R106). -/
def toNarrower (F : Fmt) (md : Rnd) (sat : Bool) (v : FV) : FR :=
  let sg (s : Bool) : Nat := if s then F.signBit else 0
  match v with
  | .nan q => ⟨F.canonNan, if q then flNV else 0⟩
  | .inf s => if sat then ⟨F.maxEnc + sg s, 0⟩ else ⟨F.inf s, 0⟩
  | .fin s m e => let r := F.roundZ md s m e; if sat then F.satOf s r else r

/-- A float to a float of the same format, or a wider one (R106). -/
def toWider (F : Fmt) (v : FV) : FR :=
  match v with
  | .nan q => ⟨F.canonNan, if q then flNV else 0⟩
  | .inf s => ⟨F.inf s, 0⟩
  | .fin s m e => ⟨(F.roundZ .rn s m e).x, 0⟩

/-- A float to an integer: value and flags (R106). -/
def toInteger (T : IType) (md : Rnd) (v : FV) : Int × Flags :=
  match v with
  | .nan _ => (0, flNV)
  | .inf s => (if s then IType.minVal T else IType.maxVal T, flNV)
  | .fin s m e =>
    let r := intRound md s m e
    let i : Int := if s then -(r.1 : Int) else r.1
    if i < IType.minVal T ∨ IType.maxVal T < i then (satInt T i, flNV) else (i, if r.2 then flNX else 0)

/-- `cvt` (R106): the result pattern, up to 64 bits, and the flags. -/
def convert (dst src : CType) (md : Rnd) (sat : Bool) (fmode : BitVec 2) (x : DWord) : DWord × Flags :=
  match CType.fmt src, CType.fmt dst with
  | some S, some F =>
    let a := ftzIn S (S.flush fmode) (x.toNat % 2 ^ S.width)
    let v := S.value a.x
    let r := if src = dst ∨ exactIn src dst then toWider F v else toNarrower F md sat v
    let r := ftzOut F (F.flush fmode) r
    (BitVec.ofNat 64 r.x, a.fl ||| r.fl)
  | some S, none =>
    let a := ftzIn S (S.flush fmode) (x.toNat % 2 ^ S.width)
    let r := toInteger (CType.ity dst) md (S.value a.x)
    (patInt r.1, a.fl ||| r.2)
  | none, some F =>
    let i := valInt (CType.ity src) x
    let r := F.roundZ md (decide (i < 0)) i.natAbs 0
    let r := if sat then F.satOf (decide (i < 0)) r else r
    (BitVec.ofNat 64 r.x, r.fl)
  | none, none =>
    let i := valInt (CType.ity src) x
    (finalInt (CType.ity dst) sat i, 0)

/-- One element of `cvtp` (R107). -/
def convertF32 (F : Fmt) (md : Rnd) (sat : Bool) (fz : Bool) (x : Nat) : FR :=
  let a := ftzIn fmtF32 fz x
  let r := ftzOut F fz (toNarrower F md sat (fmtF32.value a.x))
  ⟨r.x, a.fl ||| r.fl⟩

/-- `cvtq` (R108): the byte and the flags. -/
def convertScaled (F : Fmt) (sat fz : Bool) (x s : Nat) : FR :=
  let a := ftzIn fmtF32 fz x
  let b := ftzIn fmtF32 fz s
  let va := fmtF32.value a.x
  let vb := fmtF32.value b.x
  let r : FR :=
    if va.isNan || vb.isNan then ⟨F.canonNan, snanFlag [va, vb]⟩
    else match mulVal va vb with
      | none => F.invalid
      | some v => toNarrower F .rn sat v
  ⟨r.x, a.fl ||| b.fl ||| r.fl⟩

end Sys2Proof.Machine
end

