-- ==== Sys2Proof/Machine/Engine.lean ====
section
/-!
DEFINITION. Asynchronous engine operations: what their issue checks and registers, and `acp` and `amc` with their
landing and completion (spec/07 R188, R210, R215–R220, spec/11 R315, R322, R323).
-/
namespace Sys2Proof.Machine

/-! ### Issue -/

/-- The first cause in the order of R187 among those met; lane 0 (R216). -/
def firstCause (cs : List Nat) : Option FaultInfo :=
  (causeOrder.find? cs.contains).map fun c => { cause := c }

/-- The causes of naming a completion record and a barrier object (R206, R215, R216); `acp` tests validity. -/
def nameCauses (t : Team) (bar crec : Option Nat) (valid : Bool) : List Nat :=
  (match bar with
   | some o =>
     (if o % 16 = 0 then [] else [cMISALIGN]) ++ (if 16 * t.desc.barriers ≤ o then [cBARRIER] else []) ++
       (if valid && decide (o < 16 * t.desc.barriers) && !(getObj t o).valid then [cBARRIER] else [])
   | none => []) ++
  (match crec with
   | some r =>
     (if r % 16 = 0 then [] else [cMISALIGN]) ++ (if r + 16 ≤ t.desc.pad then [] else [cPADB]) ++
       (if r < 16 * t.desc.barriers then [cBARRIER] else [])
   | none => [])

/-- The causes of a scratchpad range (R214, R216). -/
def padCauses (t : Team) (lo n : Nat) : List Nat :=
  (if lo + n ≤ t.desc.pad then [] else [cPADB]) ++ (if lo < 16 * t.desc.barriers then [cBARRIER] else [])

/-- Does a range conflict with the table (R188)? -/
def rangeLocked (s : State) (tag core : Nat) (r : Rng) : Bool :=
  if r.glob then lockGlobal s tag core r.lo (r.hi + 1 - r.lo) r.dst else lockPad s r.team r.lo (r.hi + 1 - r.lo) r.dst

/-- Is there no entry for the operation (R216)? -/
def noEntry (s : State) : Bool := !s.g.lockRes && decide (64 ≤ locksUsed s (coreOf s.t s.g))

/-- The lock causes of an operation (R188, R216). -/
def lockCauses (s : State) (rs : List Rng) : List Nat :=
  if rs.any (rangeLocked s s.t.tag (coreOf s.t s.g)) || noEntry s then [cLOCK] else []

/-- Put an operation of the group in focus in flight: it takes the reservation or an entry, joins the open batch, and
its issue is a release (R188, R210, R211, R311). Operations without ranges leave the reservation. -/
def launchOp (kind : OpKind) (lock : List Rng) (bar crec : Option Nat) (s : State) : State :=
  let (u, s) := newUid s
  let s := releaseWait s
  let o : EngOp := { uid := u, grp := s.g.uid, team := s.t.uid, tag := s.t.tag, core := coreOf s.t s.g, gid := myGid s,
                     kind := kind, batches := [(s.g.uid, s.g.closed)], bar := bar, crec := crec, lock := lock,
                     landed := 0, progress := 0, dropped := 0, cause := 0, faultVa := 0, sig := 0 }
  onG (fun x => { x with lockRes := if lock = [] then x.lockRes else false }) { s with ops := s.ops ++ [o] }

/-- An operand that names a barrier or record, or nothing (R215). -/
def nameOf (x : Group) (o : Opnd) : Option Nat :=
  match o with
  | .zero => none
  | o => some (src32 x o 0).toNat

/-- Address of row i in global memory and in the scratchpad (R217). -/
def rowGlob (glob : Nat) (gs : Int) (i : Nat) : Nat := (((glob : Int) + i * gs) % 2 ^ 56).toNat

/-- The interval that the rows cover in global memory (R188). -/
def globSpan (glob : Nat) (gs : Int) (rows len : Nat) : Nat × Nat :=
  let a := rowGlob glob gs 0
  let b := rowGlob glob gs (rows - 1)
  (Nat.min a b, Nat.max a b + len - 1)

/-- `acp` (R215–R217). -/
def execAcp (h : Hdr) (out twoD : Bool) (d a b c : Opnd) (len : BitVec 20) (rows : BitVec 12) (gs : BitVec 20)
    (ps : BitVec 12) (s : State) : Host.Outcome State Fault Refusal :=
  issue (.acp h out twoD d a b c len rows gs ps) s fun e s =>
    if s.g.active h.toGuard = 0 then .ok (seqNext e s)
    else
      let p := (src32 s.g d 0).toNat
      let gl := (srcU s.g true a).toNat % 2 ^ 56
      let n := len.toNat
      let k := if twoD then rows.toNat + 1 else 1
      let gst : Int := 16 * gs.toInt
      let pst := 16 * ps.toNat
      let bar := nameOf s.g b
      let crec := nameOf s.g c
      let span := globSpan gl gst k n
      let lock : List Rng := [⟨out, true, 0, span.1, span.2⟩, ⟨!out, false, s.t.uid, p, p + (k - 1) * pst + n - 1⟩]
      let mis : List Nat := if p % 4 ≠ 0 ∨ gl % 4 ≠ 0 then [cMISALIGN] else []
      match firstCause (mis ++ padCauses s.t p ((k - 1) * pst + n) ++ nameCauses s.t bar crec true ++ lockCauses s lock) with
      | some f => .fault f
      | none => .ok (seqNext e (launchOp (.acp out p gl n k gst pst) lock bar crec s))

/-- The targets of a multicast: core, team there (0 for none), its seat's generation (R218). -/
def amcTargets (s : State) (mask : Nat) : List (Nat × Nat × Nat) :=
  let base := coreOf s.t s.g / 4 * 4
  ((List.range 4).filter (bit mask ·)).map fun i =>
    match peerOf s s.t (base + i) with
    | some t => (base + i, t.uid, (peek s.gens (64 * (base + i) + t.seat)).toNat)
    | none => (base + i, 0, 0)

/-- `amc` (R215, R216, R218). -/
def execAmc (h : Hdr) (d a b c : Opnd) (len : BitVec 20) (s : State) : Host.Outcome State Fault Refusal :=
  issue (.amc h d a b c len) s fun e s =>
    if s.g.active h.toGuard = 0 then .ok (seqNext e s)
    else
      let p := (src32 s.g d 0).toNat
      let mask := (src32 s.g a 0).toNat
      let n := len.toNat
      let bar := nameOf s.g b
      let crec := nameOf s.g c
      if 16 ≤ mask then .fault { cause := cILLOPERAND, opf := 2 }
      else
        let ts := amcTargets s mask
        let lock : List Rng := ⟨false, false, s.t.uid, p, p + n - 1⟩ ::
          (ts.filter (·.2.1 != 0)).map fun t => ⟨true, false, t.2.1, p, p + n - 1⟩
        let mis : List Nat := if p % 4 ≠ 0 then [cMISALIGN] else []
        match firstCause (mis ++ padCauses s.t p n ++ nameCauses s.t bar crec false ++ lockCauses s lock) with
        | some f => .fault f
        | none => .ok (seqNext e (launchOp (.amc p n ts) lock bar crec s))

/-! ### Landing -/

/-- The operation with a unique number. -/
def findOp (s : State) (uid : Nat) : Option EngOp := s.ops.find? (·.uid == uid)

/-- Change an operation. -/
def updOp (uid : Nat) (f : EngOp → EngOp) (s : State) : State :=
  { s with ops := s.ops.map fun o => if o.uid = uid then f o else o }

/-- The operation stops on a fault (R217). -/
def stopOp (o : EngOp) (cause va : Nat) (s : State) : State :=
  updOp o.uid (fun o => { o with cause := cause, faultVa := va }) s

/-- Bytes of an operation in all. -/
def EngOp.total (o : EngOp) : Nat :=
  match o.kind with
  | .acp _ _ _ len rows _ _ => len * rows
  | .amc _ len _ => len
  | _ => 0

/-- What an engine's write adds to the signature of its operation: nothing in fall-back mode (R319–R321). -/
def engSig (s : State) (tag : Nat) (x : Xl) : BitVec 1024 := if fallback s tag then 0 else sigOf (128 * x.sigLine)

/-- Land the next byte of a copy (R217). -/
def landAcp (o : EngOp) (out : Bool) (pd glob len : Nat) (gs : Int) (ps : Nat) (s : State) : State :=
  let k := o.progress
  let va := (rowGlob glob gs (k / len) + k % len) % 2 ^ 56
  let off := pd + k / len * ps + k % len
  match findTeam s o.team, xlate s o.tag engUnit va (if out then needW else needR) with
  | none, _ => s
  | _, .error c => stopOp o c va s
  | some t, .ok x =>
    let s := tlbPut x.ent s
    let done := updOp o.uid fun o => { o with landed := o.landed + 1, progress := o.progress + 1,
                                              sig := o.sig ||| (if out then engSig s o.tag x else 0) }
    if out then
      if padMark t off 1 then stopOp o cECC off s
      else wpEngine o.tag [⟨0, o.core, true, 0, va, 1⟩] (done (gPut x 0 (peek t.pad off) s))
    else if gPoison s x 0 then
      let s := if x.linkDead s then linkPoison o.tag (o.core / 12) o.gid va s else s
      stopOp o cECC va s
    else
      let b := gByte s x 0
      wpEngine o.tag [padTouch t 0 off 1] (done (updTeam o.team (padWrite off 1 b.toNat) s))

/-- Land the next byte of a multicast at every target; a stale target drops it (R218, R322). -/
def landAmc (o : EngOp) (pd : Nat) (targets : List (Nat × Nat × Nat)) (s : State) : State :=
  let off := pd + o.progress
  match findTeam s o.team with
  | none => s
  | some t =>
    if padMark t off 1 then stopOp o cECC off s
    else
      let b := (peek t.pad off).toNat
      let s := updOp o.uid (fun o => { o with progress := o.progress + 1 }) s
      targets.foldl (fun s x =>
        match findTeam s x.2.1 with
        | some p =>
          if (peek s.gens (64 * x.1 + p.seat)).toNat = x.2.2 ∧ p.lives then
            wpEngine o.tag [padTouch p 0 off 1]
              (updOp o.uid (fun o => { o with landed := o.landed + 1 }) (updTeam x.2.1 (padWrite off 1 b) s))
          else countEv o.tag o.core 10 1 (updOp o.uid (fun o => { o with dropped := o.dropped + 1 }) s)
        | none => countEv o.tag o.core 10 1 (updOp o.uid (fun o => { o with dropped := o.dropped + 1 }) s)) s

/-! ### Completion -/

/-- Report the fault of an operation that names no record (R220): event 0x06. -/
def engineFault (o : EngOp) (opc : Nat) (s : State) : State :=
  if o.cause ≠ 0 ∧ o.crec = none then
    emit o.tag ⟨0x06, o.cause, o.core / 12, o.gid, o.faultVa, opc, some 3, none⟩ s
  else s

/-- Write the completion record (R219). -/
def writeRecord (o : EngOp) (s : State) : State :=
  match o.crec, findTeam s o.team with
  | some r, some t =>
    let st := if o.cause ≠ 0 then 2 else if o.dropped ≠ 0 then 3 else 1
    let v := st + 2 ^ 8 * o.cause + 2 ^ 32 * (o.landed % 2 ^ 32) + 2 ^ 64 * (o.progress % 2 ^ 32)
      + 2 ^ 96 * (o.dropped % 2 ^ 32)
    let t' := setCarrier (recKey r) (carrierOf t (recKey r) ||| o.sig)
    wpEngine o.tag [padTouch t 0 r 16] (updTeam o.team (fun t => t' (padWrite r 16 v t)) s)
  | _, _ => s

/-- A group's batch object receives the signature of an operation that completes (R320). -/
def batchCarry (team grp : Nat) (sig : BitVec 1024) (s : State) : State :=
  if sig = 0 then s else updTeam team (fun t => setCarrier (batchKey grp) (carrierOf t (batchKey grp) ||| sig) t) s

/-- The operation leaves the machine: its entry goes, its part of the batch completes with its signature, and its
team may end (R132, R211, R220, R320, R343). -/
def finishOp (o : EngOp) (s : State) : State :=
  let s := { s with ops := s.ops.filter (·.uid != o.uid) }
  teamQuiet o.team (touchWdog o.tag (batchCarry o.team o.grp o.sig s))

/-- Event 0x08: a credit to an object that is not there any more (R220). -/
def creditLost (o : EngOp) (obj bytes : Nat) (s : State) : State :=
  emit o.tag ⟨0x08, 0, o.core / 12, o.gid, obj, bytes, some 4, none⟩ s

/-- Credits of a completed operation (R218, R220); one whose target is stale is reported. -/
def creditOp (o : EngOp) (s : State) : State :=
  match o.bar with
  | none => s
  | some b =>
    match o.kind with
    | .amc _ len targets => targets.foldl (fun s x =>
        match findTeam s x.2.1 with
        | some p => if (peek s.gens (64 * x.1 + p.seat)).toNat = x.2.2 then
            credit o.tag x.2.1 b len o.gid (o.core / 12) o.sig s else creditLost o b len s
        | none => creditLost o b len s) s
    | _ => credit o.tag o.team b o.total o.gid (o.core / 12) o.sig s

/-- Completion of a copy or multicast, when every byte is done or it has stopped (R219, R220). -/
def completeCopy (uid opc : Nat) (mine : OpKind → Bool) (s : State) : State :=
  match findOp s uid with
  | none => s
  | some o =>
    if !mine o.kind || (o.cause == 0 && o.progress != o.total) || padHeld s o.team then s
    else finishOp o (creditOp o (writeRecord o (engineFault o opc s)))

/-- ACP_COMPLETION (R220). -/
def execAcpCompletion (op : Nat) (s : State) : Host.Outcome State Fault Refusal :=
  .next (completeCopy op 0x90 (fun k => match k with | .acp .. => true | _ => false) s)

/-- AMC_COMPLETION (R220). -/
def execAmcCompletion (op : Nat) (s : State) : Host.Outcome State Fault Refusal :=
  .next (completeCopy op 0x91 (fun k => match k with | .amc .. => true | _ => false) s)

/-- RANGE_LOCK_ENTRY_FREE (R210): a group that waits on `obj_lock` takes the free entry. -/
def execRangeLockEntryFree (grp : Nat) (s : State) : Host.Outcome State Fault Refusal :=
  let s := focus grp s
  match s.g.stat with
  | .waiting w => .next (if w.obj = objLock ∧ s.g.uid = grp ∧ s.t.resid = .resident then (wake s).getD s
      else s)
  | _ => .next s

end Sys2Proof.Machine
end

