-- ==== Sys2Proof/Machine/MatMath.lean ====
section
/-!
DEFINITION. The arithmetic of `mma` (spec/04 R110–R118, spec/08 R238, R241, R249): fragment elements, grouped codes and
the sums, whose order the spec leaves open within a bound.
-/
namespace Sys2Proof.Machine

/-- Kmax of a format pair; none when R116 does not list it. -/
def kmaxOf (a b : Nat) : Option Nat :=
  match a, b with
  | 0, 0 => some 32
  | 1, 1 => some 32
  | 2, 2 => some 64
  | 2, 3 => some 64
  | 3, 2 => some 64
  | 3, 3 => some 64
  | 0, 5 => some 32
  | 1, 5 => some 32
  | 0, 6 => some 32
  | 1, 6 => some 32
  | 4, 4 => some 64
  | 5, 5 => some 64
  | 6, 6 => some 128
  | _, _ => none

/-- Is a format grouped (R110)? -/
def grouped (f : Nat) : Bool := f == 5 || f == 6

/-- Group length of GLEN (R239). -/
def groupLen (g : Nat) : Nat := 2 ^ (g + 4)

/-- Code of element k of a fragment row held at key 64 r + byte (R238). -/
def fragCode (c : Cells 8) (fmt r k : Nat) : Nat :=
  let byte (b : Nat) : Nat := (peek c (64 * r + b)).toNat
  match fmt with
  | 0 | 1 => byte (2 * k) + 256 * byte (2 * k + 1)
  | 6 => bits (byte (k / 2)) (4 * (k % 2)) 4
  | _ => byte k

/-- The value of a floating-point code. -/
def codeVal (fmt x : Nat) : FV :=
  match fmt with
  | 0 => fmtF16.value x
  | 1 => fmtBf16.value x
  | 2 => fmtE4m3.value x
  | _ => fmtE5m2.value x

/-- dequant(q, e) (R113). -/
def dequant (q : Nat) (e : Word) : FV :=
  let d : Int := (q : Int) - bits e.toNat 16 8
  match mulVal (fmtF16.value (e.toNat % 2 ^ 16)) (.fin (decide (d < 0)) d.natAbs 0) with
  | some v => v
  | none => .nan false

/-- The scale entry of element k of row r (R241). -/
def entryOf (sc : Cells 32) (kmax glen r k : Nat) : Word :=
  let G := groupLen glen
  peek sc (r * ((kmax + G - 1) / G) + k / G)

/-- The value of an element of one side. -/
def sideVal (c : Cells 8) (sc : Cells 32) (fmt kmax glen r k : Nat) : FV :=
  let q := fragCode c fmt r k
  if grouped fmt then dequant q (entryOf sc kmax glen r k) else codeVal fmt q

/-- Position of an f32 encoding in the order of values. -/
def f32Index (x : Nat) : Int := if bit x 31 then -((x % 2 ^ 31 : Nat) : Int) else x

/-- The encoding at a position. -/
def f32At (i : Int) : Nat := if i < 0 then 2 ^ 31 + i.natAbs else i.natAbs

/-- A signed sum over 2^lo rounded in a direction, as a position. -/
def posOf (md : Rnd) (t lo : Int) : Int := f32Index (fmtF32.roundZ md (decide (t < 0)) t.natAbs lo).x

/-- ⌈log2 k⌉. -/
def ceilLog2 (k : Nat) : Nat := if k ≤ 1 then 0 else Nat.log2 (k - 1) + 1

/-- Signed numerator of a finite value over 2^lo. -/
def numAt (lo : Int) : FV → Int
  | .fin s m e => signedAt s m e lo
  | _ => 0

/-- A sum of finite values in f32 for k terms (R117). DESIGN CHOICE (log 97): where products or running sums overflow f32 in some
order but the exact sum does not, which the bound of R117 leaves out, the result is finite and within that bound.
DESIGN CHOICE (log 96): a zero sum is +0, also where c and every product are −0. Where every partial sum in every order is exact in f32, rounding to
nearest changes none of them and the result is exact (log 41); elsewhere it is the exact value rounded to nearest, or another
value within the bound, as an open choice. -/
def sumFinite (k : Nat) (ts : List FV) (args : List Nat) : Nat :=
  let lo : Int := ts.foldl (fun (m : Int) v => match v with | .fin _ n e => if n ≠ 0 ∧ e < m then e else m | _ => m) 0
  let t := ts.foldl (fun a v => a + numAt lo v) 0
  let mag := ts.foldl (fun a v => a + (numAt lo v).natAbs) 0
  let g := ts.foldl (fun a v => Nat.gcd a (numAt lo v).natAbs) 0
  let tz := Nat.log2 (g ^^^ (g - 1))
  let b : Int := (ceilLog2 k + 2) * mag
  let near := fmtF32.roundZ .rn (decide (t < 0)) t.natAbs lo
  if (near.fl &&& flOF) ≠ 0 ∨ (-149 ≤ lo + tz ∧ mag ≤ 2 ^ (24 + tz)) then near.x
  else
    let l := posOf .rp (t * 2 ^ 24 - b) (lo - 24)
    let h := posOf .rm (t * 2 ^ 24 + b) (lo - 24)
    if h < l then near.x
    else f32At (l + (Config.free .mma (args ++ [near.x]) % ((h - l).toNat + 1) : Nat))

/-- An f32 accumulation (R117). -/
def sumOpen (k : Nat) (ts : List FV) (args : List Nat) : Nat :=
  let infs := ts.filterMap fun v => match v with | .inf s => some s | _ => none
  if ts.any FV.isNan then fmtF32.canonNan
  else match infs with
    | [] => sumFinite k ts args
    | s :: r => if r.all (· == s) then fmtF32.inf s else fmtF32.canonNan

/-- A product as a term; 0 × ∞ is a NaN (R117). -/
def termVal (a b : FV) : FV := (mulVal a b).getD (.nan false)

/-- The terms of one group of two grouped sides (R115): round_ne(S × p); S × p is an infinity or, for S = 0, a NaN where p is
infinite. -/
def groupTerms (x : MmaOp) (kmax m n lo hi : Nat) : List FV :=
  let ea := entryOf x.asc kmax x.glen m lo
  let eb := entryOf x.bsc kmax x.glen n lo
  let ks := (List.range (hi - lo)).map (lo + ·)
  let s : Int := ks.foldl (fun (t : Int) k =>
    t + ((fragCode x.a x.afmt m k : Int) - bits ea.toNat 16 8) * ((fragCode x.b x.bfmt n k : Int) - bits eb.toNat 16 8)) 0
  match mulVal (fmtF16.value (ea.toNat % 2 ^ 16)) (fmtF16.value (eb.toNat % 2 ^ 16)) with
  | some (.fin ps pm pe) => [fmtF32.value (fmtF32.roundZ .rn (decide (s < 0) != ps) (s.natAbs * pm) pe).x]
  | some p => [termVal (.fin (decide (s < 0)) s.natAbs 0) p]
  | none => [.nan false]

/-- The new value of one element (R249). -/
def mmaElem (x : MmaOp) (z : Word) (m n : Nat) : Word :=
  let kmax := (kmaxOf x.afmt x.bfmt).getD 32
  let kc := if x.kc = 0 then kmax else x.kc
  let args := [z.toNat, m, n, x.tileName, x.kc, x.salt, bytesAt x.a (64 * m) 64, bytesAt x.b (64 * n) 64]
  if x.afmt = 4 then
    BitVec.ofInt 32 (z.toInt + (List.range kc).foldl (fun (t : Int) k =>
      t + sextNat (fragCode x.a 4 m k) 8 * sextNat (fragCode x.b 4 n k) 8) 0)
  else
    let c := fmtF32.value z.toNat
    if grouped x.afmt then
      let G := groupLen x.glen
      let gs := (kc + G - 1) / G
      let ts := (List.range gs).flatMap fun g => groupTerms x kmax m n (g * G) (Nat.min kc (g * G + G))
      BitVec.ofNat 32 (sumOpen gs (c :: ts) args)
    else
      let ts := (List.range kc).map fun k =>
        termVal (sideVal x.a x.asc x.afmt kmax x.glen m k) (sideVal x.b x.bsc x.bfmt kmax x.glen n k)
      BitVec.ofNat 32 (sumOpen kc (c :: ts) args)

/-- The tile after an operation (R249): rows and columns that the edge masks leave on. -/
def mmaTile (x : MmaOp) (z : Cells 32) : Cells 32 :=
  (List.range x.m).foldl (fun zz m =>
    if !x.er.getLsbD m then zz
    else (List.range x.n).foldl (fun zz n =>
      if x.ec.getLsbD n then poke zz (64 * m + n) (mmaElem x (peek z (64 * m + n)) m n) else zz) zz) z

end Sys2Proof.Machine
end

