-- ==== Sys2Proof/Machine/Tokens.lean ====
section
/-!
DEFINITION. Token charges and the metering of matrix-engine leases (spec/19 R449, R450, spec/22 R505).
-/
namespace Sys2Proof.Machine

/-- A charge (R450): from the balance, then as debt, borrowed from the pool up to BORROWMAX; what a tenant that winds down
still spends is debt above it. Answers the pool and the tokens. -/
def chargeTok (n pool : Nat) (k : Tokens) : Nat × Tokens :=
  let own := Nat.min n k.bal
  let loan := Nat.min (n - own) (k.borrowMax - k.debt)
  let bal := k.bal - own
  let debt := k.debt + (n - own)
  (pool - loan, { k with bal := bal, debt := debt, starving := k.starving || (bal == 0 && decide (k.borrowMax ≤ debt)) })

/-- Charge a tenant n tokens (R450). -/
def charge (tag n : Nat) (s : State) : State :=
  if n = 0 then s
  else
    let r := chargeTok n s.pool (getFn s tag).tok
    updFn tag (fun f => { f with tok := r.2 }) { s with pool := r.1 }

/-- Is a tenant starving (R450)? -/
def starving (s : State) (tag : Nat) : Bool := (getFn s tag).tok.starving

/-- The lender meters engine clocks of a lease (R455, R505): one token each time the count passes a multiple of 4,000; the
event of code 0x2B is counted for the borrower on the slice that asks (R425). -/
def meterLease (handle clocks core : Nat) (s : State) : State :=
  match s.leases.find? (·.handle == handle) with
  | none => s
  | some l =>
    let s := { s with leases := s.leases.map fun l => if l.handle = handle then { l with clocks := l.clocks + clocks } else l }
    countCode l.borrower core 0x2B clocks (charge l.borrower ((l.clocks + clocks) / 4000 - l.clocks / 4000) s)

/-- Is an operation on a lease tile held at the lender, because its tenant starves (R450)? -/
def leaseHeld (s : State) (tag : Nat) (tile : Word) : Bool := bits tile.toNat 16 16 != 0 && starving s tag

end Sys2Proof.Machine
end

