-- ==== Sys2Proof/Machine/Matrix.lean ====
section
/-!
DEFINITION. Gang matrix instructions and the accumulator store (spec/08 R232–R258), and `zld` and `zdrn` as their engine
runs them.
-/
namespace Sys2Proof.Machine

/-! ### Tiles (R242–R244) -/

/-- Where a tile lies: a lease handle, or 0 and a team, with the core and the name. -/
structure TileRef where
  lease : Nat
  team : Nat
  core : Nat
  name : Nat
  deriving DecidableEq, Repr

/-- The tile of a reference. -/
def getTile (s : State) (r : TileRef) : Option Tile :=
  if r.lease ≠ 0 then
    match s.leases.find? (·.handle == r.lease) with
    | some l => l.tiles.find? (·.name == r.name)
    | none => none
  else match findTeam s r.team with
    | some t => t.tiles.find? fun z => z.core == r.core && z.name == r.name
    | none => none

/-- Change the tile of a reference. -/
def updTile (r : TileRef) (f : Tile → Tile) (s : State) : State :=
  let g (z : Tile) : Tile := if z.core = r.core ∧ z.name = r.name then f z else z
  if r.lease ≠ 0 then
    { s with leases := s.leases.map fun l =>
      if l.handle = r.lease then { l with tiles := l.tiles.map fun z => if z.name = r.name then f z else z } else l }
  else updTeam r.team (fun t => { t with tiles := t.tiles.map g }) s

/-- The tile a tile operand names, or its fault (R242). -/
def tileOf (s : State) (v : Word) : Except Nat TileRef :=
  let h := bits v.toNat 16 16
  let name := bits v.toNat 0 9
  if h ≠ 0 then
    match s.leases.find? fun l => l.handle == h && l.borrower == s.t.tag with
    | none => .error cPERM
    | some l => if bits v.toNat 9 7 = 0 ∧ name < l.count then .ok ⟨h, 0, l.core, name⟩ else .error cZTILE
  else
    let r : TileRef := ⟨0, s.t.uid, coreOf s.t s.g, name⟩
    if bits v.toNat 9 7 = 0 ∧ (getTile s r).isSome then .ok r else .error cZTILE

/-- The tile operand of an instruction. -/
def tileWord (x : Group) (a : Opnd) : Word := src32 x a 0

/-- The tile an operation in flight uses. -/
def EngOp.tileRef (o : EngOp) : Option TileRef :=
  let of (v : Word) : TileRef := ⟨bits v.toNat 16 16, if bits v.toNat 16 16 = 0 then o.team else 0, o.core, bits v.toNat 0 9⟩
  match o.kind with
  | .mma x => some ⟨x.lease, if x.lease = 0 then x.tileTeam else 0, x.tileCore, x.tileName⟩
  | .zld v _ => some (of v)
  | _ => none

/-! ### Row transfers -/

/-- Record the progress of a `zld` or `zdrn` in its group (R258). -/
def noteRows (o : EngOp) (state : Nat) (s : State) : State :=
  match findOp s o.uid with
  | none => s
  | some o' => updGroup o.grp (fun x => { x with zprog := x.zprog.map fun p =>
      if p.op = o.uid then { p with state := state, cause := o'.cause, rows := o'.progress } else p }) s

/-- Load the next row of a tile (R253). -/
def zldRow (o : EngOp) (r : TileRef) (pd : Nat) (s : State) : State :=
  if o.cause ≠ 0 ∨ 64 ≤ o.progress then s
  else match findTeam s o.team with
    | none => s
    | some t =>
      let m := o.progress
      let off := pd + 256 * m
      if padMark t off 256 then noteRows o 1 (stopOp o cECC off s)
      else
        let s := updTile r (fun z => { z with
          z := pokeN z.z (64 * m) (fun n => BitVec.ofNat 32 (padRead t (off + 4 * n) 4)) 64,
          zm := clearRange z.zm (64 * m) 64 }) s
        noteRows o 1 (updOp o.uid (fun o => { o with progress := o.progress + 1, landed := o.landed + 256 }) s)

/-- Do two references name one tile? The core of a lease tile is the lease's. -/
def TileRef.same (r q : TileRef) : Bool :=
  r.lease == q.lease && r.team == q.team && r.name == q.name && (r.lease != 0 || r.core == q.core)

/-- Apply the operations accepted earlier on a tile, in order, so that the next one sees the tile as they left it
(R243). -/
def settleTile (r : TileRef) (s : State) : State :=
  s.ops.foldl (fun s o =>
    if !((EngOp.tileRef o).any r.same) then s
    else match o.kind with
      | .mma x =>
        if o.progress = 0 ∧ o.dropped = 0 then
          updOp o.uid (fun o => { o with progress := 1 }) (updTile r (fun z => { z with z := mmaTile x z.z }) s)
        else s
      | .zld _ pd => (List.range (64 - o.progress)).foldl (fun s _ =>
          match findOp s o.uid with
          | some o => zldRow o r pd s
          | none => s) s
      | _ => s) s

/-! ### `gang` and `eset` -/

/-- Indices that a gang value lists, A-suppliers first, then B0, and B1 when it differs (R232). -/
def gangMembers (v : Nat) : List Nat :=
  (List.range (bits v 30 2 + 1)).map (fun i => bits v (5 * i) 5) ++ [bits v 20 5] ++
    (if bits v 25 5 = bits v 20 5 then [] else [bits v 25 5])

/-- Is a gang value well formed for the group in focus (R233)? -/
def gangOk (s : State) (v : Nat) : Bool :=
  let ms := gangMembers v
  let core := coreOf s.t s.g
  ms.all (fun i => decide (i < s.t.desc.ngrp)) && decide ms.Nodup &&
    ((List.range 4).all fun i => i ≤ bits v 30 2 || bits v (5 * i) 5 == 0) &&
    ms.all fun i => (groupsOf s s.t.uid).any fun x => x.gidx == i && coreOf s.t x == core

/-- `gang` (R247). -/
def execGang (stay : Bool) (k : BitVec 2) (a : Opnd) (s : State) : Host.Outcome State Fault Refusal :=
  issue (.gang stay k a) s fun e s =>
    let v := src32 s.g a 0
    if gangOk s v.toNat then
      .ok (seqNext e (onG (fun x => { x with k := setAt x.k k.toNat ⟨true, v⟩ }) s))
    else .fault { cause := cILLOPERAND, opf := 2 }

/-- `eset` (R247). -/
def execEset (stay : Bool) (k : BitVec 3) (a : Opnd) (s : State) : Host.Outcome State Fault Refusal :=
  issue (.eset stay k a) s (plain fun _ s => onG (fun x => { x with e := poke x.e k.toNat (srcU x true a) }) s)

/-! ### `mma` -/

/-- Registers of a supplier's fragment (R238). -/
def fragRegs (gw : Nat) (b : Bool) : Nat := (if b then 16 else 8) * 32 / gw

/-- One byte of a fragment: its register past the base and its lane (R238). -/
def fragByte (gw : Nat) (b : Bool) (row k : Nat) : Nat × Nat × Nat :=
  if b then
    if gw = 16 then (k / 4 + 16 * (row / 16), row % 16, k % 4)
    else (k / 4 / (gw / 32), row + 32 * (k / 4 % (gw / 32)), k % 4)
  else (k / 4 / (gw / 16), row + 16 * (k / 4 % (gw / 16)), k % 4)

/-- Add a supplier's fragment to the rows of one side, from row at row0 on. -/
def readFrag (x : Group) (base : Nat) (b : Bool) (row0 : Nat) (c : Cells 8) : Cells 8 :=
  (List.range (if b then 32 else 16)).foldl (fun c r =>
    pokeN c (64 * (row0 + r)) (fun k =>
      let p := fragByte x.gw b r k
      BitVec.ofNat 8 ((x.vAt (base + p.1) p.2.1).toNat / 2 ^ (8 * p.2.2))) 64) c

/-- The lowest lane of a supplier's fragment with a mark. -/
def fragMark (x : Group) (base : Nat) (b : Bool) : Option Nat :=
  if x.regs.vm = [] then none
  else (List.range x.gw).find? fun l => (List.range (fragRegs x.gw b)).any fun j => x.vMark (base + j) l

/-- The members of a latch, held, in the order of the gang value. -/
def gangGroups (s : State) (v : Nat) : List Group :=
  (gangMembers v).filterMap fun i => (groupsOf s s.t.uid).find? (·.gidx == i)

/-- Bytes that the engine reads for an operation, in global memory or in the team's scratchpad; a cause when they cannot
be read, and whether one is poisoned (R235). -/
def engineRead (s : State) (pd : Bool) (va n : Nat) : Except Nat (List Byte × Bool) :=
  if pd then
    if va + n ≤ s.t.desc.pad then .ok (natBytes (padRead s.t va n) n, padMark s.t va n) else .error cPADB
  else match vBytes s s.t.tag va needR n with
    | .ok bs => .ok (bs, vPoison s s.t.tag va n)
    | .error (c, _) => .error c

/-- The scale entries a side needs (R241): rows that the edge mask leaves on, groups below the K count. -/
def scaleNeeds (on : DWord) (rows kmax kc glen : Nat) : List Nat :=
  let G := groupLen glen
  let E := (kmax + G - 1) / G
  ((List.range rows).filter (on.getLsbD ·)).flatMap fun m => (List.range ((kc + G - 1) / G)).map fun g => m * E + g

/-- Read the entries of a side: the map, whether a pad byte is set, whether one is poisoned, or the causes with the
addresses that meet them. -/
def readScales (s : State) (pd : Bool) (base : Nat) (idx : List Nat) :
    Except (List (Nat × Nat)) (Cells 32 × Bool × Bool) :=
  let rs := idx.map fun i => (i, engineRead s pd (base + 4 * i) 4)
  let bad := rs.filterMap fun r => match r.2 with | .error c => some (c, base + 4 * r.1) | .ok _ => none
  if bad ≠ [] then .error bad
  else .ok (rs.foldl (fun (a : Cells 32 × Bool × Bool) r => match r.2 with
    | .ok (bs, p) => (poke a.1 r.1 (BitVec.ofNat 32 (bytesNat bs)), a.2.1 || field bs 3 1 != 0, a.2.2 || p)
    | .error _ => a) ([], false, false))

/-- The order of the checks at a rendezvous (R235). -/
def rdvOrder : List Nat := [cMISALIGN, cPADB, cPAGE, cPERM, cZTILE, cILLOPERAND, cECC]

/-- Does a format block pass R240? -/
def blockOk (b : List Byte) : Bool :=
  let fa := field b 0 1
  let fb := field b 1 1
  (kmaxOf fa fb).isSome && (field b 2 1 != 0) == (grouped fa || grouped fb) && decide (field b 2 1 < 4)
    && (field b 8 8 != 0) == grouped fa && (field b 16 8 != 0) == grouped fb
    && decide (field b 3 1 < 2) && field b 4 4 == 0 && field b 24 8 == 0

/-- The operation of a completed rendezvous, or the fault that its first failing check gives every member (R235). -/
def rendezvous (s : State) (gang : Word) (lead : MmaArrive) : Except (Nat × Nat) MmaOp :=
  let v := gang.toNat
  let ms := gangGroups s v
  let na := bits v 30 2 + 1
  let blk := engineRead s lead.fbpd lead.blk 32
  let tile := tileOf s lead.tile
  let at_ (c : Nat) : Nat × Nat := (c, lead.blk)
  let tileBad : List (Nat × Nat) := match tile with | .error c => [at_ c] | .ok _ => []
  let b : List Byte := match blk with | .ok r => r.1 | .error _ => []
  let ok := blockOk b
  let fa := field b 0 1
  let fb := field b 1 1
  let glen := field b 2 1
  let kmax := (kmaxOf fa fb).getD 32
  let kc := if lead.kc = 0 then kmax else lead.kc
  let n := if bits v 25 5 = bits v 20 5 then 32 else 64
  let pd := bit (field b 3 1) 0
  let side (f : Nat) (adr : Nat) (on : DWord) (rows : Nat) : Except (List (Nat × Nat)) (Cells 32 × Bool × Bool) :=
    if ok && grouped f && adr % 4 == 0 && decide (kc ≤ kmax) then readScales s pd adr (scaleNeeds on rows kmax kc glen)
    else .ok ([], false, false)
  let sa := side fa (field b 8 8) lead.er (16 * na)
  let sb := side fb (field b 16 8) lead.ec n
  let blkBad : List (Nat × Nat) := match blk with | .error c => [at_ c] | .ok _ => []
  let scBad (r : Except (List (Nat × Nat)) (Cells 32 × Bool × Bool)) : List (Nat × Nat) :=
    match r with | .error cs => cs | .ok _ => []
  let scOf (r : Except (List (Nat × Nat)) (Cells 32 × Bool × Bool)) : Cells 32 × Bool × Bool :=
    match r with | .ok x => x | .error _ => ([], false, false)
  let mis : List (Nat × Nat) :=
    if lead.blk % 32 ≠ 0 ∨ field b 8 8 % 4 ≠ 0 ∨ field b 16 8 % 4 ≠ 0 then [at_ cMISALIGN] else []
  let opnd : List (Nat × Nat) :=
    if blk.toOption.isSome ∧ (!ok || (scOf sa).2.1 || (scOf sb).2.1 || decide (kmax < lead.kc)) then [at_ cILLOPERAND] else []
  let frags := (List.range ms.length).filterMap fun i => match ms[i]? with
    | some x => (x.arrive.map fun a => (x, a.fbase, decide (na ≤ i), if i < na then 16 * i else 32 * (i - na)))
    | none => none
  let lanes := frags.filterMap fun f => fragMark f.1 f.2.1 f.2.2.1
  let blkMark := match blk with | .ok r => r.2 | .error _ => false
  let ecc : List (Nat × Nat) := if lanes ≠ [] ∨ (blkMark || (scOf sa).2.2 || (scOf sb).2.2) = true then [at_ cECC] else []
  let cs := mis ++ blkBad ++ scBad sa ++ scBad sb ++ tileBad ++ opnd ++ ecc
  match rdvOrder.findSome? (fun c => cs.find? (·.1 == c)), tile with
  | some f, _ => .error f
  | none, .error c => .error (c, lead.blk)
  | none, .ok r =>
    .ok { tileTeam := r.team, tileCore := r.core, tileName := r.name, lease := r.lease, m := 16 * na, n := n,
          kc := lead.kc, afmt := fa, bfmt := fb, glen := glen, er := lead.er, ec := lead.ec,
          a := frags.foldl (fun c f => if f.2.2.1 then c else readFrag f.1 f.2.1 false f.2.2.2 c) [],
          b := frags.foldl (fun c f => if f.2.2.1 then readFrag f.1 f.2.1 true f.2.2.2 c else c) [],
          asc := (scOf sa).1, bsc := (scOf sb).1, salt := s.fresh }

/-- A held member takes the rendezvous fault at its `mma` (R235). -/
def memberFault (c va u : Nat) (s : State) : State :=
  let s := focus u s
  let b := match s.g.arrive with
    | some a => match s.g.k.find? (fun k => k.valid && k.val == a.gang) with
      | some k => (gangMembers k.val.toNat).findIdx (· == s.g.gidx) > bits k.val.toNat 30 2
      | none => false
    | none => false
  let lane := match s.g.arrive with
    | some a => if c = cECC then (fragMark s.g a.fbase b).getD 0 else 0
    | none => 0
  let s := onG Group.unhold s
  takeFault { cause := c, opf := if c = cILLOPERAND then 8 else 0, lane := lane, va := va } s

/-- A held member is released and continues with its next run (R235). The comparison of R19 that goes with the PC set at
its arrival is made now (log 98). -/
def memberGo (u : Nat) (s : State) : State :=
  let s := focus u s
  settle false { s with g := { s.g with stat := .running, arrive := none } }

/-- Complete the rendezvous of a gang value when every listed group has arrived (R234, R235). The lender of a lease tile
accepts the operation and meters its 32 clocks, or holds it while the tenant starves (`dropped` 1; R450, R455, R505). -/
def tryRendezvous (gang : Word) (s : State) : State :=
  let ms := gangGroups s gang.toNat
  let lead := ms.head?
  match s.t.latches.find? (·.gang == gang), lead with
  | some l, some x =>
    if !(gangMembers gang.toNat).all l.arrived.contains then s
    else match x.arrive with
      | none => s
      | some a =>
        let me := s.g.uid
        let s := { s with t := { s.t with latches := s.t.latches.filter (·.gang != gang) } }
        match rendezvous s gang a with
        | .error (c, va) => focus me (ms.foldl (fun s m => memberFault c va m.uid s) s)
        | .ok op =>
          let (u, s) := newUid s
          let o : EngOp := { uid := u, grp := x.uid, team := s.t.uid, tag := s.t.tag, core := coreOf s.t x,
                             gid := Group.gidIn s x, kind := .mma op, batches := ms.map fun m => (m.uid, m.closed),
                             bar := none, crec := none, lock := [], landed := 0, progress := 0,
                             dropped := if op.lease ≠ 0 ∧ starving s s.t.tag then 1 else 0, cause := 0, faultVa := 0, sig := 0 }
          let s := if op.lease ≠ 0 ∧ o.dropped = 0 then meterLease op.lease 32 o.core s else s
          focus me (ms.foldl (fun s m => memberGo m.uid s) { s with ops := s.ops ++ [o] })
  | _, _ => s

/-- The failing specifiers of `mma` at issue (R248, R249). -/
def mmaOpf (s : State) (ls : Bool) (kr : GangReg) (a b c : Opnd) : BitVec 4 :=
  let x := s.g
  let v := kr.val.toNat
  let ms := gangMembers v
  if !kr.valid || !ms.contains x.gidx then 1
  else
    let i := ms.findIdx (· == x.gidx)
    let base := match b with | .v r => r.toNat | _ => 0
    let frag : BitVec 4 := if windowOf s.t x < base + fragRegs x.gw (decide (bits v 30 2 < i)) then 4 else 0
    let lead : BitVec 4 :=
      if i ≠ 0 then 0
      else (match c with | .g r => if r.toNat % 2 = 0 then 0 else 8 | _ => 8) |||
        (if ls = (bits (tileWord x a).toNat 16 16 != 0) then 0 else 2)
    frag ||| lead

/-- Does a gang value list a group that has ended? -/
def listsEnded (s : State) (v : Nat) : Bool :=
  (gangMembers v).any fun i => (groupsOf s s.t.uid).all fun x => x.gidx != i || x.over

/-- `mma` (R234, R249): its issue is a release towards the engine (R311); the group arrives, which breaks the other latches that
list it (R236), its run ends and it is held; the last arrival completes the rendezvous. -/
def execMma (ls : Bool) (k : BitVec 2) (a b c : Opnd) (er ec : BitVec 3) (kc : BitVec 8) (fbpd : Bool) (s : State) :
    Host.Outcome State Fault Refusal :=
  issue (.mma ls k a b c er ec kc fbpd) s fun e s =>
    let x := s.g
    let kr := x.k.getD k.toNat ⟨false, 0⟩
    let opf := mmaOpf s ls kr a b c
    if opf ≠ 0 then .fault { cause := cILLOPERAND, opf := opf }
    else
      let arr : MmaArrive :=
        { run := x.startOfRun, pos := x.runPos, at_ := x.pc, gang := kr.val, tile := tileWord x a, ls := ls, fbase := (match b with | .v r => r.toNat | _ => 0),
          blk := if fbpd then (src32 x c 0).toNat else (srcU x true c).toNat % 2 ^ 56,
          er := peek x.e er.toNat, ec := peek x.e ec.toNat, kc := kc.toNat, fbpd := fbpd }
      let s := releaseWait s
      let s := withBroken s.g.uid (breakLatches x.gidx (some kr.val) s)
      if listsEnded s kr.val.toNat then .ok (takeFault { cause := cGANG } s)
      else
        let next := nextPc e s
        let s := onG (fun x => { x with stat := .held, arrive := some arr, pc := next }.endRun) s
        let old := s.t.latches.find? (·.gang == kr.val)
        let l : Latch := match old with
          | some l => { l with arrived := l.arrived ++ [x.gidx] }
          | none => ⟨kr.val, [x.gidx]⟩
        let s := { s with t := { s.t with latches := l :: s.t.latches.filter (·.gang != kr.val) } }
        .ok (tryRendezvous kr.val s)

/-- MMA_OPERATION_COMPLETE (R249, R250): the tile takes the result, and the batch of every member is served. -/
def execMmaOperationComplete (op : Nat) (s : State) : Host.Outcome State Fault Refusal :=
  .next (match findOp s op with
    | none => s
    | some o => match o.kind, EngOp.tileRef o with
      | .mma _, some r => if o.dropped = 0 then finishOp o (settleTile r s) else s
      | _, _ => s)

/-! ### `zclr`, `zfree`, `zgrow`, `zprg` -/

/-- The tiles that a range of names covers, or its fault (R251). -/
def tileRange (s : State) (v : Word) (count : Nat) : Except Nat (List TileRef) :=
  let name := bits v.toNat 0 9
  if 512 < name + count then (match tileOf s v with | .error c => .error c | .ok _ => .error cZTILE)
  else (List.range count).foldr (fun i r => match tileOf s (v + BitVec.ofNat 32 i), r with
    | .error c, _ => .error c
    | _, .error c => .error c
    | .ok t, .ok ts => .ok (t :: ts)) (.ok [])

/-- `zclr` (R251). On lease tiles of a starving tenant the operation is held at its issue (R243, R450). -/
def execZclr (h : Hdr) (a b : Opnd) (s : State) : Host.Outcome State Fault Refusal :=
  let held := s
  issue (.zclr h a b) s fun e s =>
    let n := (src32 s.g b 0).toNat
    if s.g.active h.toGuard = 0 ∨ n = 0 then .ok (seqNext e s)
    else match tileRange s (tileWord s.g a) n with
      | .error c => .fault { cause := c }
      | .ok rs => .ok (if leaseHeld s s.t.tag (tileWord s.g a) then held else seqNext e (rs.foldl (fun s r =>
          updTile r (fun z => { z with z := [], zm := [] }) (settleTile r s)) s))

/-- `zfree` (R251). -/
def execZfree (h : Hdr) (a b : Opnd) (s : State) : Host.Outcome State Fault Refusal :=
  issue (.zfree h a b) s fun e s =>
    let v := tileWord s.g a
    let n := (src32 s.g b 0).toNat
    if s.g.active h.toGuard = 0 ∨ n = 0 then .ok (seqNext e s)
    else match tileRange s v n with
      | .error c => .fault { cause := c }
      | .ok rs =>
        if bits v.toNat 16 16 ≠ 0 then .fault { cause := cZTILE }
        else
          let s := rs.foldl (fun s r => settleTile r s) s
          let kept := s.t.tiles.filter fun z => !rs.any fun r => r.core == z.core && r.name == z.name
          .ok (seqNext e { s with t := { s.t with tiles := kept } })

/-- Tiles of a core beyond the teams' reservations (R252, R332). -/
def tilesBeyond (s : State) (core : Nat) : Nat :=
  (allTeams s).foldl (fun n t => n + ((t.tiles.filter (·.core == core)).length - t.desc.ztiles)) 0

/-- The lowest run of unheld names (R252). -/
def freeNames (t : Team) (core count : Nat) : Option Nat :=
  (List.range 513).find? fun n => decide (n + count ≤ 512) &&
    !(t.tiles.any fun z => z.core == core && decide (n ≤ z.name) && decide (z.name < n + count))

/-- `zgrow` (R252). -/
def execZgrow (h : Hdr) (d a : Opnd) (s : State) : Host.Outcome State Fault Refusal :=
  issue (.zgrow h d a) s fun e s =>
    let act := s.g.active h.toGuard
    let n := (src32 s.g a 0).toNat
    let core := coreOf s.t s.g
    if act = 0 then .ok (seqNext e (wrG e d false 0 0 s))
    else
      let grown (k : Nat) : State :=
        let new : List Tile := (List.range n).map fun i => ⟨core, k + i, [], []⟩
        { s with t := { s.t with tiles := s.t.tiles ++ new } }
      match (if n = 0 ∨ 512 < n then none else freeNames s.t core n) with
      | some k =>
        if tilesUsed s core + n ≤ 512 ∧ tilesBeyond (grown k) core ≤ 64 then
          .ok (seqNext e (wrG e d false act (BitVec.ofNat 64 k) (grown k)))
        else .ok (seqNext e (wrG e d false act 0xFFFFFFFF s))
      | none => .ok (seqNext e (wrG e d false act 0xFFFFFFFF s))

/-- `zprg` (R258). -/
def execZprg (h : Hdr) (d a : Opnd) (s : State) : Host.Outcome State Fault Refusal :=
  issue (.zprg h d a) s fun e s =>
    let act := s.g.active h.toGuard
    let v := tileWord s.g a
    if act = 0 then .ok (seqNext e (wrG e d false 0 0 s))
    else match tileOf s v with
      | .error c => .fault { cause := c }
      | .ok _ =>
        let r : Nat := match s.g.zprog.find? (·.tile == v) with
          | some p => p.state * 2 ^ 30 + (if p.state = 2 then p.cause * 2 ^ 16 else 0) + p.rows
          | none => 0
        .ok (seqNext e (wrG e d false act (BitVec.ofNat 64 r) s))

/-! ### `zld` and `zdrn` -/

/-- Record a new row transfer as the group's latest on its tile (R258). -/
def startRows (v : Word) (uid : Nat) (s : State) : State :=
  onG (fun x => { x with zprog := ⟨v, uid, 1, 0, 0⟩ :: x.zprog.filter (·.tile != v) }) s

/-- `zld` (R253); held at its issue as `zclr` is. -/
def execZld (h : Hdr) (a b : Opnd) (s : State) : Host.Outcome State Fault Refusal :=
  let held := s
  issue (.zld h a b) s fun e s =>
    if s.g.active h.toGuard = 0 then .ok (seqNext e s)
    else
      let v := tileWord s.g a
      let pd := (src32 s.g b 0).toNat
      match tileOf s v with
      | .error c => .fault { cause := c }
      | .ok r =>
        let lock : List Rng := [⟨false, false, s.t.uid, pd, pd + 16383⟩]
        let mis : List Nat := if pd % 16 = 0 then [] else [cMISALIGN]
        match firstCause (mis ++ padCauses s.t pd 16384 ++ lockCauses s lock) with
        | some f => .fault f
        | none =>
          let u := s.nextUid
          .ok (if leaseHeld s s.t.tag v then held
            else seqNext e (startRows v u (launchOp (.zld v pd) lock none none (settleTile r s))))

/-- Bytes of a drained element (R255). -/
def drnBytes (cv : DrnCv) : Nat :=
  match cv with
  | .f32 => 4
  | .bf16 => 2
  | .f16 => 2
  | .e4m3 => 1
  | .i32 => 4
  | .i8 => 1

/-- Bytes that the rows of a drain span. -/
def drnSpan (rows cols stride : Nat) (cv : DrnCv) : Nat := (rows - 1) * stride + cols * drnBytes cv

/-- `zdrn` (R254, R255); held at its issue as `zclr` is. -/
def execZdrn (h : Hdr) (acc : Bool) (cv : DrnCv) (a b c : Opnd) (pd : Bool) (row0 rows cols : BitVec 6)
    (shift : BitVec 5) (col0 : BitVec 6) (stride : Word) (s : State) : Host.Outcome State Fault Refusal :=
  let held := s
  issue (.zdrn h acc cv a b c pd row0 rows cols shift col0 stride) s fun e s =>
    if s.g.active h.toGuard = 0 then .ok (seqNext e s)
    else
      let v := tileWord s.g a
      let base := if pd then (src32 s.g b 0).toNat else (srcU s.g true b).toNat % 2 ^ 56
      let nr := rows.toNat + 1
      let nc := cols.toNat + 1
      let n := drnSpan nr nc stride.toNat cv
      match tileOf s v with
      | .error k => .fault { cause := k }
      | .ok r =>
        let lock : List Rng := [⟨true, !pd, if pd then s.t.uid else 0, base, base + n - 1⟩]
        let mis : List Nat := if base % 16 = 0 then [] else [cMISALIGN]
        match firstCause (mis ++ (if pd then padCauses s.t base n else []) ++ lockCauses s lock) with
        | some f => .fault f
        | none =>
          let starved := leaseHeld s s.t.tag v
          let s := settleTile r s
          let z := (getTile s r).getD ⟨0, 0, [], []⟩
          let scale : Word := match c with | .g _ => src32 s.g c 0 | _ => 0
          let u := s.nextUid
          .ok (if starved then held else seqNext e (startRows v u (launchOp
            (.zdrn v acc cv pd base row0.toNat nr col0.toNat nc shift.toNat stride.toNat scale z.z z.zm) lock none none s)))

/-- The stored value of an element (R255). -/
def drnValue (cv : DrnCv) (x scale : Word) (shift : Nat) : Nat :=
  match cv with
  | .f32 => x.toNat
  | .i32 => x.toNat
  | .bf16 => (toNarrower fmtBf16 .rn false (fmtF32.value x.toNat)).x
  | .f16 => (toNarrower fmtF16 .rn false (fmtF32.value x.toNat)).x
  | .e4m3 => (convertScaled fmtE4m3 true false x.toNat scale.toNat).x
  | .i8 =>
    let r := roundAt .rn (decide (x.toInt < 0)) x.toInt.natAbs (-(shift : Int)) 0 false
    (patInt (satInt .i8 (if x.toInt < 0 then -(r.1 : Int) else r.1))).toNat % 256

/-- old + new as an add-on-store has it (R256). -/
def drnAdd (cv : DrnCv) (old new : Nat) : Nat :=
  match cv with
  | .f32 => (fAdd fmtF32 false .rn old new).x
  | _ => (old + new) % 2 ^ 32

/-- Where the bytes of an element go; an add-on-store needs W as any drain does (R299). -/
def drnSpot (s : State) (o : EngOp) (pd : Bool) (adr : Nat) : Except Nat Spot :=
  if pd then .ok (.pad o.team adr)
  else match xlate s o.tag engUnit adr needW with
    | .ok x => .ok (.glob x)
    | .error c => .error c

/-- The parts of a drain's destination within one page each: target, device or team, first byte, bytes; a part that does
not translate is left out. -/
def drnParts (s : State) (o : EngOp) : List (Nat × Nat × Nat × Nat) :=
  match o.kind with
  | .zdrn _ _ cv pd base _ rows _ cols _ stride .. =>
    (List.range rows).flatMap fun i =>
      let n := cols * drnBytes cv
      let a := if pd then base + i * stride else (base + i * stride) % 2 ^ 56
      if pd then [(3, o.team, a, n)]
      else
        let k := Nat.min n (4096 - a % 4096)
        [(a, k), ((a + k) % 2 ^ 56, n - k)].filterMap fun p =>
          if p.2 = 0 then none
          else match drnSpot s o pd p.1 with
            | .ok (.glob x) => some (x.target, x.dev, x.addr, p.2)
            | _ => none
  | _ => []

/-- Does an add-on-store share bytes with another one in flight that has begun (R256)? -/
def addBlocked (s : State) (o : EngOp) : Bool :=
  let begun := s.ops.filter fun p => p.uid != o.uid &&
    (match p.kind with | .zdrn _ acc .. => acc && decide (0 < p.progress) && p.cause == 0 | _ => false)
  begun != [] && begun.any fun p => (drnParts s p).any fun a => (drnParts s o).any fun b =>
    a.1 == b.1 && a.2.1 == b.2.1 && meets a.2.2.1 a.2.2.2 b.2.2.1 b.2.2.2

/-- Land the next row of a drain (R255–R257); an add-on-store that meets poison at its target stops there (R472). -/
def landZdrn (o : EngOp) (acc : Bool) (cv : DrnCv) (pd : Bool) (base row0 rows col0 cols shift stride : Nat)
    (scale : Word) (snap : Cells 32) (snapm : Cells 1) (s : State) : State :=
  if rows ≤ o.progress ∨ (acc ∧ addBlocked s o) then s
  else
    let i := o.progress
    let b := drnBytes cv
    let key (j : Nat) : Nat := 64 * (row0 + i) + col0 + j
    let adr (j : Nat) : Nat := if pd then base + i * stride + j * b else (base + i * stride + j * b) % 2 ^ 56
    let sp := (List.range cols).map fun j => (j, drnSpot s o pd (adr j))
    match sp.find? fun p => match p.2 with | .error _ => true | .ok _ => false with
    | some (j, .error c) => noteRows o 2 (stopOp o c (adr j) s)
    | _ =>
      let bad := sp.find? fun p => match p.2 with
        | .ok q => acc && (spotRead s b q).2
        | .error _ => false
      if (List.range cols).any fun j => peek snapm (key j) == 1 then noteRows o 2 (stopOp o cECC 0 s)
      else if bad.isSome then noteRows o 2 (stopOp o cECC (adr ((bad.map (·.1)).getD 0)) s)
      else
        let s := sp.foldl (fun s p => match p.2 with
          | .error _ => s
          | .ok q =>
            let v := drnValue cv (peek snap (key p.1)) scale shift
            let v := if acc then drnAdd cv (spotRead s b q).1 v else v
            let s := match q.xl with
              | some x => updOp o.uid (fun o => { o with sig := o.sig ||| engSig s o.tag x }) s
              | none => s
            spotWrite b v q s) s
        let touch : List Touch := match pd, findTeam s o.team with
          | true, some t => [padTouch t 0 (adr 0) (cols * b)]
          | _, _ => [⟨0, o.core, true, 0, adr 0, cols * b⟩]
        let s := if acc then (if s.obs = [] then s else (touchCores touch).foldl (fun s c => wpQueue o.tag c 2 0 o.gid 0 0 touch s) s)
          else wpEngine o.tag touch s
        noteRows o 1 (updOp o.uid (fun o => { o with progress := o.progress + 1, landed := o.landed + cols * b }) s)

/-- What an engine's next access to global memory begins: virtual address, bytes, virtual channel, and whether it carries
data; a row at a time. -/
def rowSent (s : State) (o : EngOp) : Option (Nat × Nat × Nat × Bool) :=
  match o.kind with
  | .acp out _ gl len rows gs _ =>
    if o.progress % len = 0 ∧ o.progress < len * rows then some (rowGlob gl gs (o.progress / len), len, if out then 0 else 1, out) else none
  | .zdrn _ acc cv false base _ rows _ cols _ stride _ _ _ =>
    if o.progress < rows ∧ !(acc && addBlocked s o) then
      some ((base + o.progress * stride) % 2 ^ 56, cols * drnBytes cv, if acc then 1 else 0, true)
    else none
  | _ => none

/-- The transactions of an engine's row (R480). -/
def sendRow (o : EngOp) (s : State) : State :=
  match rowSent s o with
  | some (va, n, vc, data) => sendVa o.tag va vc n data s
  | none => s

/-- One unit of an operation lands: a byte of a copy or multicast, a row of a tile transfer. -/
def landOne (uid : Nat) (s : State) : State :=
  match findOp s uid with
  | none => s
  | some o =>
    if o.cause ≠ 0 ∨ padHeld s o.team then s
    else
      let s := sendRow o s
      match o.kind with
      | .acp out pd gl len rows gs ps => if o.progress < len * rows then landAcp o out pd gl len gs ps s else s
      | .amc pd len ts => if o.progress < len ∧ !(ts.any fun t => padHeld s t.2.1) then landAmc o pd ts s else s
      | .zld _ pd => match EngOp.tileRef o with
        | some r => zldRow o r pd s
        | none => s
      | .zdrn _ acc cv pd base row0 rows col0 cols shift stride scale snap snapm =>
        landZdrn o acc cv pd base row0 rows col0 cols shift stride scale snap snapm s
      | _ => s

/-- ENGINE_BYTES_LAND (R217, R218, R253, R255): the next n bytes or rows of an operation, in order. -/
def execEngineBytesLand (op n : Nat) (s : State) : Host.Outcome State Fault Refusal :=
  .next (match findOp s op with
    | none => s
    | some o => (List.range n).foldl (fun s _ => landOne op s) (touchWdog o.tag s))

/-- Completion of a row transfer: its rows are done, or it has stopped (R253, R257). -/
def completeRows (uid opc rows : Nat) (s : State) : State :=
  match findOp s uid with
  | none => s
  | some o =>
    if o.cause = 0 ∧ o.progress < rows then s
    else finishOp o (engineFault o opc (noteRows o (if o.cause = 0 then 0 else 2) s))

/-- ZLD_COMPLETION (R253). -/
def execZldCompletion (op : Nat) (s : State) : Host.Outcome State Fault Refusal :=
  .next (match findOp s op with
    | some o => match o.kind with
      | .zld _ _ => completeRows op 0xA4 64 s
      | _ => s
    | none => s)

/-- ZDRN_COMPLETION (R257). -/
def execZdrnCompletion (op : Nat) (s : State) : Host.Outcome State Fault Refusal :=
  .next (match findOp s op with
    | some o => match o.kind with
      | .zdrn _ _ _ _ _ _ rows _ _ _ _ _ _ _ => completeRows op 0xA5 rows s
      | _ => s
    | none => s)

/-- TEAM_TILES_RETURN (R244): the tiles of an ended team are cleared and returned. -/
def execTeamTilesReturn (team : Nat) (s : State) : Host.Outcome State Fault Refusal :=
  .next (match findTeam s team with
    | some t => if t.resid = .drained then updTeam team (fun t => { t with tiles := [], resid := .gone }) s else s
    | none => s)

end Sys2Proof.Machine
end

