-- ==== Sys2Proof/Machine/Lease.lean ====
section
/-!
DEFINITION. The end of matrix-engine leases and the token period (spec/19 R448–R450, R456, spec/22 R505, R506).
-/
namespace Sys2Proof.Machine

/-- The lease whose tiles an operation in flight uses; 0 for none. -/
def EngOp.leaseOf (o : EngOp) : Nat :=
  match o.kind with
  | .mma x => x.lease
  | .zld v _ => bits v.toNat 16 16
  | .zdrn v _ _ _ _ _ _ _ _ _ _ _ _ _ => bits v.toNat 16 16
  | _ => 0

/-- A lease ends as one step (R456), with its reason, on a slice: operations accepted or held are gone and their batches
served, the remainder of the clocks is charged as a token (R505), the table entry is no longer valid, event 0x0C. -/
def endLease (handle reason slice : Nat) (s : State) : State :=
  match s.leases.find? (·.handle == handle) with
  | none => s
  | some l =>
    let s := (s.ops.filter fun o => EngOp.leaseOf o == handle).foldl (fun s o => finishOp o s) s
    let s := charge l.borrower (if l.clocks % 4000 = 0 then 0 else 1)
      { s with leases := s.leases.filter (·.handle != handle) }
    let s := updFn l.borrower (fun f => { f with leaseTab := f.leaseTab.map fun e =>
      if e.1 && e.2 == handle then (false, handle) else e }) s
    emit l.borrower ⟨0x0C, 0, slice, 0, 0, handle + 2 ^ 16 * reason, none, none⟩ s

/-- End the leases that fulfil a test. -/
def endLeases (p : Lease → Bool) (reason : Nat) (slice : Lease → Nat) (s : State) : State :=
  (s.leases.filter p).foldl (fun s l => endLease l.handle reason (slice l) s) s

/-- LEASE_DURATION_EXPIRY (R456). -/
def execLeaseDurationExpiry (handle : Nat) (s : State) : Host.Outcome State Fault Refusal :=
  .next (match s.leases.find? (·.handle == handle) with
    | some l => if l.ends ≤ s.tick then endLease handle 2 (l.core / 12) s else s
    | none => s)

/-- The lender accepts the operations held for a tenant, in order, as long as it does not starve (R450). -/
def acceptHeld (tag : Nat) (s : State) : State :=
  s.ops.foldl (fun s o =>
    if o.tag = tag ∧ EngOp.leaseOf o ≠ 0 ∧ o.dropped = 1 ∧ !starving s tag then
      meterLease (EngOp.leaseOf o) 32 o.core (updOp o.uid (fun o => { o with dropped := 0 }) s)
    else s) s

/-- TOKEN_CHARGE (R449, R450): microseconds of a bound shed engine or of a lent cluster, or blocks of AHL payload. -/
def execTokenCharge (tag amount : Nat) (s : State) : Host.Outcome State Fault Refusal :=
  .next (if 2 ≤ tag ∧ tag ≤ 17 then charge tag amount s else s)

/-! ### Period boundaries -/

/-- Tags of the tenants. -/
def tenants : List Nat := (List.range 16).map (· + 2)

/-- POOLCAP (R449). -/
def poolCap (s : State) : Nat := tenants.foldl (fun n t => n + (getFn s t).tok.cap) 0

/-- The refill of one tenant (R449) and what ends its starving (R450). Answers the pool and the tokens. -/
def refillTok (cap pool : Nat) (k : Tokens) : Nat × Tokens :=
  let pay := Nat.min k.debt (k.refill / 2)
  let b := k.bal + k.refill - pay
  let spill := b - k.cap
  let bal := b - spill
  let starve := k.starving && bal == 0
  (Nat.min (pool + pay + spill) cap, { k with bal := bal, debt := k.debt - pay, starving := starve, starvedAll := starve })

/-- The refill of every tenant, in order of tag. -/
def refillAll (s : State) : State :=
  let cap := poolCap s
  tenants.foldl (fun s t =>
    let r := refillTok cap s.pool (getFn s t).tok
    updFn t (fun f => { f with tok := r.2 }) { s with pool := r.1 }) s

/-- Does a cooperative swarm of a tag occupy a cluster (R334)? -/
def coopOn (s : State) (tag cl : Nat) : Bool :=
  (allTeams s).any fun t => t.lives && t.coopSwarm && t.tag == tag &&
    (clusterOf t.core == cl || (t.pair && clusterOf (t.core + 1) == cl))

/-- Was a tenant behind during the period that ends (R448)? -/
def behind (s : State) (tag : Nat) : Bool := (getFn s tag).passed

/-- The border controller's decision on one cluster (R448). -/
def border (s : State) (e : Elastic) : Elastic :=
  if e.passing then e
  else if e.lent then
    { e with passing := behind s e.lender || decide (2 ≤ (getFn s e.borrower).notBehind) || starving s e.borrower }
  else { e with passing := !e.release && behind s e.borrower && !behind s e.lender && !coopOn s e.lender e.cluster }

/-- TOKEN_PERIOD_BOUNDARY (R448–R450, R456): leases of tenants that starved for the whole period end, tokens refill, the
operations held for a tenant that starves no more are accepted, and the border controller decides. -/
def execTokenPeriodBoundary (s : State) : Host.Outcome State Fault Refusal :=
  .next (
    if s.tick < s.boundary then s
    else
      let s := endLeases (fun l => (getFn s l.borrower).tok.starvedAll && starving s l.borrower) 3 (fun l => l.core / 12) s
      let s := tenants.foldl (fun s t => acceptHeld t s) (refillAll s)
      let s := tenants.foldl (fun s t => updFn t (fun f =>
        { f with notBehind := if f.passed then 0 else f.notBehind + 1 }) s) s
      let s := { s with elastics := s.elastics.map (border s) }
      let s := tenants.foldl (fun s t => updFn t (fun f => { f with passed := false }) s) s
      { s with boundary := s.boundary + s.period })

/-- ELASTIC_HANDOVER (R448): the last team of the tenant that gives the cluster up has ended. -/
def execElasticHandover (cl : Nat) (s : State) : Host.Outcome State Fault Refusal :=
  .next (match s.elastics.find? (·.cluster == cl) with
    | none => s
    | some e =>
      let from_ := if e.lent then e.borrower else e.lender
      let occupied := (allTeams s).any fun t => t.lives && t.tag == from_ &&
        (clusterOf t.core == cl || (t.pair && clusterOf (t.core + 1) == cl))
      if !e.passing || occupied then s
      else { s with elastics := s.elastics.map fun e =>
        if e.cluster = cl then { e with lent := !e.lent, passing := false, since := s.tick } else e })

end Sys2Proof.Machine
end

