-- ==== Sys2Proof/Machine/Wipe.lean ====
section
/-!
DEFINITION. The discarding of teams with their operations and slots, as resets do it (spec/20 R474 steps 1 to 6, R475).
-/
namespace Sys2Proof.Machine

/-- The tasks of discarded teams end as tasks stopped on the error path (R349, R474). -/
def wipeTasks (us : List Nat) (s : State) : State :=
  us.foldl (fun s u => match findTeam s u with
    | none => s
    | some t => match t.origin, (groupsOf s u).find? fun x => !x.over with
      | .launch, _ => s
      | _, none => s
      | _, some x => taskEnd (focus x.uid s)) s

/-- Engine operations and queries of discarded teams stop at once: credits elsewhere are made, credits to the discarded
scratchpads and records are dropped (R474 step 2). -/
def wipeOps (us : List Nat) (s : State) : State :=
  let mine := s.ops.filter fun o => us.contains o.team
  let s := mine.foldl (fun s o => match o.kind with
    | .amc pd len ts => creditOp { o with kind := .amc pd len (ts.filter fun x => !us.contains x.2.1) } s
    | _ => s) s
  { s with ops := s.ops.filter (fun o => !us.contains o.team), queries := s.queries.filter fun q => !us.contains q.team }

/-- The slots that tasks of discarded teams own return (R474 step 6). -/
def wipeRuns (us : List Nat) (s : State) : State :=
  let rs := s.runs.filter fun r => us.contains r.team
  let s := rs.foldl (fun s r => r.work.recs.foldl (fun s x => returnSlot x.tag x.slot s) s) s
  { s with runs := s.runs.filter fun r => !us.contains r.team }

/-- A group discarded unsaved. -/
def wipeGroup (x : Group) : Group :=
  { x with stat := .ended, live := 0, em := 0, halted := false, arrive := none, stop := none, hits := [], pend := [],
           unack := 0, lockRes := false, lockLost := false }

/-- Discard teams (R474 steps 1, 2, 5, 6): their groups, operations, slots, seats, monitors and tiles. -/
def wipeTeams (us : List Nat) (s : State) : State :=
  let me := s.g.uid
  let gs := ((allGroups s).filter fun x => us.contains x.team && x.uid != 0).map (·.uid)
  let s := focus me (wipeTasks us s)
  let s := mapGroups (fun x => if us.contains x.team ∧ x.uid ≠ 0 then wipeGroup x else x) (wipeRuns us (wipeOps us s))
  let s := us.foldl (fun s u => match findTeam s u with
    | some t => if t.lives then teamEnd u s else s
    | none => s) s
  let s := mapTeams (fun t => if us.contains t.uid ∧ t.uid ≠ 0 then { t with resid := .gone, tiles := [] } else t) s
  { s with wpq := s.wpq.filter (fun h => h.grp == 0 || !gs.contains h.grp),
           heldCr := s.heldCr.filter fun c => !us.contains c.team }

/-- Is a unit of translation one of a slice's: of a core, or of a cluster (R301)? -/
def unitOn (ns : List Nat) (u : Nat) : Bool :=
  (decide (u < 192) && ns.contains (u / 12)) || (decide (192 ≤ u) && decide (u < engUnit) && ns.contains ((u - 192) / 3))

/-- The caches and TLBs of some slices, and their home stations' lines, become empty (R443 step 4, R474 step 5). -/
def scrubCaches (ns : List Nat) (s : State) : State :=
  { s with l1 := s.l1.filter (fun l => !ns.contains (l.core / 12)), tlb := s.tlb.filter (fun e => !unitOn ns e.unit),
           l2 := s.l2.filter fun l => !ns.contains (l.line / 2 ^ 28) }

/-- A slice has been reset: INST counts anew (R145). -/
def clearInst (ns : List Nat) (s : State) : State :=
  { s with inst := s.inst.filter fun c => !ns.contains (c.1 / 768) }

/-- The teams that a reset of some slices discards (R474): those placed on or saved from them, and every team of a
cooperative swarm that has one there. -/
def resetTeams (s : State) (hit : Nat → Bool) : List Nat :=
  let there := (allTeams s).filter fun t => t.uid != 0 && t.resid != .gone && hit t.slice
  let swarms := (there.filter fun t => t.coopSwarm).map (·.sub)
  let mates := (allTeams s).filter fun t => t.uid != 0 && t.resid != .gone && t.origin == .launch && swarms.contains t.sub
  ((there ++ mates).map (·.uid)).eraseDups

/-- Launches of discarded teams are to complete with a status once their remaining teams have ended; none of their teams is
placed any more (R474, R493). -/
def failLaunches (us : List Nat) (status : Nat) (s : State) : State :=
  let hit := ((allTeams s).filter fun t => us.contains t.uid && t.lives && t.origin == .launch).map (·.sub)
  { s with subs := s.subs.map fun x => if hit.contains x.uid && !x.finished then
      { x with status := if x.status = 0 then status else x.status, next := Nat.max x.next x.teams } else x }

end Sys2Proof.Machine
end

