-- ==== Sys2Proof/Machine/PartMgr.lean ====
section
/-!
DEFINITION. The partition manager (spec/19 R437–R444, R447, R454, R456, R457, R459, R460, R463, spec/17 R428, R429). A write
of GO reads the command block; each command is then executed by a step of its own.
-/
namespace Sys2Proof.Machine

/-! ### The command block (R440) -/

/-- Physical address of the command block. -/
def pmAddr (s : State) : Nat := bits s.pm.caddr.toNat 5 51 * 32

/-- Fields of the block: OP, TAG, SLICES, FLAGS, TIMEOUT, ARG0, ARG1. -/
def cmdOp (s : State) : Nat := field s.pm.block 0 1
def cmdTag (s : State) : Nat := field s.pm.block 1 1
def cmdSlices (s : State) : BitVec 16 := BitVec.ofNat 16 (field s.pm.block 2 2)
def cmdFlag (s : State) (i : Nat) : Bool := bit (field s.pm.block 5 1) i
def cmdTimeout (s : State) : Nat := field s.pm.block 8 4
def cmdArg0 (s : State) : Nat := field s.pm.block 0x10 8
def cmdArg1 (s : State) : Nat := field s.pm.block 0x18 8

/-- Write bytes of the block as it stands in memory, under the key it was written with. -/
def pmPut (off : Nat) (bs : List Byte) (s : State) : State :=
  { s with mem := { s.mem with hbm := pokeN s.mem.hbm (s.pm.addr + off) (fun i => bs.getD i 0) bs.length } }

/-- The command ends with a status (R440): STATUS in the block, LAST, BUSY clear. -/
def pmEnd (status : Nat) (s : State) : State :=
  let s := pmPut 4 (natBytes status 1) s
  { s with pm := { s.pm with busy := false, last := status, block := [], phase := 0, deadline := none } }

/-- Slices of a mask. -/
def slicesIn (m : BitVec 16) : List Nat := (List.range 16).filter fun n => m.getLsbD n

/-- Does a tag name a virtual function (R440)? -/
def tagOk (t : Nat) : Bool := decide (2 ≤ t) && decide (t ≤ 17)

/-- Does a tag hold a partition (R437)? -/
def holdsPart (s : State) (t : Nat) : Bool := slicesOf s t != []

/-- Does a tag hold a dedicated partition? -/
def holdsDedicated (s : State) (t : Nat) : Bool :=
  tagOk t && (List.range 16).any fun n => (getSlice s n).owner == t

/-- May slices be taken: up and unassigned (R441, R495)? -/
def allFree (s : State) (ns : List Nat) : Bool := ns.all fun n => (getSlice s n).up && (getSlice s n).st == 0

/-- A command by its code and a test: its outcome is a status with the state it leaves, or none while it waits. -/
def pmRun (op : Nat) (mine : State → Bool) (run : State → Option (Nat × State)) (s : State) :
    Host.Outcome State Fault Refusal :=
  .next (if s.pm.busy && cmdOp s == op && mine s && s.dump.fatal.isNone then
      match run s with
      | some (st, s') => pmEnd st s'
      | none => s
    else s)

/-- A write of GO (R439, R440): ignored while BUSY, or where ADDR is not in region memory of tag 1; a reserved OP, a byte
marked zero, and KEY with action 3 end at once. -/
def pmGo (s : State) : State :=
  let pa := pmAddr s
  let off := pa % 2 ^ 35
  if s.pm.busy ∨ 2 ^ 39 ≤ pa ∨ regionBytes - loftBytes < off + 32 ∨ !inWindows s 1 pa then s
  else
    let bs := (List.range 32).map fun i => peek s.mem.hbm (pa + i)
    let s := { s with pm := { s.pm with busy := true, addr := pa, block := bs, at_ := s.tick, phase := 0 } }
    let op := field bs 0 1
    if op = 0 ∨ 13 < op ∨ 16 ≤ field bs 5 1 ∨ field bs 6 2 ≠ 0 ∨ field bs 0xC 4 ≠ 0
        ∨ (op = 5 ∧ bits (field bs 0x10 8) 12 2 = 3) then pmEnd 2 s
    else s

/-! ### Slices -/

/-- Make the slices of a mask, with those that a tag has, its dedicated partition (R439, R441, R442). -/
def own (t : Nat) (ns : List Nat) (s : State) : State :=
  let all := (List.range 16).filter fun n => ns.contains n || (getSlice s n).owner == t
  let low := all.headD 0
  all.foldl (fun s n => updSlice n (fun z => { z with
    st := if ns.contains n then 1 else z.st, owner := t, part := low, resident := t }) s) s

/-- Leave slices unassigned (R441, R443), and name the partition that remains anew. -/
def disown (t : Nat) (ns : List Nat) (s : State) : State :=
  let s := ns.foldl (fun s n => updSlice n (fun z => { z with
    st := 0, owner := 1, part := n, sharers := 0, span := 0, resident := 0, ends := none, ending := none, remap := [] }) s) s
  own t [] s

/-- Scrub slices as a slice reset scrubs (R474 step 5): what stands on them of any team goes. -/
def scrub (ns : List Nat) (s : State) : State := scrubCaches ns (wipeTeams (resetTeams s (ns.contains ·)) s)

/-- ASSIGN (R441): a new dedicated partition. -/
def execAssign (s : State) : Host.Outcome State Fault Refusal :=
  pmRun 1 (fun s => !cmdFlag s 0) (fun s =>
    let ns := slicesIn (cmdSlices s)
    let t := cmdTag s
    if !tagOk t || ns == [] then some (2, s)
    else if !allFree s ns || holdsPart s t then some (3, s)
    else some (1, own t ns s)) s

/-- ASSIGN with SHARED (R437, R441): one slice shared among 2 to 8 functions. -/
def execAssignShared (s : State) : Host.Outcome State Fault Refusal :=
  pmRun 1 (fun s => cmdFlag s 0) (fun s =>
    let ns := slicesIn (cmdSlices s)
    let m : BitVec 16 := BitVec.ofNat 16 (cmdArg0 s)
    let ts := (slicesIn m).map (· + 2)
    let us := bits (cmdArg1 s) 0 32
    match ns with
    | [n] =>
      if ts.length < 2 ∨ 8 < ts.length ∨ us < 100 ∨ 100000 < us then some (2, s)
      else if !allFree s ns || ts.any (holdsPart s) then some (3, s)
      else some (1, updSlice n (fun z => { z with
        st := 2, owner := 1, part := n, sharers := m, span := us, resident := ts.headD 0,
        ends := some (s.tick + 1000 * us), ending := none }) s)
    | _ => some (2, s)) s

/-- Slices enter a state (R439). -/
def enterState (st : Nat) (ns : List Nat) (s : State) : State := ns.foldl (fun s n => updSlice n (fun z => { z with st := st }) s) s

/-- FUSE (R442): the slices that join are first in state 3; then they are the partition's, in its placement set and its window. -/
def execFuse (s : State) : Host.Outcome State Fault Refusal :=
  let ns := slicesIn (cmdSlices s)
  let t := cmdTag s
  if s.pm.phase = 1 then pmRun 2 (fun _ => true) (fun s => some (1, own t ns s)) s
  else if !tagOk t || ns == [] then pmRun 2 (fun _ => true) (fun s => some (2, s)) s
  else if !allFree s ns || !holdsDedicated s t then pmRun 2 (fun _ => true) (fun s => some (3, s)) s
  else .next (if s.pm.busy && cmdOp s == 2 && s.dump.fatal.isNone then
      { enterState 3 ns s with pm := { s.pm with phase := 1 } }
    else s)

/-- Is a slice in a lease or an elastic registration (R441)? -/
def lentOut (s : State) (n : Nat) : Bool :=
  s.leases.any (fun l => l.core / 12 == n) || s.elastics.any fun e => e.cluster / 3 == n

/-- Mark the cooperative swarms on removed slices to be stopped at barrier points (R334, R443). -/
def forceSwarms (t : Nat) (ns : List Nat) (s : State) : State :=
  let subs := ((allTeams s).filter fun x => x.lives && x.tag == t && x.coopSwarm && ns.contains x.slice).map (·.sub)
  mapTeams (fun x => if x.lives && x.tag == t && x.coopSwarm && subs.contains x.sub
    then { x with sliceEnd := some s.tick } else x) s

/-- Steps 3 to 5 of SPLIT (R443), once no team of the context and no operation is on the removed slices. -/
def splitEnd (t : Nat) (ns : List Nat) (s : State) : Option (Nat × State) :=
  let busy := (allTeams s).any (fun x => x.uid != 0 && x.resid != .gone && x.tag == t && ns.contains x.slice) ||
    s.ops.any fun o => o.tag == t && (ns.contains (o.core / 12) || match o.kind with
      | .amc _ _ ts => ts.any fun x => ns.contains (x.1 / 12)
      | _ => false)
  if busy then none else some (1, disown t ns (scrub ns s))

/-- SPLIT (R334, R443): the first step takes the slices out of the placement set; the command ends when they are empty. -/
def execSplit (s : State) : Host.Outcome State Fault Refusal :=
  let ns := slicesIn (cmdSlices s)
  let t := cmdTag s
  if s.pm.phase = 1 then pmRun 3 (fun _ => true) (splitEnd t ns) s
  else
    let mine := (List.range 16).filter fun n => (getSlice s n).owner == t
    if !tagOk t || ns == [] then pmRun 3 (fun _ => true) (fun s => some (2, s)) s
    else if !ns.all mine.contains || ns.length == mine.length || ns.any (lentOut s)
        || ns.any (fun n => !(getSlice s n).up || (getSlice s n).st != 1) then
      pmRun 3 (fun _ => true) (fun s => some (3, s)) s
    else .next (if s.pm.busy && cmdOp s == 3 && s.dump.fatal.isNone then
        let s := enterState 3 ns s
        let s := if cmdFlag s 1 then forceSwarms t ns s else s
        { s with pm := { s.pm with phase := 1, deadline := if cmdTimeout s = 0 then none
                                                           else some (s.pm.at_ + 1000 * cmdTimeout s) } }
      else s)

/-- A group that had parked at a stop point goes on. -/
def Group.unpark (x : Group) : Group :=
  match x.stat with
  | .barrier _ => { x with stat := .running }
  | _ => x

/-- Undo step 1 of a SPLIT: the slices take placements again, and swarms that were to stop at barrier points go on. -/
def undoSplit (s : State) : State :=
  let ns := slicesIn (cmdSlices s)
  let s := ns.foldl (fun s n => updSlice n (fun z => if z.st = 3 then { z with st := 1 } else z) s) s
  let us := ((allTeams s).filter fun x => x.uid != 0 && x.tag == cmdTag s && x.resid == .resident && x.sliceEnd.isSome).map (·.uid)
  mapGroups (fun x => if us.contains x.team then x.unpark else x)
    (mapTeams (fun x => if us.contains x.uid then { x with sliceEnd := none } else x) s)

/-- SPLIT_TIMEOUT (R443). -/
def execSplitTimeout (s : State) : Host.Outcome State Fault Refusal :=
  pmRun 3 (fun s => s.pm.phase == 1) (fun s =>
    match s.pm.deadline with
    | some d => if d ≤ s.tick then some (4, undoSplit s) else none
    | none => none) s

/-- The limits of a tag before a LIMITS command, and after its RELEASE (R445). -/
def noLimits (tag : Nat) (s : State) : State := updFn tag (fun f => { f with lim := ⟨0, 0, false⟩ }) s

/-- The leases and elastic registrations of the tags and slices of a partition that is released end, as by a reset (R456;
log 53). -/
def endLoans (ts ns : List Nat) (s : State) : State :=
  let s := endLeases (fun l => ts.contains l.borrower || ns.contains (l.core / 12)) 4 (fun l => l.core / 12) s
  { s with elastics := s.elastics.filter fun e => !(ns.contains (e.cluster / 3) || ts.contains e.borrower) }

/-- Release the partition of a tag (R441), which for a shared slice is every sharing function's. -/
def releasePart (t : Nat) (s : State) : State :=
  let ns := slicesOf s t
  let ts := slotMates s t
  ts.foldl (fun s u => noLimits u s) (disown t ns (scrub ns (endLoans ts ns s)))

/-- RELEASE (R441). -/
def execRelease (s : State) : Host.Outcome State Fault Refusal :=
  pmRun 4 (fun _ => true) (fun s =>
    let t := cmdTag s
    if !tagOk t then some (2, s)
    else if !holdsPart s t || s.subs.any (fun x => (slotMates s t).contains x.tag)
        || (slicesOf s t).any (fun n => !(getSlice s n).up || (getSlice s n).st == 4) then some (3, s)
    else some (1, releasePart t s)) s

/-! ### Keys, windows, ways, limits, tokens -/

/-- A key ID goes to a tag with a fresh key (R459): the L2 lines under the ID are gone, unwritten ones too. -/
def freshKey (k t : Nat) (s : State) : State :=
  { s with keyOwner := poke s.keyOwner k (BitVec.ofNat 8 t), keyGen := poke s.keyGen k (peek s.keyGen k + 1),
           l2 := s.l2.filter (·.kid != k), mem := { s.mem with under := s.mem.under.filter fun c => c.1 % 4096 != k } }

/-- KEY_ASSIGN (R459): the ID goes to TAG with a fresh key. -/
def execKeyAssign (s : State) : Host.Outcome State Fault Refusal :=
  pmRun 5 (fun s => bits (cmdArg0 s) 12 2 == 0) (fun s =>
    let k := bits (cmdArg0 s) 0 12
    let t := cmdTag s
    if k = 0 ∨ !tagOk t then some (2, s)
    else some (1, freshKey k t s)) s

/-- KEY_SHARE (R459). -/
def execKeyShare (s : State) : Host.Outcome State Fault Refusal :=
  pmRun 5 (fun s => bits (cmdArg0 s) 12 2 == 1) (fun s =>
    let k := bits (cmdArg0 s) 0 12
    if k = 0 then some (2, s) else some (1, { s with keyShare := poke s.keyShare k (BitVec.ofNat 16 (cmdArg1 s)) })) s

/-- KEY_RETURN (R459): back to tag 0 with a fresh key. -/
def execKeyReturn (s : State) : Host.Outcome State Fault Refusal :=
  pmRun 5 (fun s => bits (cmdArg0 s) 12 2 == 2) (fun s =>
    let k := bits (cmdArg0 s) 0 12
    if k = 0 then some (2, s)
    else some (1, freshKey k 0 s)) s

/-- WINDOW (R460). -/
def execWindow (s : State) : Host.Outcome State Fault Refusal :=
  pmRun 6 (fun _ => true) (fun s =>
    let t := cmdTag s
    let base := cmdArg0 s
    let n := bits (cmdArg1 s) 0 32
    if (t ≠ 1 ∧ !tagOk t) ∨ base % 2 ^ 30 ≠ 0 then some (2, s)
    else some (1, updFn t (fun f => { f with
      wins := setAt f.wins (bits (cmdArg1 s) 32 4) (if n = 0 then (0, 0) else (base, n * 2 ^ 30)) }) s)) s

/-- TOKENS (R449, R450). -/
def execTokens (s : State) : Host.Outcome State Fault Refusal :=
  pmRun 10 (fun _ => true) (fun s =>
    let a := cmdArg0 s
    let b := cmdArg1 s
    if !tagOk (cmdTag s) then some (2, s)
    else some (1, updFn (cmdTag s) (fun f =>
      let k := { f.tok with refill := bits a 0 32, cap := bits a 32 32, borrowMax := bits b 0 32, floor := bits b 32 16 }
      { f with tok := { k with starving := k.starving || (k.bal == 0 && decide (k.borrowMax ≤ k.debt)) } }) s)) s

/-- The lines that a tag has in ways of a station which it loses go (R457); which of them lay in those ways is open. -/
def flushWays (st t : Nat) (old new : BitVec 16) (s : State) : State :=
  if old &&& ~~~new = 0 then s
  else bump { s with l2 := s.l2.filter fun l => !(homeStation (128 * l.line) == st && l.ways == t &&
    (old &&& new == 0 || Config.flip .count [s.fresh, l.line, l.kid])) }

/-- WAYS (R457): the mask holds for new fills at once; with FLUSH the tag's lines in ways that it loses are gone when the
command ends. -/
def execWays (s : State) : Host.Outcome State Fault Refusal :=
  pmRun 11 (fun _ => true) (fun s =>
    let t := cmdTag s
    let st := bits (cmdArg0 s) 0 7
    if !tagOk t then some (2, s)
    else
      let m := BitVec.ofNat 16 (cmdArg1 s)
      let rest := s.ways.filter fun w => !(w.1 == st && w.2.1 == t)
      let s' := if cmdFlag s 2 then flushWays st t (wayMask s st t) m s else s
      some (1, { s' with ways := (st, t, m) :: rest })) s

/-- LIMITS (R445). -/
def execLimits (s : State) : Host.Outcome State Fault Refusal :=
  pmRun 12 (fun _ => true) (fun s =>
    let a := cmdArg0 s
    if !tagOk (cmdTag s) then some (2, s)
    else some (1, updFn (cmdTag s) (fun f => { f with lim := ⟨bits a 0 20, bits a 20 8, bit a 28⟩ }) s)) s

/-! ### Elastic clusters and leases -/

/-- Has a tag a dedicated slice on the die of another slice? -/
def onDie (s : State) (t n : Nat) : Bool :=
  (List.range 16).any fun m => m / 4 == n / 4 && (getSlice s m).owner == t && (getSlice s m).st == 1

/-- ELASTIC (R447). -/
def execElastic (s : State) : Host.Outcome State Fault Refusal :=
  pmRun 7 (fun s => !bit (cmdArg0 s) 16) (fun s =>
    let t := cmdTag s
    let cl := bits (cmdArg0 s) 0 6
    let b := bits (cmdArg0 s) 8 5
    let z := getSlice s (cl / 3)
    if !tagOk t || !tagOk b || b == t || decide (48 ≤ cl) then some (2, s)
    else if !z.up || z.st != 1 || z.owner != t || !onDie s b (cl / 3) || coopOn s t cl || s.elastics.any (·.cluster == cl) then
      some (3, s)
    else some (1, { s with elastics := s.elastics ++ [⟨cl, t, b, false, false, false, s.tick⟩] })) s

/-- ELASTIC_RELEASE (R447): the command ends the registration once the cluster is back with its lender; until then no new
lending begins. -/
def execElasticRelease (s : State) : Host.Outcome State Fault Refusal :=
  let cl := bits (cmdArg0 s) 0 6
  let mine (e : Elastic) : Bool := e.cluster == cl && e.lender == cmdTag s
  let s := if s.pm.busy && cmdOp s == 7 && bit (cmdArg0 s) 16 then
      { s with elastics := s.elastics.map fun e => if mine e then { e with release := true } else e }
    else s
  pmRun 7 (fun s => bit (cmdArg0 s) 16) (fun s =>
    match s.elastics.find? mine with
    | none => some (3, s)
    | some e =>
      if e.lent || e.passing then none
      else some (1, { s with elastics := s.elastics.filter fun e => !mine e })) s

/-- A handle that no live lease has; which one is open (R454). -/
def freeHandle (s : State) : Nat :=
  let h0 := Config.free .order [s.fresh, s.leases.length] % 65535
  (((List.range (s.leases.length + 1)).map fun i => 1 + (h0 + i) % 65535).find? fun h =>
    !s.leases.any (·.handle == h)).getD 1

/-- LEASE (R454). -/
def execLease (s : State) : Host.Outcome State Fault Refusal :=
  pmRun 8 (fun _ => true) (fun s =>
    let t := cmdTag s
    let a := cmdArg0 s
    let n := bits a 0 4
    let core := 12 * n + bits a 4 4
    let tiles := bits a 8 9
    let z := getSlice s n
    let tab := (getFn s t).leaseTab
    if !tagOk t || decide (12 ≤ bits a 4 4) || tiles == 0 || decide (256 < tiles) then some (2, s)
    else if !z.up || z.st != 1 || z.owner == t || !onDie s t n || coopOn s z.owner (clusterOf core)
        || decide (512 < tilesUsed s core + tiles) || tab.all (·.1) then some (3, s)
    else
      let h := freeHandle s
      let i := tab.findIdx (fun e => !e.1)
      let l : Lease := { handle := h, core := core, borrower := t, count := tiles,
                         tiles := (List.range tiles).map fun k => Tile.mk core k [] [],
                         ends := s.tick + 1000 * cmdArg1 s, clocks := 0 }
      let s := updFn t (fun f => { f with leaseTab := setAt f.leaseTab i (true, h) }) { s with leases := s.leases ++ [l] }
      some (1, bump (pmPut 0x10 (natBytes h 2) s))) s

/-- REVOKE (R456). -/
def execRevoke (s : State) : Host.Outcome State Fault Refusal :=
  pmRun 9 (fun _ => true) (fun s =>
    match s.leases.find? (·.handle == bits (cmdArg0 s) 0 16) with
    | none => some (2, s)
    | some l => some (1, endLease l.handle 1 (l.core / 12) s)) s

/-! ### Counter claims (R428, R429, R463) -/

/-- Slice and unit that a CLAIM names; none for cluster 3. -/
def claimUnit (s : State) : Option (Nat × ClaimOf) :=
  let a := cmdArg0 s
  if bit a 6 then (if bits a 7 2 = 3 then none else some (bits a 0 4, .trace (bits a 7 2)))
  else some (bits a 0 4, .bank (bits a 4 2))

/-- CLAIM (R428, R429, R463). -/
def execClaim (s : State) : Host.Outcome State Fault Refusal :=
  pmRun 13 (fun s => !cmdFlag s 3) (fun s =>
    match claimUnit s with
    | none => some (2, s)
    | some (n, u) =>
      if !(getSlice s n).up || s.claims.any (fun c => c.slice == n && c.what == u) then some (3, s)
      else some (1, { s with claims := s.claims ++ [⟨n, u, s.tick, []⟩] })) s

/-- Functions whose blocks show a slice (R405). -/
def guestsOf (s : State) (n : Nat) : List Nat := (List.range 18).filter fun t => decide (2 ≤ t) && (slicesOf s t).contains n

/-- A guest's write to a register of a bank (R425, R426): CB_VAL, CB_CFG with a known code, CB_STAT, CB_CTL. -/
def bankWrite (fn slice b off v : Nat) (s : State) : State :=
  let o := off % 256
  let known (c : Nat) : Bool := decide (c % 256 ≤ 0x2B)
  if o < 0x80 then obsSet fn slice off v s
  else if o < 0xC0 then (if known v then obsSet fn slice off (bits v 31 1 * 2 ^ 31 + bits v 16 12 * 2 ^ 16 + v % 256) s else s)
  else if o = 0xC0 then obsSet fn slice off (if bit v 1 then 0 else obsGet s fn slice off) s
  else if o = 0xC4 then writeCbCtl fn slice b v s
  else s

/-- The release of a claim (R428, R429): the guest's held writes take effect, WASB is set; for a trace unit, a record of
type 0x0E goes into the guest's buffer. -/
def endClaim (c : Claim) (s : State) : State :=
  let s := { s with claims := s.claims.filter (· != c) }
  match c.what with
  | .bank b =>
    let s := c.held.foldl (fun s h => bankWrite h.1 c.slice b h.2.1 h.2.2.toNat s) s
    (guestsOf s c.slice).foldl (fun s t => obsSet t c.slice (256 * b + 0xC0) 2 s) s
  | .trace k =>
    (guestsOf s c.slice).foldl (fun s t =>
      trace t (12 * c.slice + 4 * k) 0x0E 0 0 (BitVec.ofNat 32 (Nat.min ((s.tick - c.since) / 1000) (2 ^ 32 - 1))) 0 s) s

/-- CLAIM_RELEASE (R428, R429, R463). -/
def execClaimRelease (s : State) : Host.Outcome State Fault Refusal :=
  pmRun 13 (fun s => cmdFlag s 3) (fun s =>
    match claimUnit s with
    | none => some (2, s)
    | some (n, u) => match s.claims.find? fun c => c.slice == n && c.what == u with
      | none => some (3, s)
      | some c => some (1, endClaim c s)) s

/-! ### Abort by a reset (R444) -/

/-- Slices that the running command names. -/
def cmdNames (s : State) : List Nat :=
  let op := cmdOp s
  if op = 8 ∨ op = 13 then [bits (cmdArg0 s) 0 4]
  else if op = 7 then [bits (cmdArg0 s) 0 6 / 3]
  else if op ≤ 3 then slicesIn (cmdSlices s)
  else []

/-- Does the running command name a tag? -/
def cmdHasTag (s : State) (t : Nat) : Bool :=
  let op := cmdOp s
  (cmdTag s == t && op != 9 && op != 13 && !(op == 1 && cmdFlag s 0) && !(op == 5 && bits (cmdArg0 s) 12 2 != 0)) ||
    (op == 1 && cmdFlag s 0 && decide (2 ≤ t) && bit (cmdArg0 s) (t - 2)) || (op == 7 && bits (cmdArg0 s) 8 5 == t)

/-- Undo what a command has done so far: the slices that were to join or leave a partition are as before (R443, R444). -/
def undoCmd (s : State) : State :=
  if s.pm.phase = 1 then (if cmdOp s = 3 then undoSplit s else enterState 0 ((slicesIn (cmdSlices s)).filter fun n => (getSlice s n).st == 3) s) else s

/-- A reset of some slices or a tag aborts the running command that names one of them (R444). -/
def abortPm (ns : List Nat) (tag : Option Nat) (s : State) : State :=
  let hit := (cmdNames s).any ns.contains || (match tag with | some t => cmdHasTag s t | none => false)
  if s.pm.busy && hit then pmEnd 5 (undoCmd s) else s

end Sys2Proof.Machine
end

