-- ==== Sys2Proof/Machine/Context.lean ====
section
/-!
DEFINITION. Contexts: loading a descriptor (spec/19 R445, spec/13 R350, R356, R358, spec/20 R467, spec/19 R451, R462),
translation invalidation (R446) and the resolution of page faults (spec/11 R302, spec/20 R469).
-/
namespace Sys2Proof.Machine

/-! ### Loading a context -/

/-- Bytes at a physical address, local or host, as they stand; a local address must lie in the tag's windows. -/
def physBytes (s : State) (tag pa n : Nat) : Option (List Byte) :=
  match bits pa 50 2 with
  | 0 =>
    let off := pa % 2 ^ 35
    if 16 ≤ pa / 2 ^ 35 ∨ regionBytes - loftBytes < off + n ∨ !inWindows s tag pa then none
    else some ((List.range n).map fun i => peek s.mem.hbm (pa + i))
  | 2 => some ((List.range n).map fun i => peek s.mem.host (pa % 2 ^ 50 + i))
  | _ => none

/-- Entries of a table named at an offset of the descriptor: none where the count or address breaks R445. -/
def tableAt (s : State) (tag : Nat) (d : List Byte) (off most : Nat) : Option (List (List Byte)) :=
  let n := field d (off + 8) 4
  if field d (off + 12) 4 ≠ 0 ∨ most < n then none
  else match vBytes s tag (field d off 8) needR (16 * n) with
    | .ok bs => some ((List.range n).map fun i => (bs.drop (16 * i)).take 16)
    | .error _ => none

/-- Does every page of a virtual range translate to local memory inside the tag's windows? -/
def inTenant (s : State) (tag va n : Nat) : Bool :=
  (List.range ((va % 4096 + n + 4095) / 4096)).all fun i =>
    let a := va / 4096 * 4096 + 4096 * i
    match xlate s tag engUnit a ⟨false, false, false⟩ with
    | .ok x => x.target == 0 && inWindows s tag x.addr
    | .error _ => false

/-- A pool entry (R350, R445), and its node. -/
def parsePool (s : State) (tag nodes : Nat) (e : List Byte) : Option Pool :=
  let base := field e 0 8
  let n := field e 8 2
  let kind := field e 0xA 2
  let node := field e 0xC 4
  if base % 64 ≠ 0 ∨ 2 ^ 56 ≤ base ∨ n < 1 ∨ 32767 < n ∨ 1 < kind ∨ (kind = 0 ∧ node ≠ 0) ∨ (kind = 1 ∧ nodes ≤ node)
      ∨ !inTenant s tag base (64 * n) then none
  else some ⟨base, n, if kind = 0 then .queue else .node node, []⟩

/-- A launch descriptor with NGRP 0 (R348). -/
def oneGroup (s : State) (tag va : Nat) : Bool :=
  match readDesc s tag va with
  | some d => d.ngrp == 1
  | none => false

/-- A queue entry (R348, R360, R445). -/
def parseQueue (s : State) (tag : Nat) (pools : List Pool) (e : List Byte) : Option TQueue :=
  let ld := field e 0 8
  let p := field e 8 2
  let fl := field e 0xA 2
  if !oneGroup s tag ld || (pools[p]?).map (·.kind) != some .queue || decide (1 < fl) || field e 0xC 4 != 0 then none
  else some ⟨ld, p, bit fl 0⟩

/-- A node entry with its node descriptor (R356, R358, R445). -/
def parseNode (s : State) (tag : Nat) (pools : List Pool) (i : Nat) (e : List Byte) : Option TNode :=
  let nd := field e 0 8
  let p := field e 8 2
  match vBytes s tag nd needR 32 with
  | .error _ => none
  | .ok b =>
    let f := field b
    let ok := nd % 32 == 0 && !vPoison s tag nd 32 && f 0 8 % 32 == 0 && decide (1 ≤ f 0x10 1) && decide (f 0x10 1 ≤ 8)
      && f 0x11 3 == 0 && decide (1 ≤ f 0x14 4) && f 0x18 8 == 0 && oneGroup s tag (f 8 8)
      && field e 0xA 6 == 0 && (match pools[p]? with
        | some x => x.kind == .node i && decide (f 0x10 1 ≤ x.slots)
        | none => false)
    if ok then some ⟨f 0 8, f 8 8, f 0x10 1, f 0x14 4, p, []⟩ else none

/-- A shed ring (R451). -/
def parseRing (s : State) (tag : Nat) (e : List Byte) : Option ShedRing :=
  let va := field e 0 8
  match vBytes s tag va needR 64 with
  | .error _ => none
  | .ok b =>
    let f := field b
    let cls := field e 8 1
    let sp := f 0x25 1
    let ok := decide (cls ≤ 2) && field e 9 7 == 0 && decide (sp ≤ 1)
      && (if sp = 0 then f 0 8 % 32 == 0 else decide (f 0 8 < 2 ^ 28) && decide (bits (f 0 8) 20 4 < 12))
      && f 8 8 % 16 == 0 && f 0x10 8 % 8 == 0 && f 0x18 8 % 8 == 0 && decide (100 ≤ f 0x20 4) && decide (f 0x20 4 ≤ 100000)
      && decide (4 ≤ f 0x24 1) && decide (f 0x24 1 ≤ 16) && f 0x26 2 == 0
      && (if cls = 2 then f 0x28 8 % 64 == 0 else f 0x28 8 == 0) && f 0x30 16 == 0 && !vPoison s tag va 64
    if ok then
      some { cmdBase := f 0 8, cplBase := f 8 8, notify := f 0x10 8, consume := f 0x18 8, lease := f 0x20 4,
             logn := f 0x24 1, space := sp, rankmap := f 0x28 8, cls := cls, head := 0, recs := 0, seatGen := none,
             cur := none, bound := none }
    else none

/-- A frame ring (R462). -/
def parseFrame (s : State) (tag : Nat) (e : List Byte) : Option FrameRing :=
  let va := field e 0 8
  match vBytes s tag va needR 64 with
  | .error _ => none
  | .ok b =>
    let f := field b
    let ok := field e 8 8 == 0 && va % 64 == 0 && f 0 8 % 64 == 0 && f 8 8 % 8 == 0 && f 0x10 8 % 8 == 0
      && f 0x18 8 % 4096 == 0 && f 0x20 8 % 8 == 0 && f 0x28 8 % 8 == 0 && decide (4 ≤ f 0x30 1) && decide (f 0x30 1 ≤ 12)
      && decide (16 ≤ f 0x31 1) && decide (f 0x31 1 ≤ 30) && f 0x32 14 == 0 && !vPoison s tag va 64
    if ok then
      some { cmdBase := f 0 8, notify := f 8 8, done := f 0x10 8, bsBase := f 0x18 8, bsProd := f 0x20 8,
             bsCons := f 0x28 8, logn := f 0x30 1, logb := f 0x31 1, n := 0, prod := 0 }
    else none

/-- The error ring descriptor (R467). -/
def parseErrRing (s : State) (tag va : Nat) : Option ErrRing :=
  match vBytes s tag va needR 32 with
  | .error _ => none
  | .ok b =>
    let f := field b
    if f 0 8 % 4096 ≠ 0 ∨ f 8 1 < 6 ∨ 16 < f 8 1 ∨ f 9 7 ≠ 0 ∨ vPoison s tag va 32 then none
    else some ⟨f 0 8, f 8 1, f 0x10 8, f 0x18 8⟩

/-- All of the entries, or none. -/
def allSome {α : Type} : List (Option α) → Option (List α)
  | [] => some []
  | none :: _ => none
  | some x :: xs => (allSome xs).map (x :: ·)

/-- A context with a level-3 table and nothing else, under which a load reads its tables. -/
def bareCtx (root : Nat) : Ctx :=
  { ptroot := root, fallback := false, extOn := false, wdint := 0, extint := 0, err := ⟨0, 6, 0, 0⟩, pools := [],
    queues := [], nodes := [], rings := [], frames := [] }

/-- Are the pools and nodes one to one (R445): no two nodes own one pool? -/
def ownersOk (nodes : List TNode) : Bool :=
  (nodes.map (·.pool)).eraseDups.length == nodes.length

/-- The compute die whose comb tracks a pool: the one that holds its memory (R445); none where its base does not translate. -/
def poolDie (s : State) (tag : Nat) (p : Pool) : Option Nat :=
  match xlate s tag engUnit p.base ⟨false, false, false⟩ with
  | .ok x => some (x.addr / 2 ^ 37)
  | .error _ => none

/-- Slots of some pools that the comb of a die tracks (R350). -/
def combOf (s : State) (tag die : Nat) (ps : List Pool) : Nat :=
  ps.foldl (fun n p => if poolDie s tag p = some die then n + p.slots else n) 0

/-- Can the combs track the pools of a tag beside those of the other contexts (R350)? Which check a load then fails is not
said; the model counts it with the pools (log 104). -/
def combRoom (s : State) (tag : Nat) (ps : List Pool) : Bool :=
  (List.range 4).all fun die =>
    let others := ((List.range s.fns.length).filter (· != tag)).foldl (fun n k => n + combOf s k die (poolsOf s k)) 0
    decide (others + combOf s tag die ps ≤ 262144)

/-- Validate a descriptor (R445): the context, or the number of the first check that fails. -/
def parseCtx (s : State) (tag : Nat) (d : List Byte) : Except Nat Ctx :=
  let f := field d
  let root := f 0 8
  let t := updFn tag (fun x => { x with ctx := some (bareCtx root) }) { s with tlb := s.tlb.filter (·.tag != tag) }
  if root % 2 ^ 20 ≠ 0 then .error 1
  else if 4 ≤ f 8 4 ∨ f 0xC 4 ≠ 0 ∨ f 0x78 8 ≠ 0 then .error 2
  else if f 0x10 8 < 2 ^ 20 ∨ 2 ^ 36 < f 0x10 8 then .error 3
  else if bit (f 8 4) 1 ∧ (f 0x18 8 < 2 ^ 20 ∨ 2 ^ 36 < f 0x18 8) then .error 4
  else match parseErrRing t tag (f 0x20 8) with
    | none => .error 5
    | some er =>
      let nodes := f 0x50 4
      match (tableAt t tag d 0x28 262144).bind fun es => allSome (es.map (parsePool t tag nodes)) with
      | none => .error 6
      | some pools =>
        if decide ((getFn s tag).lim.slots < pools.foldl (fun n p => n + p.slots) 0) || !combRoom t tag pools then .error 6
        else match (tableAt t tag d 0x38 65535).bind fun es => allSome (es.map (parseQueue t tag pools)) with
          | none => .error 7
          | some queues =>
            match (tableAt t tag d 0x48 65536).bind fun es =>
                allSome ((List.range es.length).map fun i => parseNode t tag pools i (es.getD i [])) with
            | none => .error 8
            | some ns =>
              if !ownersOk ns then .error 8
              else match (tableAt t tag d 0x58 8).bind fun es => allSome (es.map (parseRing t tag)) with
                | none => .error 9
                | some rings =>
                  match (tableAt t tag d 0x68 4).bind fun es => allSome (es.map (parseFrame t tag)) with
                  | none => .error 10
                  | some frames =>
                    .ok { ptroot := root, fallback := bit (f 8 4) 0, extOn := bit (f 8 4) 1, wdint := f 0x10 8,
                          extint := f 0x18 8, err := er, pools := pools, queues := queues, nodes := ns, rings := rings,
                          frames := frames }

/-- CX_LOAD (R445): not while a submission of the context runs, which CX_STAT shows as BUSY. The numbers that CX_STAT gives the checks are open. The
error ring goes on where it stood when its base stays. -/
def execCxLoad (fn : Nat) (s : State) : Host.Outcome State Fault Refusal :=
  .next (
    if !writable s fn then s
    else if s.subs.any (·.tag == fn) then s
    else
      let pa := (getFn s fn).cxDesc.toNat
      let r := match physBytes s fn pa 128 with
        | none => Except.error 0
        | some d => parseCtx s fn d
      match r with
      | .error k => updFn fn (fun x => { x with cxErr := 1 + Config.free .unstated [fn, k] % 255 }) s
      | .ok c =>
        let same := match (getFn s fn).ctx with | some o => o.err.base == c.err.base | none => false
        let s := { s with ready := s.ready.filter (·.tag != fn) }
        updFn fn (fun x => { x with cxErr := 0, ctx := some c,
                                    er := if same then x.er else { x.er with seq := 0, lost := 0 } }) s)

/-! ### Translation invalidation (R446) -/

/-- Start an invalidation of a function: cached translations of its context that map a byte of the range are dropped. -/
def startTi (fn lo n : Nat) (s : State) : State :=
  updFn fn (fun x => { x with tiRun := some (lo, n) })
    { s with tlb := s.tlb.filter fun e => !(e.tag == fn && decide (e.va < lo + n) && decide (lo < e.va + e.size)) }

/-- TI_INVALIDATE_RANGE (R446): a write of TI_CTL with GO and without ALL. -/
def execTiInvalidateRange (fn : Nat) (ctl : Word) (s : State) : Host.Outcome State Fault Refusal :=
  let k := bits ctl.toNat 0 6
  .next (
    if !writable s fn || !bit ctl.toNat 31 || bit ctl.toNat 8 || (getFn s fn).tiRun.isSome || decide (k < 12)
        || decide (56 < k) then s
    else startTi fn ((getFn s fn).tiVa.toNat / 2 ^ k * 2 ^ k) (2 ^ k) s)

/-- TI_INVALIDATE_ALL (R446). -/
def execTiInvalidateAll (fn : Nat) (ctl : Word) (s : State) : Host.Outcome State Fault Refusal :=
  .next (
    if !writable s fn || !bit ctl.toNat 31 || !bit ctl.toNat 8 || (getFn s fn).tiRun.isSome then s
    else startTi fn 0 (2 ^ 56) s)

/-- INVALIDATION_COMPLETE (R446): every access of the model is performed at the step that translates it, so that none
translated before the invalidation is outstanding. -/
def execInvalidationComplete (fn : Nat) (s : State) : Host.Outcome State Fault Refusal :=
  .next (if (getFn s fn).tiRun.isSome then
      updFn fn (fun x => { x with tiRun := none, tiDone := (x.tiDone + 1) % 2 ^ 31 }) s
    else s)

/-! ### Page faults (R302) -/

/-- The group parked on PAGE_FAULT that a PF_RESP write names. -/
def parkedGroup (s : State) (fn : Nat) (gid : Word) : Option Group :=
  (byGid s fn gid).filter (·.stat == .parked)

/-- PF_REPLAY (R302): the run re-executes; where its page was absent, pad words at its start are skipped now (R44). -/
def execPfReplay (fn : Nat) (gid : Word) (s : State) : Host.Outcome State Fault Refusal :=
  .next (match parkedGroup s fn gid with
    | none => s
    | some x =>
      let s' := focus x.uid s
      let pc := normPc s' x.pc
      let y : Group := { x with stat := .running, faultVa := 0, parkInfo := 0, pc := pc, again := x.again.map fun _ => pc }
      focus s.g.uid (settle false { s' with g := y }))

/-- What a cancelled fault records (R33, R38). -/
def cancelFault (x : Group) : Group :=
  { x with tpc := x.pc &&& ~~~3, tem := x.em &&& x.all, tcause := BitVec.ofNat 32 cPAGE, tinfo := x.parkInfo,
           stat := .running, again := none }

/-- PF_CANCEL (R302, R38): the group stops with PAGE_FAULT on the slice's error path. -/
def execPfCancel (fn : Nat) (gid : Word) (s : State) : Host.Outcome State Fault Refusal :=
  .next (match parkedGroup s fn gid with
    | none => s
    | some x =>
      let s := onG cancelFault (focus x.uid s)
      withBroken x.uid (stopError { cause := cPAGE } s))

end Sys2Proof.Machine
end

