-- ==== Sys2Proof/Machine/Deflate.lean ====
section
/-!
DEFINITION. The raw DEFLATE stream of RFC 1951, which the shed's compression engines read and write (spec/19 R452).
-/
namespace Sys2Proof.Machine

/-- Base and extra bits of the codes of an alphabet from one code on, the codes in groups of `run` that have one more extra
bit than the group before. -/
def extraTable (first run groups : Nat) : List (Nat × Nat) :=
  (List.range (run * groups)).map fun i => (first + run * (2 ^ (i / run) - 1) + i % run * 2 ^ (i / run), i / run)

/-- Lengths 3 to 258 of the codes 257 to 285. -/
def lenTable : List (Nat × Nat) :=
  (List.range 4).map (fun i => (3 + i, 0)) ++ extraTable 7 4 6 ++ [(258, 0)]

/-- Distances of the codes 0 to 29. -/
def distTable : List (Nat × Nat) := [(1, 0), (2, 0)] ++ extraTable 3 2 14

/-- The code lengths of the fixed alphabets. -/
def fixedLens : List Nat :=
  List.replicate 144 8 ++ List.replicate 112 9 ++ List.replicate 24 7 ++ List.replicate 8 8

def fixedDists : List Nat := List.replicate 30 5

/-- The order in which the lengths of the code length alphabet stand. -/
def lenOrder : List Nat := [16, 17, 18, 0, 8, 7, 9, 6, 10, 5, 11, 4, 12, 3, 13, 2, 14, 1, 15]

/-- The symbol that a canonical code of the given lengths has at a bit of the stream, and the place after it: `n` is how many
more bits it may take, `len` how many it has, `code` their value, `first` the least code of that length. -/
def huffAt (ls : List Nat) (x : Nat) : Nat → Nat → Nat → Nat → Nat → Option (Nat × Nat)
  | 0, _, _, _, _ => none
  | n + 1, len, code, first, p =>
    let syms := (List.range ls.length).filter fun i => ls.getD i 0 == len + 1
    let c := 2 * code + x / 2 ^ p % 2
    let lo := 2 * first
    if c < lo + syms.length then some (syms.getD (c - lo) 0, p + 1)
    else huffAt ls x n (len + 1) c (lo + syms.length) (p + 1)

/-- The next symbol of the stream. -/
def huff (ls : List Nat) (x p : Nat) : Option (Nat × Nat) := huffAt ls x 15 0 0 0 p

/-- Do lengths make a code: no more code words of each length than are free? -/
def codeFits (ls : List Nat) : Bool :=
  decide ((ls.filter (· != 0)).foldl (fun n l => n + 2 ^ (15 - l)) 0 ≤ 2 ^ 15)

/-- What a decoder has come to: its place in the stream, the bytes out, the last first, and whether the stream broke off. -/
structure Inf where
  pos : Nat
  out : List Byte
  bad : Bool
  deriving DecidableEq, Repr

/-- Copy n bytes that stand d bytes back. -/
def copyBack (d : Nat) : Nat → List Byte → List Byte
  | 0, out => out
  | n + 1, out => copyBack d n (out.getD (d - 1) 0 :: out)

/-- A code with its extra bits. -/
def withExtra (tab : List (Nat × Nat)) (c x p : Nat) : Option (Nat × Nat) :=
  (tab[c]?).map fun e => (e.1 + x / 2 ^ p % 2 ^ e.2, p + e.2)

/-- The length and the distance after a code of 257 or more, and the place after them. -/
def lenDist (dl : List Nat) (c x p : Nat) : Option (Nat × Nat × Nat) :=
  (withExtra lenTable (c - 257) x p).bind fun l =>
    (huff dl x l.2).bind fun d =>
      (withExtra distTable d.1 x d.2).map fun e => (l.1, e.1, e.2)

/-- The codes of a block of a stream of nb bits, to its end. -/
def infCodes (x nb : Nat) (ll dl : List Nat) : Nat → Inf → Inf
  | 0, st => { st with bad := true }
  | k + 1, st =>
    match huff ll x st.pos with
    | none => { st with bad := true }
    | some (c, p) =>
      if nb < p then { st with bad := true }
      else if c < 256 then infCodes x nb ll dl k { st with pos := p, out := BitVec.ofNat 8 c :: st.out }
      else if c = 256 then { st with pos := p }
      else match lenDist dl c x p with
        | none => { st with bad := true }
        | some (n, d, q) =>
          if nb < q ∨ st.out.length < d then { st with bad := true }
          else infCodes x nb ll dl k { st with pos := q, out := copyBack d n st.out }

/-- The code lengths of the two alphabets of a block, n in all, read with the code length alphabet; the last first. -/
def readLens (cl : List Nat) (x n : Nat) : Nat → Nat → List Nat → Option (List Nat × Nat)
  | 0, p, ls => if ls.length = n then some (ls, p) else none
  | k + 1, p, ls =>
    if n ≤ ls.length then (if ls.length = n then some (ls, p) else none)
    else match huff cl x p with
      | none => none
      | some (c, q) =>
        let f (w : Nat) : Nat := x / 2 ^ q % 2 ^ w
        if c < 16 then readLens cl x n k q (c :: ls)
        else if c = 16 then (if ls = [] then none else readLens cl x n k (q + 2) (List.replicate (3 + f 2) (ls.headD 0) ++ ls))
        else if c = 17 then readLens cl x n k (q + 3) (List.replicate (3 + f 3) 0 ++ ls)
        else readLens cl x n k (q + 7) (List.replicate (11 + f 7) 0 ++ ls)

/-- The alphabets at the head of a block of type 2, and the place after them. -/
def dynCodes (x p : Nat) : Option (List Nat × List Nat × Nat) :=
  let hl := 257 + x / 2 ^ p % 32
  let hd := 1 + x / 2 ^ (p + 5) % 32
  let hc := 4 + x / 2 ^ (p + 10) % 16
  let cl := (List.range 19).map fun sym =>
    let i := lenOrder.findIdx (· == sym)
    if i < hc then x / 2 ^ (p + 14 + 3 * i) % 8 else 0
  if !codeFits cl then none
  else (readLens cl x (hl + hd) (hl + hd) (p + 14 + 3 * hc) []).bind fun r =>
    let all := r.1.reverse
    if codeFits (all.take hl) && codeFits (all.drop hl) then some (all.take hl, all.drop hl, r.2) else none

/-- A block of type 0, from its header on. -/
def infStored (x nb : Nat) (st : Inf) : Inf :=
  let p := (st.pos + 7) / 8 * 8
  let n := x / 2 ^ p % 65536
  if nb < p + 32 + 8 * n ∨ x / 2 ^ (p + 16) % 65536 ≠ 65535 - n then { st with bad := true }
  else { st with pos := p + 32 + 8 * n,
                 out := ((List.range n).map fun i => BitVec.ofNat 8 (x / 2 ^ (p + 32 + 8 * i) % 256)).reverse ++ st.out }

/-- Blocks to the last, of a stream of nb bits. -/
def infBlocks (x nb : Nat) : Nat → Inf → Inf
  | 0, st => { st with bad := true }
  | k + 1, st =>
    let ty := x / 2 ^ (st.pos + 1) % 4
    let b := { st with pos := st.pos + 3 }
    let r :=
      if nb < st.pos + 3 then { st with bad := true }
      else if ty = 0 then infStored x nb b
      else if ty = 1 then infCodes x nb fixedLens fixedDists nb b
      else if ty = 2 then
        match dynCodes x b.pos with
        | some (ll, dl, p) => infCodes x nb ll dl nb { b with pos := p }
        | none => { b with bad := true }
      else { b with bad := true }
    if r.bad ∨ x / 2 ^ st.pos % 2 = 1 then r else infBlocks x nb k r

/-- The bytes that a stream of n bytes, as one number, gives, and whether it broke off before its end. -/
def inflate (x n : Nat) : List Byte × Bool :=
  let r := infBlocks x (8 * n) (8 * n) ⟨0, [], false⟩
  (r.out.reverse, r.bad)

/-- The stream of stored blocks alone that gives some bytes; `k` blocks at most. -/
def storedStream : Nat → List Byte → List Byte
  | 0, _ => []
  | k + 1, bs =>
    let n := Nat.min bs.length 65535
    let lenBytes (v : Nat) : List Byte := [BitVec.ofNat 8 v, BitVec.ofNat 8 (v / 256)]
    ((if bs.length ≤ 65535 then 1 else 0) :: (lenBytes n ++ lenBytes (65535 - n) ++ bs.take n))
      ++ (if bs.length ≤ 65535 then [] else storedStream k (bs.drop n))

end Sys2Proof.Machine
end

