-- ==== Sys2Proof/Machine/Shed.lean ====
section
/-!
DEFINITION. The shed's copy, compression and collective engines (spec/19 R451–R453, spec/20 R472, R475).
-/
namespace Sys2Proof.Machine

/-- A shed ring of a loaded context. -/
def getRing (s : State) (fn ring : Nat) : Option ShedRing :=
  ((getFn s fn).ctx).bind fun c => c.rings[ring]?

/-- Change a shed ring. -/
def updRing (fn ring : Nat) (f : ShedRing → ShedRing) (s : State) : State :=
  updCtx fn (fun c => { c with rings := modAt c.rings ring f }) s

/-! ### Engines -/

/-- Engines of a class that serve: those of each die with a slice that is up, and the hub's two copy engines (R495). -/
def enginesOf (s : State) (cls : Nat) : Nat :=
  let dies := ((List.range 4).filter fun d => (List.range 4).any fun i => (getSlice s (4 * d + i)).up).length
  if cls = 0 then 4 * dies + 2 else 2 * dies

/-- Rings of a class that an engine is bound to. -/
def boundOf (s : State) (cls : Nat) : Nat :=
  s.fns.foldl (fun n f => match f.ctx with
    | some c => n + (c.rings.filter fun r => r.cls == cls && r.bound.isSome).length
    | none => n) 0

/-- Has a tenant that does not starve work for a class: a ring that waits for an engine, with an entry (R452)? -/
def waitsFor (s : State) (fn cls : Nat) : Bool :=
  !starving s fn && match (getFn s fn).ctx with
    | some c => c.rings.any fun r => r.cls == cls && r.bound.isNone &&
        (r.cur.isSome || (match vNat s fn r.notify 4 with | some p => p != r.head | none => false))
    | none => false

/-- How many tenants come before a tenant, after the one that an engine of the class was bound to last (R452). -/
def turnOf (s : State) (cls fn : Nat) : Nat := (fn + 17 - s.shedLast.getD cls 0) % 18

/-- May an engine serve a ring: one is bound to it, or one is free, the tenant does not starve and it is its turn
(R450, R452)? -/
def canBind (s : State) (fn : Nat) (r : ShedRing) : Bool :=
  r.bound.isSome || (!starving s fn && decide (boundOf s r.cls < enginesOf s r.cls) &&
    (List.range 18).all fun t => decide (turnOf s r.cls fn ≤ turnOf s r.cls t) || !waitsFor s t r.cls)

/-- The turn passes on where a ring is bound anew (R452). -/
def passTurn (fn : Nat) (r : ShedRing) (s : State) : State :=
  if r.bound.isSome then s else { s with shedLast := setAt s.shedLast r.cls fn }

/-! ### Reading commands and writing records -/

/-- Core and seat of a scratchpad ring (R451). -/
def ringSeat (r : ShedRing) : Nat × Nat := (12 * bits r.cmdBase 24 4 + bits r.cmdBase 20 4, bits r.cmdBase 16 4)

/-- The generation of a scratchpad ring's seat. -/
def ringGen (s : State) (r : ShedRing) : Word := peek s.gens (64 * (ringSeat r).1 + (ringSeat r).2)

/-- The 32 bytes of command entry n, if they can be read. -/
def readCmd (s : State) (fn : Nat) (r : ShedRing) (n : Nat) : Option (List Byte) :=
  if r.space = 0 then (vBytes s fn (r.cmdBase + 32 * (n % 2 ^ r.logn)) needR 32).toOption
  else
    let k := ringSeat r
    ((allTeams s).find? fun t => t.lives && t.tag == fn && t.on k.1 && t.seat == k.2).map fun t =>
      (List.range 32).map fun i => peek t.pad (bits r.cmdBase 0 16 + 32 * (n % 2 ^ r.logn) + i)

/-- Is a completion slot free (R452)? -/
def recordRoom (s : State) (fn : Nat) (r : ShedRing) : Bool :=
  match vNat s fn r.consume 4 with
  | some c => decide ((r.recs + 2 ^ 32 - c % 2 ^ 32) % 2 ^ 32 < 2 ^ r.logn)
  | none => false

/-- Write a completion record for an entry (R452). -/
def writeCpl (fn ring : Nat) (status cause tag bytes progress seq : Nat) (s : State) : State :=
  match getRing s fn ring with
  | none => s
  | some r =>
    let bs := natBytes status 1 ++ natBytes cause 1 ++ natBytes tag 2 ++ natBytes bytes 4 ++ natBytes progress 4
      ++ natBytes seq 4
    updRing fn ring (fun r => { r with recs := (r.recs + 1) % 2 ^ 32 })
      ((vWriteAll fn (r.cplBase + 16 * (r.recs % 2 ^ r.logn)) bs s).getD s)

/-- The entry in progress ends: its record, and the ring goes on to the next. -/
def endEntry (fn ring : Nat) (e : ShedEntry) (status cause bytes progress : Nat) (s : State) : State :=
  updRing fn ring (fun r => { r with cur := none, head := (e.seq + 1) % 2 ^ 32 })
    (writeCpl fn ring status cause (field e.bytes 2 2) bytes progress e.seq s)

/-- The rank map of a ring, for a collective entry (R453). -/
def readRanks (s : State) (fn : Nat) (r : ShedRing) : List Byte :=
  if r.cls = 2 then ((vBytes s fn r.rankmap needR 64).toOption).getD [] else []

/-- SHED_NOTIFY (R451, R452): an engine that serves the ring reads NOTIFY and takes up the next entry, or goes on with the
one in progress; the entries of a scratchpad ring whose seat has a new generation are dropped with one record. -/
def execShedNotify (fn ring : Nat) (s : State) : Host.Outcome State Fault Refusal :=
  .next (match getRing s fn ring with
    | none => s
    | some r =>
      if !canBind s fn r then s
      else if r.cur.isSome then passTurn fn r (updRing fn ring (fun r => { r with bound := some (r.bound.getD s.tick) }) s)
      else match vNat s fn r.notify 4 with
        | none => s
        | some p =>
          if p = r.head then s
          else if r.space = 1 ∧ r.seatGen.isSome ∧ r.seatGen ≠ some (ringGen s r) then
            if recordRoom s fn r then
              updRing fn ring (fun r => { r with head := p }) (writeCpl fn ring 5 0 0 0 0 r.head s)
            else s
          else match readCmd s fn r r.head with
            | none => s
            | some bs =>
              passTurn fn r (updRing fn ring (fun r => { r with
                cur := some ⟨r.head, bs, 0, readRanks s fn r, 0⟩, bound := some (r.bound.getD s.tick),
                seatGen := if r.space = 1 then some (ringGen s r) else none }) s))

/-! ### Entries -/

/-- Fields of AUX of a collective entry (R452): ID, rank, ranks, type, operation. -/
structure CollAux where
  id : Nat
  rank : Nat
  ranks : Nat
  ty : Nat
  op : Nat
  deriving DecidableEq, Repr

/-- The collective fields of an entry. -/
def collAux (b : List Byte) : CollAux :=
  let x := field b 0x18 8
  ⟨bits x 0 32, bits x 32 8, bits x 40 8, bits x 48 4, bits x 52 4⟩

/-- Bytes of an element of a collective type. -/
def collSize (ty : Nat) : Nat := if ty = 0 ∨ ty = 3 then 4 else 2

/-- Bytes of SRC and DST of a collective (R453). -/
def collBytes (op ranks len : Nat) : Nat × Nat :=
  if op = 0x20 then (len, len) else if op = 0x21 then (len, ranks * len) else (ranks * len, len)

/-- Is a command entry of a class well formed (R452, R453)? -/
def entryOk (cls : Nat) (e : ShedEntry) (fab : Nat) : Bool :=
  let f := field e.bytes
  let op := f 0 1
  let aux := f 0x18 8
  let base := decide (f 1 1 < 2) && f 4 4 != 0
  if cls = 0 then base && (op == 1 || op == 2)
  else if cls = 1 then
    base && ((op == 0x10 && decide (aux ≤ 9)) || op == 0x11 ||
      (op == 0x12 && bits aux 0 16 != 0 && bits aux 16 16 != 0 && bits aux 48 16 == 0))
  else
    let c := collAux e.bytes
    let map := e.ranks.take c.ranks
    let n := collBytes op c.ranks (f 4 4)
    base && (op == 0x20 || op == 0x21 || op == 0x22) && bits aux 56 8 == 0 && decide (2 ≤ c.ranks) && decide (c.ranks ≤ 64)
      && decide (c.rank < c.ranks) && decide (c.ty ≤ 3) && decide (c.op ≤ 2) && f 4 4 % collSize c.ty == 0
      && e.ranks.length == 64 && map.eraseDups.length == c.ranks && (map.getD c.rank 0).toNat == fab
      && ((op == 0x20 && f 8 8 == f 0x10 8) || decide (f 8 8 + n.1 ≤ f 0x10 8) || decide (f 0x10 8 + n.2 ≤ f 8 8))

/-- What a run of bytes came to: bytes written, the cause of the fault that stopped it, whether poison did, and whether it is
answered as a bad entry. -/
structure RunEnd where
  n : Nat
  cause : Nat
  pois : Bool
  bad : Bool
  deriving DecidableEq, Repr

/-- Copy n bytes from byte i on, stopping at a fault or at poison. -/
def copyRun (tag src dst : Nat) : Nat → Nat → State → RunEnd × State
  | 0, i, s => (⟨i, 0, false, false⟩, s)
  | n + 1, i, s =>
    let a := (src + i) % 2 ^ 56
    let b := (dst + i) % 2 ^ 56
    match xlate s tag engUnit a needR, xlate s tag engUnit b needW with
    | .error k, _ => (⟨i, k, false, false⟩, s)
    | .ok _, .error k => (⟨i, k, false, false⟩, s)
    | .ok x, .ok y =>
      if gPoison s x 0 then (⟨i, 0, true, false⟩, s)
      else copyRun tag src dst n (i + 1) (tlbPut y.ent (tlbPut x.ent (gPut y 0 (gByte s x 0) s)))

/-- Write bytes, stopping at a fault. -/
def putRun (tag dst : Nat) (f : Nat → Byte) : Nat → Nat → State → RunEnd × State
  | 0, i, s => (⟨i, 0, false, false⟩, s)
  | n + 1, i, s =>
    let b := (dst + i) % 2 ^ 56
    match xlate s tag engUnit b needW with
    | .error k => (⟨i, k, false, false⟩, s)
    | .ok y => putRun tag dst f n (i + 1) (tlbPut y.ent (gPut y 0 (f i) s))

/-- Input bytes of a compression entry: the bytes, or the cause and place of the fault. -/
def readIn (s : State) (tag va n : Nat) : Except Nat (List Byte) :=
  match vBytes s tag va needR n with
  | .ok bs => .ok bs
  | .error (k, _) => .error k

/-- A deflated stream of some bytes (R452): an open one that inflates to them, where the open bytes are such a stream. -/
def deflate (aux : Nat) (inp : List Byte) : List Byte :=
  let x := bytesNat inp
  let out := (List.range (Config.free .codec [0x10, aux, inp.length, x] % 2 ^ 32)).map fun i =>
    Config.bits .codec 8 [0x10, aux, inp.length, x, i]
  if inflate (bytesNat out) out.length = (inp, false) then out else storedStream (inp.length / 65535 + 1) inp

/-- What inflation writes, and whether it is answered as a bad entry (R452): the bytes of the stream; where it breaks off, or
gives more than AUX bytes, how many of them are written and what is answered are open. -/
def inflated (aux : Nat) (inp : List Byte) : List Byte × Bool :=
  let r := inflate (bytesNat inp) inp.length
  if !r.2 && decide (r.1.length ≤ aux) then (r.1, false)
  else
    let keys := [0x11, aux, inp.length, bytesNat inp]
    (r.1.take (Config.free .codec keys % (Nat.min r.1.length aux + 1)), Config.flip .codec keys)

/-- The blocks of a BC7 encoding of rows, open bytes of a size that AUX gives (R452). -/
def bc7Out (aux : Nat) (inp : List Byte) : List Byte :=
  (List.range ((bits aux 0 16 + 3) / 4 * ((bits aux 16 16 + 3) / 4) * 16)).map fun i =>
    Config.bits .codec 8 [0x12, aux, inp.length, bytesNat inp, i]

/-- What a codec writes for its input, and whether the entry is answered as a bad one. -/
def codecOut (op aux : Nat) (inp : List Byte) : List Byte × Bool :=
  if op = 0x10 then (deflate aux inp, false) else if op = 0x11 then inflated aux inp else (bc7Out aux inp, false)

/-- Run a copy or compression entry from its recorded progress: its end, and the state. -/
def runEntry (fn : Nat) (e : ShedEntry) (n : Nat) (s : State) : RunEnd × State :=
  let f := field e.bytes
  let op := f 0 1
  let src := f 8 8
  let dst := f 0x10 8
  let aux := f 0x18 8
  if op = 1 then copyRun fn src dst n e.progress s
  else if op = 2 then
    let r := putRun fn dst (fun i => BitVec.ofNat 8 (aux / 256 ^ (i % 8))) n e.progress s
    (r.1, clearPoison (vSpans s fn dst r.1.n) r.2)
  else match readIn s fn src (f 4 4) with
    | .error k => (⟨0, k, false, false⟩, s)
    | .ok inp =>
      if vPoison s fn src (f 4 4) then (⟨0, 0, true, false⟩, s)
      else
        let o := codecOut op aux inp
        let r := putRun fn dst (fun i => o.1.getD i 0) o.1.length 0 s
        ({ r.1 with bad := o.2 }, r.2)

/-- The transactions of an entry of n bytes that reads the host or a peer, or writes there (R480). -/
def sendEntry (fn : Nat) (e : ShedEntry) (n : Nat) (s : State) : State :=
  sendVa fn (field e.bytes 0x10 8) 0 n true (sendVa fn (field e.bytes 8 8) 1 n false s)

/-- SHED_ENTRY_COMPLETE (R452): the entry that the bound engine works on runs to its end and its record is written, once
a completion slot is free. -/
def execShedEntryComplete (fn ring : Nat) (s : State) : Host.Outcome State Fault Refusal :=
  .next (match getRing s fn ring with
    | none => s
    | some r => match r.cur with
      | none => s
      | some e =>
        if r.bound.isNone || !recordRoom s fn r then s
        else if e.verdict ≠ 0 then endEntry fn ring e e.verdict 0 e.progress e.progress s
        else if !entryOk r.cls e s.fabId.toNat then endEntry fn ring e 6 0 0 0 s
        else if r.cls = 2 then s
        else
          let len := field e.bytes 4 4
          let p := runEntry fn e (len - e.progress) (sendEntry fn e (len - e.progress) s)
          let st := if p.1.pois then 4 else if p.1.cause ≠ 0 then 2 else if p.1.bad then 6 else 1
          let prog := if r.cls = 0 then p.1.n else if st = 1 then len else 0
          endEntry fn ring e st p.1.cause p.1.n prog p.2)

/-- SHED_LEASE_END (R450, R452): the binding ends after LEASE microseconds, or when the tenant starves. An entry in progress
has come to a 64 KiB boundary; to which one is open. -/
def execShedLeaseEnd (fn ring : Nat) (s : State) : Host.Outcome State Fault Refusal :=
  .next (match getRing s fn ring with
    | none => s
    | some r => match r.bound with
      | none => s
      | some b =>
        if s.tick < b + 1000 * r.lease ∧ !starving s fn then s
        else
          let s := match r.cur with
            | some e =>
              let left := (field e.bytes 4 4 - e.progress) / 65536
              let n := 65536 * (Config.free .unstated [s.fresh, fn, ring] % (left + 1))
              if r.cls = 0 && e.verdict == 0 && entryOk 0 e 0 && n != 0 then
                let p := runEntry fn e n (sendEntry fn e n s)
                updRing fn ring (fun r => { r with cur := some { e with progress := p.1.n / 65536 * 65536 } }) p.2
              else s
            | none => s
          bump (updRing fn ring (fun r => { r with bound := none }) s))

/-! ### Collectives (R453) -/

/-- Combine all of some values, two at a time, in an order that is open. -/
def combineAll (f : Nat → Nat → Nat) (salt : Nat) : Nat → List Nat → Nat
  | 0, xs => xs.headD 0
  | n + 1, xs =>
    if xs.length ≤ 1 then xs.headD 0
    else
      let i := Config.free .order [salt, n, 0] % xs.length
      let ys := xs.eraseIdx i
      let j := Config.free .order [salt, n, 1] % ys.length
      combineAll f salt n (f (xs.getD i 0) (ys.getD j 0) :: ys.eraseIdx j)

/-- A value of one format in another, rounded to nearest even. -/
def refmt (G F : Fmt) (x : Nat) : Nat := (roundVal F .rn (G.value x)).x

/-- The combination of the elements of every rank. -/
def collElem (ty op salt : Nat) (xs : List Nat) : Nat :=
  let n := xs.length
  if ty = 3 then
    let sg (x : Nat) : Int := sextNat x 32
    combineAll (fun a b => if op = 0 then (a + b) % 2 ^ 32
      else if decide (sg a < sg b) == (op == 1) then a else b) salt n xs
  else
    let F : Fmt := if ty = 0 then fmtF32 else if ty = 1 then fmtBf16 else fmtF16
    if op = 0 then
      refmt fmtF32 F (combineAll (fun a b => add32 a b) salt n (xs.map (refmt F fmtF32)))
    else combineAll (fun a b => (fMinMax F false (op == 2) a b).x) salt n xs

/-- The bytes of DST (R453): `srcs` holds SRC of every rank. -/
def collDst (op : Nat) (c : CollAux) (len salt : Nat) (srcs : List (List Byte)) : List Byte :=
  let e := collSize c.ty
  if op = 0x21 then srcs.flatten
  else
    let off := if op = 0x22 then c.rank * len else 0
    (List.range (len / e)).flatMap fun i =>
      natBytes (collElem c.ty c.op (salt + i) (srcs.map fun b => field b (off + i * e) e)) e

/-- The local tag that FAB_PEER gives a requester (R502): that of the first valid entry that matches. -/
def peerTag (s : State) (dev tag : Nat) : Option Nat :=
  ((List.range 256).map fun n => (peek s.fabPeer n).toNat).findSome? fun e =>
    if bit e 31 && bits e 24 6 == dev && bits e 16 5 == tag then some (bits e 0 5) else none

/-- Does some FAB_PEER entry let a peer act for a tag (R502)? -/
def peerAllowed (s : State) (dev tag : Nat) : Bool :=
  s.fabPeer.any fun e => bit e.2.toNat 31 && bits e.2.toNat 24 6 == dev && bits e.2.toNat 0 5 == tag

/-- COLLECTIVE_COMPLETE (R453): every rank has posted its entry, the peers' SRC bytes are those given (rank by rank; the
own one is read here), and every byte of DST lands. Peers whose bytes have another size do not match. -/
def execCollectiveComplete (fn ring : Nat) (peers : List (List Byte)) (s : State) : Host.Outcome State Fault Refusal :=
  .next (match getRing s fn ring with
    | none => s
    | some r => match r.cur with
      | none => s
      | some e =>
        let f := field e.bytes
        let c := collAux e.bytes
        let n := collBytes (f 0 1) c.ranks (f 4 4)
        let others := (List.range c.ranks).filter (· != c.rank)
        if r.cls ≠ 2 ∨ r.bound.isNone ∨ e.verdict ≠ 0 ∨ !entryOk 2 e s.fabId.toNat ∨ !recordRoom s fn r
            ∨ !others.all fun i => peerAllowed s (e.ranks.getD i 0).toNat fn then s
        else if peers.length ≠ c.ranks ∨ others.any fun i => (peers.getD i []).length ≠ n.1 then endEntry fn ring e 6 0 0 0 s
        else match vBytes s fn (f 8 8) needR n.1 with
          | .error (k, _) => endEntry fn ring e 2 k 0 0 s
          | .ok mine =>
            if vPoison s fn (f 8 8) n.1 then endEntry fn ring e 4 0 0 0 s
            else
              let srcs := (List.range c.ranks).map fun i => if i = c.rank then mine else peers.getD i []
              let out := collDst (f 0 1) c (f 4 4) s.fresh srcs
              let p := putRun fn (f 0x10 8) (fun i => out.getD i 0) out.length 0 s
              bump (endEntry fn ring e (if p.1.cause ≠ 0 then 2 else 1) p.1.cause p.1.n
                (if p.1.cause ≠ 0 then 0 else n.1) p.2))

/-- Does an abort flit of a device end an entry (R475)? -/
def abortHits (coll dev : Nat) (e : ShedEntry) : Bool :=
  let c := collAux e.bytes
  let op := field e.bytes 0 1
  (op == 0x20 || op == 0x21 || op == 0x22) && c.id == coll && (e.ranks.take c.ranks).any fun b => b.toNat == dev

/-- The owner tag that an abort flit bears, as every request does (R464); the event does not name it (log 105). -/
def abortTag (s : State) (coll dev : Nat) : Nat := Config.free .peer [coll, dev, s.fresh] % 32

/-- ABORT_FLIT (R475): operations with the ID that list the device end with STATUS 3; the record is written when a slot is
free. They are those of the tenant that FAB_PEER gives the sender (R502); other tenants' stay as they are (R6). -/
def execAbortFlit (coll dev : Nat) (s : State) : Host.Outcome State Fault Refusal :=
  let mark (r : ShedRing) : ShedRing :=
    { r with cur := r.cur.map fun e => if r.cls = 2 ∧ abortHits coll dev e then { e with verdict := 3 } else e }
  .next (bump (match peerTag s dev (abortTag s coll dev) with
    | some l => updCtx l (fun c => { c with rings := c.rings.map mark }) s
    | none => s))

/-- Complete the pending entries of a ring with STATUS 4 (R475), n at most. -/
def abortRing (fn ring : Nat) : Nat → State → State
  | 0, s => s
  | n + 1, s =>
    match getRing s fn ring with
    | none => s
    | some r => match r.cur, vNat s fn r.notify 4 with
      | some e, _ => abortRing fn ring n (endEntry fn ring e 4 0 e.progress e.progress s)
      | none, some p =>
        if p = r.head then s
        else
          let bs := (readCmd s fn r r.head).getD []
          abortRing fn ring n (endEntry fn ring ⟨r.head, bs, 0, [], 0⟩ 4 0 0 0 s)
      | none, none => s

/-- Stop the shed operations of a tag (R475). -/
def abortShed (fn : Nat) (s : State) : State :=
  match (getFn s fn).ctx with
  | none => s
  | some c => (List.range c.rings.length).foldl (fun s i =>
      abortRing fn i (match c.rings[i]? with | some r => 2 ^ r.logn | none => 0)
        (updRing fn i (fun r => { r with bound := none }) s)) s

end Sys2Proof.Machine
end

