-- ==== Sys2Proof/Machine/Reset.lean ====
section
/-!
DEFINITION. Memory errors and corrected-error summaries (spec/20 R465, R466, R471, spec/23 R518), slice and virtual-function
resets (R444, R473–R475, R493), escalation (R474, R476) and Function Level Reset (spec/21 R485).
-/
namespace Sys2Proof.Machine

/-! ### Memory errors -/

/-- Channel of a physical address (R438). -/
def channelOf (pa : Nat) : Nat := 16 * (pa / 2 ^ 35) + bits pa 7 4

/-- The tag an error in memory is charged to (R438, R464): tag 0 in a loft, else the region's owner. -/
def chargedTag (s : State) (pa : Nat) : Nat :=
  if regionBytes - loftBytes ≤ pa % 2 ^ 35 then 0 else regionOwner s pa

/-- HBM_UE_DETECTED (R465, R466, R471, R506, R518): the 128-byte sector is poisoned, event 0x04 goes to the owner of the
region, and the channel counts it; in memory of tag 0 the error is device-wide fatal. -/
def execHbmUeDetected (pa : Nat) (gid : Word) (s : State) : Host.Outcome State Fault Refusal :=
  .next (
    if 16 ≤ pa / 2 ^ 35 ∨ regionBytes ≤ pa % 2 ^ 35 then s
    else
      let a := pa / 128 * 128
      let c := channelOf pa
      let s := { s with mem := { s.mem with pois := poke s.mem.pois (pa / 128) 1 } }
      let s := lifeAdd (0x144 + 8 * c) 1 s
      let t := chargedTag s pa
      let s := emit t ⟨0x04, cECC, pa / 2 ^ 35, gid, a, c / 32 + 2 ^ 8 * c, some 2, none⟩ s
      if t = 0 then goFatal 1 s else s)

/-- CORRECTED_EVENT_SUMMARY (R466, R518): `struct` 0 to 5 are the on-die structures of event 0x05, 6 + c is HBM channel c,
whose record names the stack. -/
def execCorrectedEventSummary (tag slice struct count : Nat) (s : State) : Host.Outcome State Fault Refusal :=
  .next (
    if count = 0 ∨ 17 < tag ∨ 16 ≤ slice ∨ 262 ≤ struct then s
    else
      let die := decide (struct < 6)
      let s := lifeAdd (if die then 0x940 + 8 * slice else 0x140 + 8 * (struct - 6)) count s
      let code := if die then struct else (struct - 6) / 32
      emit tag ⟨0x0D, 0, slice, 0, 0, Nat.min count 65535 + 2 ^ 16 * code, none, some (if die then 1 else 0)⟩ s)

/-! ### Virtual-function reset (R475) -/

/-- The slice that a report of several slices names: the only one, or 0xFF (R466). -/
def oneSlice (ns : List Nat) : Nat :=
  match ns with
  | [n] => n
  | _ => 0xFF

/-- A mask of slices. -/
def maskOfSlices (ns : List Nat) : Nat := ns.foldl (fun m n => m + 2 ^ n) 0

/-- The submissions and tasks of a tag end with the poisoned status (R475 step 1, R493). -/
def poisonSubs (t : Nat) (s : State) : State :=
  let s := (s.subs.filter (·.tag == t)).foldl (fun s x => completeSub x.uid 5 s) s
  let s := updFn t (fun f => { f with sqs := f.sqs.map fun q => { q with en := false } }) s
  let inTag (k : Nat) : Bool := decide (2 ^ 64 * (t + 1) ≤ k) && decide (k < 2 ^ 64 * (t + 2))
  { s with launches := s.launches.filter (·.tag != t), ready := s.ready.filter (·.tag != t),
           lineSig := s.lineSig.filter fun l => !inTag l.1 }

/-- The context becomes unloaded (R475 step 5). -/
def unloadCtx (t : Nat) (s : State) : State :=
  updFn t (fun f => { f with ctx := none,
                             tok := { f.tok with bal := f.tok.refill, starving := f.tok.starving && f.tok.refill == 0 } })
    { s with tlb := s.tlb.filter (·.tag != t), lanes := s.lanes.filter (·.2.fn != t) }

/-- Steps 1 to 5 of the virtual-function reset of a tag (R475): its work, its operations and its loans end, and its context
is unloaded. -/
def vfStop (t : Nat) (s : State) : State :=
  let s := abortPm (slicesOf s t) (some t) s
  let us := ((allTeams s).filter fun x => x.uid != 0 && x.resid != .gone && x.tag == t).map (·.uid)
  let s := abortShed t (poisonSubs t (wipeTeams us s))
  let s := endLeases (fun l => l.borrower == t || (getSlice s (l.core / 12)).owner == t) 4 (fun l => l.core / 12) s
  unloadCtx t
    { s with elastics := s.elastics.map fun e => if e.borrower = t then { e with lent := false, passing := false } else e }

/-- What the slice reset of the slices of its partition leaves, and the one event 0x0F (R475). -/
def vfDone (t : Nat) (s : State) : State :=
  let ns := slicesOf s t
  let s := clearInst (ns.filter fun n => (getSlice s n).cond != 2) (scrubCaches ns s)
  let s := ns.foldl (fun s n => lifeAdd (0xA40 + 4 * n) 1 s) s
  emit t ⟨0x0F, 0, oneSlice ns, 0, 0, 1 + 4 * maskOfSlices ns, none, none⟩ s

/-- The virtual-function reset of a tag from first to last (R475), as another event that waits for its end contains it. -/
def vfCore (t : Nat) (s : State) : State := vfDone t (vfStop t s)

/-! ### Slice reset (R474) -/

/-- Tags whose context a slice reset resets as a whole: those of a shared slice, and the owner of an only slice. -/
def wholeTags (s : State) (ns : List Nat) : List Nat :=
  (tenants.filter fun t => ns.any fun n =>
    (slicesOf s t).contains n && ((getSlice s n).cond == 2 || (slicesOf s t).length == 1)).eraseDups

/-- Leases that a reset of slices ends (R474): those on their cores, and those of a tenant whose partition has one of them
on the lender core's die. -/
def leaseHit (s : State) (ns : List Nat) (l : Lease) : Bool :=
  ns.contains (l.core / 12) || ns.any fun n => (getSlice s n).owner == l.borrower && n / 4 == l.core / 12 / 4

/-- Event 0x0F of a slice reset goes to each owner of the slices (R474 step 7). -/
def reportReset (ns : List Nat) (s : State) : State :=
  tenants.foldl (fun s t =>
    let mine := ns.filter fun n => (getSlice s n).owner == t
    if mine = [] then s
    else emit t ⟨0x0F, 0, oneSlice mine, 0, 0, 2 + 4 * maskOfSlices mine, none, none⟩ s) s

/-- Steps 1 to 4 of the reset of slices whose partitions go on (R474). -/
def sliceStop (ns : List Nat) (s : State) : State :=
  let us := resetTeams s (ns.contains ·)
  let s := wipeTeams us (failLaunches us 4 s)
  let s := endLeases (leaseHit s ns) 4 (fun l => (ns.find? fun n => n / 4 == l.core / 12 / 4).getD 0xFF) s
  { s with wpq := s.wpq.filter (fun h => !ns.contains (h.core / 12)),
           mons := s.mons.filter fun m => !ns.contains (m.core / 12) }

/-- Steps 5 to 7 (R474). -/
def sliceDone (ns : List Nat) (s : State) : State :=
  reportReset ns (ns.foldl (fun s n => lifeAdd (0xA40 + 4 * n) 1 s) (clearInst ns (scrubCaches ns s)))

/-- Slices leave every placement set (R474 step 1): SL_STATE is 4. -/
def quiesce (ns : List Nat) (s : State) : State :=
  ns.foldl (fun s n => updSlice n (fun z => { z with st := 4, was := z.cond }) s) s

/-- SL_STATE returns to its earlier value (R474 step 6). -/
def rejoin (s : State) : State := { s with slices := s.slices.map fun z => { z with st := z.cond } }

/-- What a reset takes (R473–R475): the slices that are up of those it names or of the tag's partition, a shared one with its
other contexts left alone; the tags it resets as a whole; and the slices it resets on their own. -/
def RstReq.plan (r : RstReq) (s : State) : RstRun :=
  match r with
  | .slices mask =>
    let ns := (slicesIn mask).filter fun n => (getSlice s n).up
    let ts := wholeTags s ns
    ⟨s.tick, ns, ts, ns.filter fun n => !ts.any fun t => (slicesOf s t).contains n⟩
  | .vf t => ⟨s.tick, (slicesOf s t).filter fun n => (getSlice s n).cond != 2, [t], []⟩

/-- A reset begins (R474 steps 1 to 4, R475): all that it discards is gone, and its slices take no placement. -/
def beginReset (r : RstReq) (s : State) : State :=
  let x := r.plan s
  let s := abortPm x.slices none s
  let s := if x.own = [] then s else sliceStop x.own s
  let s := quiesce x.slices (x.tags.foldl (fun s t => vfStop t s) s)
  { s with rst := { s.rst with run := some x } }

/-- A reset ends (R474 steps 5 to 7): its slices are clean and serve again, and it is reported. -/
def endReset (x : RstRun) (s : State) : State :=
  let s := rejoin s
  let s := if x.own = [] then s else sliceDone x.own s
  let s := clearInst x.slices (x.tags.foldl (fun s t => vfDone t s) s)
  { s with rst := { queue := s.rst.queue.tail, last := 1, run := none } }

/-- The two steps of the reset at the head of the queue (R473). -/
def runReset (r : RstReq) (s : State) : State :=
  if s.rst.queue.head? = some r then
    match s.rst.run with
    | none => beginReset r s
    | some x => endReset x s
  else s

/-- SLICE_RESET (R473, R474): its first step, then its last. -/
def execSliceReset (mask : BitVec 16) (s : State) : Host.Outcome State Fault Refusal := .next (runReset (.slices mask) s)

/-- VF_RESET (R473, R475): its first step, then its last. -/
def execVfReset (tag : Nat) (s : State) : Host.Outcome State Fault Refusal := .next (runReset (.vf tag) s)

/-- RESET_ESCALATION (R474, R476): the drain or fence of the running reset is not done 1 ms after it quiesced. -/
def execResetEscalation (s : State) : Host.Outcome State Fault Refusal :=
  .next (match s.rst.run with
    | some x => if x.since + 1000000 ≤ s.tick then goFatal 4 { s with rst := { queue := [], last := 2, run := none } } else s
    | none => s)

/-- FUNCTION_LEVEL_RESET (R485): of a virtual function its reset; of the physical function the reset of every tag with a
loaded context, then the release of every partition. -/
def execFunctionLevelReset (fn : Nat) (s : State) : Host.Outcome State Fault Refusal :=
  .next (
    if 2 ≤ fn ∧ fn ≤ 17 then vfCore fn s
    else if fn = 1 then
      let s := (1 :: tenants).foldl (fun s t => if (getFn s t).ctx.isSome then vfCore t s else s) s
      tenants.foldl (fun s t => if holdsPart s t then releasePart t (abortPm (slicesOf s t) (some t) s) else s) s
    else s)

end Sys2Proof.Machine
end

