-- ==== Sys2Proof/Machine/Boot.lean ====
section
/-!
DEFINITION. Start (spec/21 R494, R495), firmware (R496, R497), identity and attestation (R498, spec/23 R519).
-/
namespace Sys2Proof.Machine

/-! ### Images (R496, R497) -/

/-- Bytes of the header of an image, up to its body. -/
def fwHead : Nat := 0x90 + 29792

/-- The image a slot was made with is not in the spec (log 30): what the firmware of slot a or b reads as in n bits. -/
def madeWith (b : Bool) (what n : Nat) : BitVec n := Config.bits .crypto n [496, if b then 1 else 0, what]

/-- The fused hash of the firmware key (R497): the spec does not print it. -/
def keyHash : List Byte := (List.range 32).map fun i => Config.bits .crypto 8 [497, i]

/-- Does an image verify: magic, fused key hash, signature, hash of the body, security version (R497)? -/
def imageOk (svnMin : Word) (m : Cells 8) : Bool :=
  let bs (a n : Nat) : List Byte := (List.range n).map fun i => peek m (a + i)
  let key := bs 0x50 64
  bytesAt m 0 4 == 0x465A4641
    && shake256 key 32 == keyHash
    && Config.flip .crypto ((bs 0 fwHead).map (·.toNat))
    && shake256 (bs fwHead (bytesAt m 0xC 4)) 64 == bs 0x10 64
    && decide (svnMin.toNat ≤ bytesAt m 8 4)

/-- Does a slot verify? -/
def slotOk (svnMin : Word) (b : Bool) (x : FwSlot) : Bool :=
  match x.image with
  | some m => imageOk svnMin m
  | none => Config.flip .crypto [496, if b then 1 else 0] && decide (svnMin.toNat ≤ (madeWith b 8 32).toNat)

/-- VERSION (offset 4) or SVN (offset 8) of a slot. -/
def slotWord (b : Bool) (off : Nat) (x : FwSlot) : Word :=
  match x.image with
  | some m => BitVec.ofNat 32 (bytesAt m off 4)
  | none => madeWith b off 32

/-! ### Stages (R495) -/

/-- Run the image of a slot. -/
def runSlot (b : Bool) (s : State) : State :=
  let x := if b then s.fw.slotB else s.fw.slotA
  { s with
    fw := { s.fw with runB := b, version := slotWord b 4 x, svn := slotWord b 8 x },
    boot := { s.boot with ready := true, slotB := b } }

/-- Does slot A (false) or B (true) verify now? -/
def slotRuns (s : State) (b : Bool) : Bool := slotOk s.fw.svnMin b (if b then s.fw.slotB else s.fw.slotA)

/-- POWER_GOOD (R495, R497): a power cycle is counted; the slot selected for this boot is tried, then the other; when
neither verifies, the device halts. -/
def execPowerGood (s : State) : Host.Outcome State Fault Refusal :=
  .next (
    if s.boot.stage ≠ 0 ∨ s.boot.ready then s
    else
      let s := lifeAdd 0x10 1 s
      let b := s.fw.nextB
      if slotRuns s b then runSlot b s
      else if slotRuns s (!b) then runSlot (!b) s
      else { s with boot := { s.boot with stage := 3, trip := false } })

/-- Did the stack of a slice fail training (R495)? -/
def excluded (s : State) (n : Nat) : Bool := s.boot.stkFail.getLsbD (n / 2)

/-- A slice's region is zeros under key 0 (R495). -/
def scrubRegion (n : Nat) (m : Mem) : Mem :=
  { m with hbm := clearRange m.hbm (n * 2 ^ 35) regionBytes, key := clearRange m.key (n * 2 ^ 35) regionBytes,
           pois := clearRange m.pois (n * 2 ^ 28) (regionBytes / 128),
           under := clearRange m.under (n * 2 ^ 47) (regionBytes * 4096) }

/-- SLICE_BRINGUP (R495): a slice is scrubbed and joins UP, in ascending order; or its stack fails training. -/
def execSliceBringup (slice : Nat) (ok : Bool) (s : State) : Host.Outcome State Fault Refusal :=
  .next (
    if !s.boot.ready || decide (1 < s.boot.stage) || decide (16 ≤ slice) || (getSlice s slice).up || excluded s slice
        || !(List.range slice).all (fun n => (getSlice s n).up || excluded s n) then s
    else
      let s := { s with boot := { s.boot with stage := 1 } }
      if ok then updSlice slice (fun z => { z with up := true, st := 0 }) { s with mem := scrubRegion slice s.mem }
      else if slice % 2 = 1 then s
      else { s with boot := { s.boot with stkFail := s.boot.stkFail ||| BitVec.twoPow 8 (slice / 2) } })

/-- STAGE_S2 (R495). -/
def execStageS2 (s : State) : Host.Outcome State Fault Refusal :=
  .next (if s.boot.stage = 1 ∧ (List.range 16).all (fun n => (getSlice s n).up || excluded s n) then
      { s with boot := { s.boot with stage := 2 } }
    else s)

/-! ### Firmware commands (R497) -/

/-- The slot that does not run. -/
def otherSlot (s : State) : FwSlot := if s.fw.runB then s.fw.slotA else s.fw.slotB

/-- Change it. -/
def setOther (x : FwSlot) (s : State) : State :=
  { s with fw := if s.fw.runB then { s.fw with slotA := x } else { s.fw with slotB := x } }

/-- RESULT of FW_STAT. -/
def fwResult (r : Nat) (s : State) : State := { s with fw := { s.fw with result := r } }

/-- A command of a port: from any but the owner it has no effect but its result. -/
def fwCmd (port : Nat) (run : State → State) (s : State) : Host.Outcome State Fault Refusal :=
  .next (if !s.boot.ready || s.boot.stage == 3 then s
    else if s.own.owner = some port then run s
    else fwResult 3 s)

/-- FW_ERASE (R497). -/
def execFwErase (port : Nat) (s : State) : Host.Outcome State Fault Refusal :=
  fwCmd port (fun s => fwResult 1 (setOther ⟨some [], false⟩ s)) s

/-- FW_WRITE_PAGE (R497): the staged 4 KiB become the page that FW_PAGE selects. -/
def execFwWritePage (port : Nat) (s : State) : Host.Outcome State Fault Refusal :=
  fwCmd port (fun s =>
    let m := (otherSlot s).image.getD []
    fwResult 1 (setOther ⟨some (pokeN m (4096 * s.fw.page.toNat) (peek s.fw.staged) 4096), false⟩ s)) s

/-- FW_VERIFY (R497). -/
def execFwVerify (port : Nat) (s : State) : Host.Outcome State Fault Refusal :=
  fwCmd port (fun s =>
    let ok := slotRuns s (!s.fw.runB)
    fwResult (if ok then 1 else 2) (setOther { otherSlot s with verified := ok } s)) s

/-- FW_SELECT (R497). -/
def execFwSelect (port : Nat) (s : State) : Host.Outcome State Fault Refusal :=
  fwCmd port (fun s =>
    if (otherSlot s).verified then fwResult 1 { s with fw := { s.fw with nextB := !s.fw.runB } } else fwResult 2 s) s

/-- FW_RAISE_SVN (R497). -/
def execFwRaiseSvn (port : Nat) (s : State) : Host.Outcome State Fault Refusal :=
  fwCmd port (fun s =>
    fwResult 1 { s with fw := { s.fw with svnMin := if s.fw.svnMin.toNat < s.fw.svn.toNat then s.fw.svn else s.fw.svnMin } }) s

/-! ### Identity and attestation (R498, R519) -/

/-- Bytes that the root of trust or the published protocol fixes and the spec does not give. -/
def openBytes (what : Nat) (args : List Nat) (n : Nat) : List Byte :=
  (List.range n).map fun i => Config.bits .crypto 8 ([498, what, i] ++ args)

/-- A response in a function's mailbox, once S0 has presented it. -/
def answer (fn : Nat) (bs : State → List Byte) (s : State) : Host.Outcome State Fault Refusal :=
  .next (if s.boot.ready ∧ fn ≠ 0 then bump (updFn fn (fun f => { f with spdm := bs s }) s) else s)

/-- The chain of slot 0: it names the part and its stepping (R7, R498); its other bytes are open. -/
def certificate : List Byte :=
  let rest (k : Nat) : List Byte := openBytes 1 [k] (Config.free .crypto [498, k])
  rest 0 ++ partName ++ rest 1 ++ stepName ++ rest 2

/-- SPDM_GET_CERTIFICATE (R498). -/
def execSpdmGetCertificate (fn : Nat) (s : State) : Host.Outcome State Fault Refusal :=
  answer fn (fun _ => certificate) s

/-- A signature of the identity key over a nonce and what goes with it, 29,792 bytes. -/
def signed (nonce : Nat) (bs : List Byte) (fresh : Nat) : List Byte :=
  openBytes 2 (nonce :: fresh :: bs.map (·.toNat)) 29792

/-- SPDM_CHALLENGE (R498). -/
def execSpdmChallenge (fn nonce : Nat) (s : State) : Host.Outcome State Fault Refusal :=
  answer fn (fun s => signed nonce [] s.fresh) s

/-- The slices that index 5 measures for a function (R498, R519). -/
def measuredSlices (s : State) (fn : Nat) : List Nat := if fn = 1 then List.range 16 else slicesOf s fn

/-- The body of the running image, which index 2 measures. -/
def runningBody (s : State) : List Byte :=
  match (if s.fw.runB then s.fw.slotB else s.fw.slotA).image with
  | some m => (List.range (bytesAt m 0xC 4)).map fun i => peek m (fwHead + i)
  | none => openBytes 3 [if s.fw.runB then 1 else 0] (Config.free .crypto [496, if s.fw.runB then 1 else 0, 12])

/-- What index 4 measures (R7, R498): key hash, SVN minimum, part number and stepping, with what the layout of the fuses
puts between them. -/
def fuseBytes (s : State) : List Byte :=
  let gap (k : Nat) : List Byte := openBytes 6 [k] (Config.free .crypto [498, 6, k])
  keyHash ++ gap 0 ++ natBytes s.fw.svnMin.toNat 4 ++ gap 1 ++ partName ++ gap 2 ++ stepName

/-- The five measurement blocks, each a SHAKE256 digest of 64 bytes (R498); those of the boot ROM and of the command
processor are open. -/
def measurements (s : State) (fn : Nat) : List Byte :=
  openBytes 4 [] 64 ++ shake256 (runningBody s) 64 ++ openBytes 5 [] 64 ++ shake256 (fuseBytes s) 64 ++
    shake256 ((measuredSlices s fn).flatMap fun n => natBytes (slState s n) 4) 64

/-- SPDM_GET_MEASUREMENTS (R498, R519): the five digests, signed over the nonce. -/
def execSpdmGetMeasurements (fn nonce : Nat) (s : State) : Host.Outcome State Fault Refusal :=
  answer fn (fun s => measurements s fn ++ signed nonce (measurements s fn) s.fresh) s

end Sys2Proof.Machine
end

