-- ==== Sys2Proof/Machine/Owner.lean ====
section
/-!
DEFINITION. Ownership (spec/21 R499, R500).
-/
namespace Sys2Proof.Machine

/-- Ticks of a millisecond (R142). -/
def msec : Nat := 1000000

/-- Do the ownership registers answer: S0 has presented them (R495), and nothing has halted the device (R476, R495)? -/
def ownServes (s : State) : Bool := s.boot.ready && s.boot.stage != 3 && s.dump.fatal.isNone

/-- Is the port the owner? -/
def isOwner (s : State) (port : Nat) : Bool := s.own.owner == some port

/-- A port owns the device from now on, for the lease. -/
def crown (port : Nat) (s : State) : State :=
  { s with own := { s.own with owner := some port, claims := s.own.claims.filter (·.1 != port), election := none,
                               ends := s.tick + s.own.lease * msec } }

/-- OWN_CLAIM (R500): the claim waits while there is an owner; the first one without opens an election. -/
def execOwnClaim (port prio : Nat) (s : State) : Host.Outcome State Fault Refusal :=
  .next (
    if !ownServes s || decide (4 ≤ port) then s
    else
      let cs := s.own.claims.filter (·.1 != port) ++ [(port, prio % 16)]
      let e := if s.own.owner.isNone && s.own.election.isNone then some (s.tick + 10 * msec) else s.own.election
      { s with own := { s.own with claims := cs, election := e } })

/-- OWN_WITHDRAW (R499); with no claim left, no election is open. -/
def execOwnWithdraw (port : Nat) (s : State) : Host.Outcome State Fault Refusal :=
  .next (
    if !ownServes s then s
    else
      let cs := s.own.claims.filter (·.1 != port)
      { s with own := { s.own with claims := cs, election := if cs = [] then none else s.own.election } })

/-- OWN_RENEW (R499). -/
def execOwnRenew (port : Nat) (s : State) : Host.Outcome State Fault Refusal :=
  .next (if ownServes s && isOwner s port then { s with own := { s.own with ends := s.tick + s.own.lease * msec } } else s)

/-- OWN_HAND (R500): to a port with a pending claim, while NumVFs is 0. -/
def execOwnHand (port target : Nat) (s : State) : Host.Outcome State Fault Refusal :=
  .next (if ownServes s && isOwner s port && s.own.numVfs == 0 && s.own.claims.any (·.1 == target) then crown target s else s)

/-- The better of two claims: the higher priority, on a tie the lower port (R500). -/
def better (a b : Nat × Nat) : Nat × Nat := if a.2 < b.2 ∨ (a.2 = b.2 ∧ b.1 < a.1) then b else a

/-- The claim that wins. -/
def winner : List (Nat × Nat) → Option (Nat × Nat)
  | [] => none
  | c :: cs => some (cs.foldl better c)

/-- ELECTION_CLOSE (R500). -/
def execElectionClose (s : State) : Host.Outcome State Fault Refusal :=
  .next (match s.own.election, winner s.own.claims with
    | some e, some c => if s.own.owner.isNone && decide (e ≤ s.tick) && ownServes s then crown c.1 s else s
    | _, _ => s)

/-- OWNER_LEASE_EXPIRY (R500): every tag with a loaded context undergoes a virtual-function reset, and an election
follows. -/
def execOwnerLeaseExpiry (s : State) : Host.Outcome State Fault Refusal :=
  .next (
    if s.own.owner.isNone || decide (s.tick < s.own.ends) || !ownServes s then s
    else
      let s := (1 :: tenants).foldl (fun s t => if (getFn s t).ctx.isSome then vfCore t s else s) s
      { s with own := { s.own with owner := none,
                                   election := if s.own.claims = [] then none else some (s.tick + 10 * msec) } })

end Sys2Proof.Machine
end

