-- ==== Sys2Proof/Machine/Link.lean ====
section
/-!
DEFINITION. The links and what comes in by them: flits and retraining (spec/21 R479, R482), the aperture (R486), requests
of peer devices (R483, R502).
-/
namespace Sys2Proof.Machine

/-! ### Ports (R482): 0, 1 are AHL ports, 2 to 13 the fabric ports 0 to 11 -/

/-- Change a port. -/
def updPort (p : Nat) (f : Port → Port) (s : State) : State := { s with ports := modAt s.ports p f }

/-- A port. -/
def getPort (s : State) (p : Nat) : Port := s.ports.getD p Port.init

/-- Has a port been trained: an AHL port in S0, a fabric port in S1 (R495)? -/
def trained (s : State) (p : Nat) : Bool :=
  s.boot.ready && s.boot.stage != 3 && decide (p < 14) && (decide (p < 2) || decide (1 ≤ s.boot.stage))

/-- The header and data credits that the slots of a flit return, by channel: the event does not name them (log 106). -/
def returned (s : State) (port : Nat) (seq : BitVec 10) : List (Nat × Nat) :=
  (List.range 4).map fun i => (Config.free .peer [port, seq.toNat, s.fresh, i, 0], Config.free .peer [port, seq.toNat, s.fresh, i, 1])

/-- FLIT_RECEIVED (R479, R482): a flit that fails its CRC is answered with NAK and nothing else of it is used; a sound one
acknowledges, and counts as received where it is the next in order: then the credits that its VC3 slots return are taken
(R480). A NAK that acknowledges nothing new is a replay without progress. -/
def execFlitReceived (port : Nat) (seq ack : BitVec 10) (nak crcOk : Bool) (s : State) : Host.Outcome State Fault Refusal :=
  let p := getPort s port
  .next (
    if !trained s port || !p.up || p.retraining then s
    else if !crcOk then updPort port (fun p => { p with nak := true }) s
    else
      let next := !p.rxAny || seq == p.rx + 1
      bump <| updPort port (fun p => Port.refund (if next then returned s port seq else []) { p with
        rx := if next then seq else p.rx, rxAny := true, nak := if next then false else p.nak,
        acked := ack, replays := if ack != p.acked then (if nak then 1 else 0) else if nak then p.replays + 1 else p.replays }) s)

/-- A port begins to retrain: counted (R517), and event 0x0E with subcode 1 is charged to tag 1. -/
def startRetrain (port : Nat) (s : State) : State :=
  let s := updPort port (fun p => { p with retraining := true, since := s.tick, replays := 0 }) s
  let s := lifeAdd (0x9C0 + 4 * port) 1 s
  if s.dump.fatal.isSome then s else emit 1 ⟨0x0E, 0, 0xFF, 0, 0, 1 + 2 ^ 8 * port, none, some 2⟩ s

/-- LINK_RETRAIN (R482): of a port that is up; four replays without progress and a loss of symbol lock come from the link. -/
def execLinkRetrain (port : Nat) (s : State) : Host.Outcome State Fault Refusal :=
  .next (if trained s port && (getPort s port).up && !(getPort s port).retraining then startRetrain port s else s)

/-- LINK_RETRAINED (R480, R482): the held traffic resumes, and neither it nor a credit is lost. -/
def execLinkRetrained (port : Nat) (s : State) : Host.Outcome State Fault Refusal :=
  .next (if (getPort s port).retraining then
      updPort port (fun p => Port.drain { p with retraining := false, up := true }) s else s)

/-- What waits on a port that goes down is reissued on the other AHL port, where that is up (R482). -/
def passHeld (port : Nat) (xs : List Xact) (s : State) : State :=
  let other := 1 - port
  if 2 ≤ port ∨ !(getPort s other).up then s else updPort other (fun p => xs.foldl Port.offer p) s

/-- PORT_DOWN (R482): not retrained within 10 ms; the other AHL port carries on, and with none left what waits is dropped. -/
def execPortDown (port : Nat) (s : State) : Host.Outcome State Fault Refusal :=
  let p := getPort s port
  .next (if p.retraining && decide (p.since + 10 * msec ≤ s.tick) then
      passHeld port p.held (updPort port (fun p => { p with retraining := false, up := false, held := [] }) s)
    else s)

/-- PORT_RETRY (R482): a port that is down tries again every 100 ms. -/
def execPortRetry (port : Nat) (s : State) : Host.Outcome State Fault Refusal :=
  let p := getPort s port
  .next (if trained s port && !p.up && !p.retraining && decide (p.since + 100 * msec ≤ s.tick) then startRetrain port s else s)

/-! ### Aperture (R486) -/

/-- An access at an offset of BAR 2 that no context translates, or that fails. -/
def apFail (fn : Nat) (s : State) : State :=
  updFn fn (fun f => { f with apErr := if f.apErr = 0xFFFFFFFF then f.apErr else f.apErr + 1 }) s

/-- Virtual address of an offset of the aperture. -/
def apVa (s : State) (fn off : Nat) : Nat := (getFn s fn).apBase.toNat + off

/-- Does an access lie in BAR 2 and does it come by an adapter that is there? -/
def apTaken (s : State) (fn off n : Nat) : Bool :=
  (s.boot.stage == 1 || s.boot.stage == 2) && decide (1 ≤ fn) && decide (fn ≤ 17) && decide (off + n ≤ 2 ^ 36)

/-- A transaction that the host sent has been taken: its credits go back to the host on VC3 (R480). -/
def giveBack (fn : Nat) (s : State) : State := sendOut 2 3 fn 1 false s

/-- APERTURE_WRITE (R486). -/
def execApertureWrite (fn off : Nat) (data : List Byte) (s : State) : Host.Outcome State Fault Refusal :=
  .next (
    if !apTaken s fn off data.length then s
    else giveBack fn (match vWriteAll fn (apVa s fn off) data s with
      | some s' => clearPoison (vSpans s fn (apVa s fn off) data.length) s'
      | none => apFail fn s))

/-- APERTURE_READ (R480, R486): the data go to the host in completions of VC2; it reads all ones where the access fails. -/
def execApertureRead (fn off len : Nat) (s : State) : Host.Outcome State Fault Refusal :=
  .next (
    if !apTaken s fn off len then s
    else sendOut 2 2 fn len true (giveBack fn (match vBytes s fn (apVa s fn off) needR len with
      | .ok _ => s
      | .error _ => apFail fn s)))

/-- What the host reads. -/
def apertureData (s : State) (fn off len : Nat) : List Byte :=
  match vBytes s fn (apVa s fn off) needR len with
  | .ok bs => bs
  | .error _ => List.replicate len 0xFF

/-! ### Peers (R502) -/

/-- PEER_REQUEST (R483, R502): a store acts as one by the local tag, under the key ID that the request carries, which the
event does not name. A load leaves nothing here; so does a request that no entry or window admits, whose requester is told
by a poisoned transfer. -/
def execPeerRequest (dev tag : Nat) (write : Bool) (addr : Nat) (data : List Byte) (s : State) :
    Host.Outcome State Fault Refusal :=
  .next (
    if s.boot.stage ≠ 2 ∨ !write then s
    else match peerTag s dev tag with
      | none => s
      | some l =>
        let kid := Config.free .peer [dev, tag, addr, s.fresh] % 4096
        let ok := (List.range data.length).all fun i => localOk s l (addr + i) kid false
        if !ok || !keyOk s l kid || l < 2 || 17 < l then bump s
        else
          let x : Xl := ⟨0, addr, 0, kid, false, ⟨engUnit, l, 0, 0, 0⟩⟩
          bump (clearPoison [(addr, data.length)] (gWrite x (bytesNat data) data.length s)))

end Sys2Proof.Machine
end

