-- ==== Sys2Proof/Machine/Telemetry.lean ====
section
/-!
DEFINITION. Telemetry, throttling and the thermal trip (spec/23 R511–R514), and what they count (R517).
-/
namespace Sys2Proof.Machine

/-- The causes that are active (R512): junction, HBM, power cap, regulator. -/
def activeCauses (cap : Nat) (x : Sensors) : BitVec 4 :=
  BitVec.ofBool x.regulator ++ BitVec.ofBool (decide (cap < x.pavg1)) ++ BitVec.ofBool (decide (95 ≤ x.thbm))
    ++ BitVec.ofBool (decide (105 ≤ x.tj))

/-- LEVEL after a sample (R512): up by one while a cause is active, to 8; down by one once none has been for 1 ms. -/
def nextLevel (level : Nat) (active : Bool) (quiet : Bool) : Nat :=
  if active then Nat.min (level + 1) 8 else if quiet then level - 1 else level

/-- Has a unit of time passed since the last sample? -/
def crossed (s : State) (unit : Nat) : Bool := s.tel.last / unit != s.tick / unit

/-- Add one to the fields at an offset on for each active cause. -/
def countCauses (base step : Nat) (a : BitVec 4) (s : State) : State :=
  (List.range 4).foldl (fun s i => if a.getLsbD i then lifeAdd (base + step * i) 1 s else s) s

/-- Bin of TJ (R517). -/
def tempBin (tj : Nat) : Nat := if tj < 30 then 0 else Nat.min ((tj - 25) / 5) 15

/-- What is counted once a second and once an hour (R517); the core supply, which no sensor here shows, is open. -/
def countTime (a : BitVec 4) (x : Sensors) (s : State) : State :=
  let s := if crossed s 1000000000 then
      let volt := Config.free .count [s.fresh, 517] % 16
      let s := bump (lifeAdd (0xC0 + 8 * volt) 1 (lifeAdd (0x40 + 8 * tempBin x.tj) 1 s))
      if s.tel.level = 0 then s else countCauses 0xA10 8 a s
    else s
  if crossed s 3600000000000 then lifeAdd 0x14 1 s else s

/-- TELEMETRY_SAMPLE (R511, R512, R514, R517): every 100 µs. -/
def execTelemetrySample (x : Sensors) (s : State) : Host.Outcome State Fault Refusal :=
  .next (
    if !s.boot.ready || s.boot.stage == 3 || decide (s.tick < s.tel.last + 100000) then s
    else
      let a := activeCauses s.tel.cap x
      let hot := decide (120 ≤ x.tj) || decide (105 ≤ x.thbm)
      let level := nextLevel s.tel.level (a != 0) (decide (s.tel.lastActive + msec ≤ s.tick))
      let s := if s.tel.level = 0 ∧ level ≠ 0 then countCauses 0xA00 4 a s else s
      let s := countTime a x s
      { s with tel := { s.tel with
          sample := x, last := s.tick, level := level, active := a, sticky := s.tel.sticky ||| a,
          lastActive := if a != 0 then s.tick else s.tel.lastActive,
          tripSince := if hot then some (s.tel.tripSince.getD s.tick) else none } })

/-- Do the sensors show a trip for a cause: 0 junction and 1 HBM for 1 ms, 2 loss of coolant flow (R514)? -/
def tripDue (cause : Nat) (s : State) : Bool :=
  let long := match s.tel.tripSince with | some t => decide (t + msec ≤ s.tick) | none => false
  match cause with
  | 0 => long && decide (120 ≤ s.tel.sample.tj)
  | 1 => long && decide (105 ≤ s.tel.sample.thbm)
  | 2 => s.tel.sample.flowLost
  | _ => false

/-- THERMAL_TRIP (R514, R515): recorded in the life counters, which go to flash; then every clock but the management
controller's stops, and HBM contents are lost. No dump is written. -/
def execThermalTrip (cause : Nat) (s : State) : Host.Outcome State Fault Refusal :=
  .next (
    if s.boot.stage == 3 || !tripDue cause s then s
    else
      let s := lifeFlush (lifeAdd (0xA30 + 4 * cause) 1 s)
      { s with boot := { s.boot with stage := 3, trip := true }, mem := { s.mem with hbm := [], key := [], pois := [], under := [] } })

end Sys2Proof.Machine
end

