-- ==== Sys2Proof/Machine/Bar.lean ====
section
/-!
DEFINITION. The registers of BAR 0 as the host reads and writes them (spec/00 R3, spec/17 R405, R408, R411, R414, R419, R425,
R426, spec/19 R439, R445, R446, R450, R454, R463, spec/20 R469, R473, R478, spec/21 R486, R488, R494, R497, R499, R501,
R502, spec/23 R511, R516). Registers whose write is a row of its own of the opcode table are left alone here.
-/
namespace Sys2Proof.Machine

/-- A register: those of every function, those of the observation blocks, those of the physical function. -/
inductive BarReg where
  | cxDesc | cxStat | apBase | apErr | tkBal | tkDebt | tkStat | tiVa | tiStat
  | leaseEnt (n : Nat)
  | erUst | erUmsk | erUsev | erCst | erCmsk | erCtl
  | erHlog (n : Nat)
  | sqBase (q : Nat) | sqCtl (q : Nat) | sqTail (q : Nat) | sqHead (q : Nat) | sqDone (q : Nat)
  | obs (slice off : Nat) (wide : Bool)
  | pmCaddr | pmDoor | pmStat
  | slStateOf (n : Nat)
  | rstReq | rstStat | dmpStat | dmpPage
  | dmpData (n : Nat)
  | bootStat | ownStat | ownLease | fwCtl | fwPage | fwStat
  | fwStage (n : Nat)
  | fabId
  | fabPeerOf (n : Nat)
  | lcStat | lcPage
  | lcData (n : Nat)
  | telPwr | telTemp | telClk | telThr | telCap
  deriving DecidableEq, Repr

/-- Is a register 64 bits wide? The page windows are read and written in units of 8 bytes or halves of them. -/
def BarReg.wide : BarReg → Bool
  | .cxDesc => true
  | .apBase => true
  | .tkBal => true
  | .tkDebt => true
  | .tiVa => true
  | .sqBase _ => true
  | .pmCaddr => true
  | .obs _ _ w => w
  | .dmpData _ => true
  | .fwStage _ => true
  | .lcData _ => true
  | _ => false

/-! ### Which register lies where -/

/-- Is a 64-bit register at this offset of an observation block (R405)? -/
def obsWide (o : Nat) : Bool :=
  let r := o % 0x800
  if o < 0x400 then decide (o % 0x100 < 0x80) && o % 8 == 0
  else if 0x1000 ≤ o ∧ o < 0x1300 then [8, 0x10, 0x18, 0x20].contains (o % 0x100)
  else if 0x2000 ≤ o ∧ o < 0x8000 then
    if r < 0x400 then [0, 8, 0x10].contains (r % 0x20) else decide (r < 0x480) && r % 0x10 == 0
  else if 0x8000 ≤ o ∧ o < 0x80C0 then [8, 0x18].contains (o % 0x40)
  else false

/-- Is a 32-bit register there? -/
def obsNarrow (o : Nat) : Bool :=
  let r := o % 0x800
  if o < 0x400 then (decide (0x80 ≤ o % 0x100) && decide (o % 0x100 ≤ 0xC4)) && o % 4 == 0
  else if 0x1000 ≤ o ∧ o < 0x1300 then [0, 0x28].contains (o % 0x100)
  else if 0x2000 ≤ o ∧ o < 0x8000 then decide (0x400 ≤ r) && decide (r < 0x480) && r % 0x10 == 8
  else if 0x8000 ≤ o ∧ o < 0x80C0 then [0, 4, 0x10, 0x14].contains (o % 0x40)
  else false

/-- A register of the block of a slice. -/
def obsAt (x : Nat) : Option BarReg :=
  let o := x % 0x10000
  if obsWide o then some (.obs (x / 0x10000) o true)
  else if obsNarrow o then some (.obs (x / 0x10000) o false)
  else none

/-- A register of every function, at an offset below 0x1000. -/
def fnRegAt (o : Nat) : Option BarReg :=
  if 0x100 ≤ o ∧ o < 0x140 ∧ o % 4 = 0 then some (.leaseEnt ((o - 0x100) / 4))
  else if 0x220 ≤ o ∧ o < 0x230 ∧ o % 4 = 0 then some (.erHlog ((o - 0x220) / 4))
  else if 0x800 ≤ o ∧ o < 0xA00 then
    let q := (o - 0x800) / 0x20
    match o % 0x20 with
    | 0 => some (.sqBase q)
    | 8 => some (.sqCtl q)
    | 0xC => some (.sqTail q)
    | 0x10 => some (.sqHead q)
    | 0x14 => some (.sqDone q)
    | _ => none
  else match o with
    | 0 => some .cxDesc
    | 0xC => some .cxStat
    | 0x18 => some .apBase
    | 0x20 => some .apErr
    | 0x40 => some .tkBal
    | 0x48 => some .tkDebt
    | 0x50 => some .tkStat
    | 0x60 => some .tiVa
    | 0x6C => some .tiStat
    | 0x200 => some .erUst
    | 0x204 => some .erUmsk
    | 0x208 => some .erUsev
    | 0x20C => some .erCst
    | 0x210 => some .erCmsk
    | 0x214 => some .erCtl
    | _ => none

/-- A register of the physical function, at 0x100000 and above. -/
def pfRegAt (o : Nat) : Option BarReg :=
  if 0x200000 ≤ o ∧ o < 0x300000 then obsAt (o - 0x200000)
  else if 0x100100 ≤ o ∧ o < 0x100140 ∧ o % 4 = 0 then some (.slStateOf ((o - 0x100100) / 4))
  else if 0x121000 ≤ o ∧ o < 0x122000 ∧ o % 8 = 0 then some (.dmpData ((o - 0x121000) / 8))
  else if 0x141000 ≤ o ∧ o < 0x142000 ∧ o % 8 = 0 then some (.fwStage ((o - 0x141000) / 8))
  else if 0x161000 ≤ o ∧ o < 0x162000 ∧ o % 8 = 0 then some (.lcData ((o - 0x161000) / 8))
  else if 0x150100 ≤ o ∧ o < 0x150500 ∧ o % 4 = 0 then some (.fabPeerOf ((o - 0x150100) / 4))
  else match o with
    | 0x100000 => some .pmCaddr
    | 0x100008 => some .pmDoor
    | 0x10000C => some .pmStat
    | 0x110000 => some .rstReq
    | 0x110004 => some .rstStat
    | 0x120000 => some .dmpStat
    | 0x120004 => some .dmpPage
    | 0x130000 => some .bootStat
    | 0x130010 => some .ownStat
    | 0x130018 => some .ownLease
    | 0x140000 => some .fwCtl
    | 0x140004 => some .fwPage
    | 0x140008 => some .fwStat
    | 0x150000 => some .fabId
    | 0x160004 => some .lcStat
    | 0x160008 => some .lcPage
    | 0x170000 => some .telPwr
    | 0x170004 => some .telTemp
    | 0x170008 => some .telClk
    | 0x17000C => some .telThr
    | 0x170010 => some .telCap
    | _ => none

/-- The register at an offset of BAR 0 of a function (R486). -/
def regAt (fn off : Nat) : Option BarReg :=
  if off < 0x1000 then fnRegAt off
  else if fn = 1 then pfRegAt off
  else if 0x100000 ≤ off ∧ off < 0x200000 then obsAt (off - 0x100000)
  else none

/-- What an access reaches: a register, whole (0), its low half (1) or its high half (2); an access of another width
reaches nothing (R405). -/
def locate (fn off : Nat) (wide : Bool) : Option (BarReg × Nat) :=
  match regAt fn off with
  | some r => if r.wide then some (r, if wide then 0 else 1) else if wide then none else some (r, 0)
  | none =>
    if wide || decide (off < 4) then none
    else match regAt fn (off - 4) with
      | some r => if r.wide then some (r, 2) else none
      | none => none

/-! ### Reading -/

/-- The group that DBG_GSEL selects (R419). -/
def selected (s : State) (fn slice cl : Nat) : Option Group :=
  let v := obsGet s fn slice (0x8010 + 0x40 * cl)
  (allGroups s).find? fun x => inCluster s fn (3 * slice + cl) x && x.slot % 64 == bits v 0 6 &&
    (match findTeam s x.team with | some t => coreOf t x == 12 * slice + bits v 6 4 | none => false)

/-- STATE of DBG_GSTATE (R419). -/
def gstate (x : Group) : Nat :=
  match x.stat with
  | .waiting _ => 2
  | .held => 3
  | .parked => 4
  | .barrier _ => 4
  | _ => if x.halted then (if x.shadowed then 5 else 1) else 6

/-- A register of an observation block as it reads (R405, R408, R419, R426, R428). -/
def obsRead (s : State) (fn slice o : Nat) : Nat :=
  if !holdsSlice s fn slice then 0
  else if o < 0x400 ∧ o % 0x100 = 0xC0 then
    obsGet s fn slice o + (if fn ≠ 1 ∧ claimOf s slice (o / 0x100) then 1 else 0)
  else if 0x8000 ≤ o then
    let cl := (o - 0x8000) / 0x40
    match o % 0x40 with
    | 0x14 => match selected s fn slice cl with
      | some x => gstate x * 2 ^ 28 + Nat.min x.skid 65535
      | none => 0
    | 0x18 => match selected s fn slice cl with
      | some x => x.startOfRun.toNat
      | none => 0
    | _ => obsGet s fn slice o
  else obsGet s fn slice o

/-- OWN_STAT (R499). -/
def ownStatus (s : State) : Nat :=
  let pend := (List.range 4).foldl (fun m p => m + if s.own.claims.any (·.1 == p) then 2 ^ p else 0) 0
  pend * 2 ^ 24 + match s.own.owner with
    | some p => 2 ^ 31 + p * 2 ^ 28 + Nat.min ((s.own.ends - s.tick) / msec) (2 ^ 20 - 1)
    | none => 0

/-- BOOT_STAT (R494). -/
def bootStatus (s : State) : Nat :=
  let up := (List.range 16).foldl (fun m n => m + if (getSlice s n).up then 2 ^ n else 0) 0
  s.boot.stage * 2 ^ 30 + (if s.boot.slotB then 2 ^ 29 else 0) + (if s.boot.stage == 3 && s.boot.trip then 2 ^ 28 else 0)
    + s.boot.stkFail.toNat * 2 ^ 16 + up

/-- RST_STAT (R473): BUSY while a reset runs, LAST, and the slices in reset. -/
def rstStatus (s : State) : Nat :=
  let m := match s.rst.run with
    | some r => r.slices.foldl (fun (m : BitVec 16) n => m ||| BitVec.twoPow 16 n) 0
    | none => 0
  (if s.rst.run.isSome then 2 ^ 31 else 0) + s.rst.last * 2 ^ 28 + m.toNat

/-- A 64-bit word of a page of an image, zero beyond its size. -/
def pageWord (m : Cells 8) (size page n : Nat) : Nat :=
  let a := 4096 * page + 8 * n
  bytesNat ((List.range 8).map fun i => if a + i < size then peek m (a + i) else 0)

/-- A register as it reads. WO fields read zero. -/
def regRead (s : State) (fn : Nat) (r : BarReg) : Nat :=
  let f := getFn s fn
  match r with
  | .cxDesc => f.cxDesc.toNat
  | .cxStat => (if s.subs.any (·.tag == fn) then 2 ^ 31 else 0) + f.cxErr
  | .apBase => f.apBase.toNat
  | .apErr => f.apErr.toNat
  | .tkBal => f.tok.bal
  | .tkDebt => f.tok.debt
  | .tkStat => if f.tok.starving then 1 else 0
  | .tiVa => f.tiVa.toNat
  | .tiStat => (if f.tiRun.isSome then 2 ^ 31 else 0) + f.tiDone
  | .leaseEnt n => match f.leaseTab[n]? with
    | some e => (if e.1 then 2 ^ 31 else 0) + e.2
    | none => 0
  | .erUst => f.er.ust.toNat
  | .erUmsk => f.er.umsk.toNat
  | .erUsev => f.er.usev.toNat
  | .erCst => f.er.cst.toNat
  | .erCmsk => f.er.cmsk.toNat
  | .erCtl => if f.er.autoreset then 1 else 0
  | .erHlog n => bits f.er.hlog.toNat (32 * n) 32
  | .sqBase q => (getSq s fn q).base.toNat
  | .sqCtl q => let x := getSq s fn q; (if x.en then 2 ^ 31 else 0) + 16 * x.vec + x.logn
  | .sqTail q => (getSq s fn q).tail.toNat
  | .sqHead q => (getSq s fn q).head.toNat
  | .sqDone q => (getSq s fn q).done.toNat
  | .obs n o _ => obsRead s fn n o
  | .pmCaddr => s.pm.caddr.toNat
  | .pmDoor => 0
  | .pmStat => (if s.pm.busy then 2 ^ 31 else 0) + s.pm.last
  | .slStateOf n => slState s n
  | .rstReq => 0
  | .rstStat => rstStatus s
  | .dmpStat => if s.dump.fatal.isSome then 2 ^ 31 + (s.dump.size + 1023) / 1024 else 0
  | .dmpPage => s.dump.page.toNat
  | .dmpData n => pageWord s.dump.image s.dump.size s.dump.page.toNat n
  | .bootStat => bootStatus s
  | .ownStat => ownStatus s
  | .ownLease => s.own.lease
  | .fwCtl => 0
  | .fwPage => s.fw.page.toNat
  | .fwStat => s.fw.result
  | .fwStage n => bytesAt s.fw.staged (8 * n) 8
  | .fabId => s.fabId.toNat
  | .fabPeerOf n => (peek s.fabPeer n).toNat
  | .lcStat => (if s.life.valid then 2 ^ 31 else 0) + s.life.size
  | .lcPage => s.life.page.toNat
  | .lcData n => pageWord s.life.image s.life.size s.life.page.toNat n
  | .telPwr => bits s.tel.sample.pavg100 0 16 * 2 ^ 16 + bits s.tel.sample.pavg1 0 16
  | .telTemp => bits s.tel.sample.thub 0 8 * 2 ^ 16 + bits s.tel.sample.thbm 0 8 * 2 ^ 8 + bits s.tel.sample.tj 0 8
  | .telClk => (4000 - 250 * s.tel.level) * 2 ^ 12 + 3000
  | .telThr => s.tel.level * 2 ^ 28 + s.tel.sticky.toNat * 2 ^ 8 + s.tel.active.toNat
  | .telCap => s.tel.cap

/-- What the host reads at an offset of BAR 0 of a function; the high half of a counter whose low half was read last comes
from the latch (R427). -/
def hostRead (s : State) (fn off : Nat) (wide : Bool) : Nat :=
  match locate fn off wide with
  | none => 0
  | some (r, 0) => regRead s fn r
  | some (r, 1) => regRead s fn r % 2 ^ 32
  | some (r, _) =>
    match (getFn s fn).latch with
    | some (o, w) => if o = off - 4 ∧ (counterReg s fn o).isSome then w.toNat else regRead s fn r / 2 ^ 32
    | none => regRead s fn r / 2 ^ 32

/-! ### Writing -/

/-- Keep some bits of a value. -/
def keepBits (v lo n : Nat) : Nat := bits v lo n * 2 ^ lo

/-- Does the physical function's owner write: function 1 is its driver, function 18 + p the master of port p (R500)? -/
def byOwner (s : State) (fn : Nat) : Bool := if fn = 1 then s.own.owner.isSome else decide (18 ≤ fn) && isOwner s (fn - 18)

/-- Is a write to a register taken (R476, R495, R499, R500, R501, R511, R516)? -/
def mayWrite (s : State) (fn : Nat) (r : BarReg) : Bool :=
  let on := (s.boot.stage == 1 || s.boot.stage == 2) && s.dump.fatal.isNone
  match r with
  | .dmpPage => decide (s.boot.stage ≠ 0)
  | .lcPage => decide (s.boot.stage ≠ 0) && s.dump.fatal.isNone
  | .ownLease => ownServes s && byOwner s fn
  | .fwCtl => ownServes s
  | .fwPage => ownServes s && byOwner s fn
  | .fwStage _ => ownServes s && byOwner s fn
  | .telThr => on && (byOwner s fn || fn == 20)
  | .telCap => on && (byOwner s fn || fn == 20)
  | .fabId => on && (byOwner s fn || fn == 21)
  | .fabPeerOf _ => on && (byOwner s fn || fn == 21)
  | _ => on && (byOwner s fn || (decide (2 ≤ fn) && decide (fn ≤ 17)))

/-- A write of DBG_GPC while the cluster is halted (R419): the PC is the start of a run, past pad words (R44); a group that
waits issues there too. -/
def writeGpc (fn slice cl v : Nat) (s : State) : State :=
  match selected s fn slice cl with
  | none => s
  | some x =>
    if !clusterHalted s fn (3 * slice + cl) || !x.halted then s
    else
      let st := match x.stat with
        | .waiting _ => .running
        | st => st
      updGroup x.uid (fun x => { x with pc := normPc (focus x.uid s) (BitVec.ofNat 56 v), runPos := 0, stat := st }) s

/-- A write to a register of an observation block (R405, R408, R411, R414, R419, R426, R428). -/
def obsWrite (fn slice o v : Nat) (s : State) : State :=
  let r := o % 0x800
  let set (v : Nat) : State := obsSet fn slice o v s
  if !holdsSlice s fn slice then s
  else if o < 0x400 then
    if fn ≠ 1 ∧ claimOf s slice (o / 0x100) then holdWrite fn slice (o / 0x100) o v s else bankWrite fn slice (o / 0x100) o v s
  else if o < 0x1300 then
    let cl := (o - 0x1000) / 0x100
    let en := bit (obsGet s fn slice (0x1000 + 0x100 * cl)) 31
    match o % 0x100 with
    | 0 => writeTrCtl fn slice cl v s
    | 8 => if en then s else set (v % 2 ^ 56)
    | 0x10 => if en then s else set v
    | 0x20 => writeTrRptr fn slice cl v s
    | 0x28 => set ((BitVec.ofNat 32 (obsGet s fn slice o) &&& ~~~(BitVec.ofNat 32 v)).toNat)
    | _ => s
  else if o < 0x8000 then
    if r < 0x400 then
      match r % 0x20 with
      | 0 => set (keepBits v 2 54 + v % 2)
      | 8 => set v
      | 0x10 => set (keepBits v 5 51)
      | _ => s
    else if r % 0x10 = 0 then set (v % 2 ^ 56)
    else
      let len := if bits v 5 3 = 7 then bits (obsGet s fn slice o) 5 3 else bits v 5 3
      set (keepBits v 31 1 + keepBits v 8 5 + len * 2 ^ 5 + v % 2 ^ 5)
  else
    let cl := (o - 0x8000) / 0x40
    match o % 0x40 with
    | 0 => set (v % 2)
    | 0x10 => set (v % 2 ^ 10)
    | 0x18 => writeGpc fn slice cl v s
    | _ => s

/-- A write of ER_UST (R469, R470): 1 clears; with no unmasked fatal bit left, placement goes on. -/
def clearUst (v : Nat) (f : Fn) : Fn :=
  let u := f.er.ust &&& ~~~(BitVec.ofNat 9 v)
  { f with er := { f.er with ust := u }, noPlace := if u &&& f.er.usev &&& ~~~f.er.umsk = 0 then 0 else f.noPlace }

/-- A request to the reset unit (R473). -/
def writeRst (v : Nat) (s : State) : State :=
  if bits v 28 4 = 1 then (if v % 2 ^ 16 = 0 then s else askReset (.slices (BitVec.ofNat 16 v)) s)
  else if bits v 28 4 = 2 then (if tagOk (bits v 16 5) then askReset (.vf (bits v 16 5)) s else s)
  else s

/-- A write of SQ_CTL with EN = 0 (R488): with EN = 1 it is the row SQ_ENABLE. -/
def writeSqCtl (fn q v : Nat) (s : State) : State :=
  if bit v 31 then s
  else updSq fn q (fun x => if x.en then { x with en := false } else { x with logn := bits v 0 4, vec := bits v 4 6 }) s

/-- Write a register of a function with its new value: RO, WO and reserved fields keep what they hold (R3). -/
def regWrite (fn : Nat) (r : BarReg) (v : Nat) (s : State) : State :=
  match r with
  | .cxDesc => updFn fn (fun f => { f with cxDesc := BitVec.ofNat 64 v }) s
  | .apBase => updFn fn (fun f => { f with apBase := BitVec.ofNat 64 (keepBits v 36 20) }) s
  | .tiVa => updFn fn (fun f => { f with tiVa := BitVec.ofNat 64 (keepBits v 12 44) }) s
  | .erUst => updFn fn (clearUst v) s
  | .erUmsk => updFn fn (fun f => { f with er := { f.er with umsk := BitVec.ofNat 9 v } }) s
  | .erUsev => updFn fn (fun f => { f with er := { f.er with usev := BitVec.ofNat 9 v } }) s
  | .erCst => updFn fn (fun f => { f with er := { f.er with cst := f.er.cst &&& ~~~(BitVec.ofNat 5 v) } }) s
  | .erCmsk => updFn fn (fun f => { f with er := { f.er with cmsk := BitVec.ofNat 5 v } }) s
  | .erCtl => updFn fn (fun f => { f with er := { f.er with autoreset := bit v 0 } }) s
  | .sqBase q => updSq fn q (fun x => if x.en then x else { x with base := BitVec.ofNat 64 (keepBits v 12 44) }) s
  | .sqCtl q => writeSqCtl fn q v s
  | .obs n o _ => obsWrite fn n o v s
  | .pmCaddr => { s with pm := { s.pm with caddr := BitVec.ofNat 64 (keepBits v 5 51) } }
  | .pmDoor => if bit v 0 then pmGo s else s
  | .rstReq => writeRst v s
  | .dmpPage => { s with dump := { s.dump with page := BitVec.ofNat 32 v } }
  | .ownLease => if 1000 ≤ v % 2 ^ 16 ∧ v % 2 ^ 16 ≤ 60000 then { s with own := { s.own with lease := v % 2 ^ 16 } } else s
  | .fwPage => { s with fw := { s.fw with page := BitVec.ofNat 32 v } }
  | .fwStage n => { s with fw := { s.fw with staged := pokeBytes s.fw.staged (8 * n) 8 v } }
  | .fabId => { s with fabId := BitVec.ofNat 6 v }
  | .fabPeerOf n =>
    { s with fabPeer := poke s.fabPeer n (BitVec.ofNat 32 (keepBits v 31 1 + keepBits v 24 6 + keepBits v 16 5 + v % 2 ^ 5)) }
  | .lcPage => { s with life := { s.life with page := BitVec.ofNat 32 v } }
  | .telThr => { s with tel := { s.tel with sticky := s.tel.sticky &&& ~~~(BitVec.ofNat 4 (bits v 8 4)) } }
  | .telCap => if 1200 ≤ v % 2 ^ 16 ∧ v % 2 ^ 16 ≤ 2300 then { s with tel := { s.tel with cap := v % 2 ^ 16 } } else s
  | _ => s

/-- FW_CTL (R497): its five commands have rows of their own; any other is a bad command. -/
def writeFwCtl (fn v : Nat) (s : State) : State :=
  let c := bits v 28 4
  if !byOwner s fn then fwResult 3 s else if 1 ≤ c ∧ c ≤ 5 then s else fwResult 4 s

/-- A half or the whole of a register as a new value of the whole. -/
def widen (old v part : Nat) : Nat :=
  match part with
  | 0 => v
  | 1 => old / 2 ^ 32 * 2 ^ 32 + v % 2 ^ 32
  | _ => old % 2 ^ 32 + v % 2 ^ 32 * 2 ^ 32

/-- REGISTER_WRITE (R3, R405): the PF's driver is function 1, a virtual function its tag, the master of port p function
18 + p, which writes the PF's registers. -/
def execRegisterWrite (fn off : Nat) (val : DWord) (wide : Bool) (s : State) : Host.Outcome State Fault Refusal :=
  let f := if 18 ≤ fn ∧ fn ≤ 21 then 1 else fn
  .next (
    if f = 0 ∨ 17 < f then s
    else match locate f off wide with
      | none => s
      | some (r, part) =>
        if !mayWrite s fn r then s
        else
          let v := widen (regRead s f r) (if r.wide then val.toNat else val.toNat % 2 ^ 32) part
          if r = .fwCtl then writeFwCtl fn v s else regWrite f r v s)

end Sys2Proof.Machine
end

