-- ==== Sys2Proof/Machine/BeamMath.lean ====
section
/-!
DEFINITION. The arithmetic of beam queries (spec/14 R369–R376, R380, R385–R387): records, rays, boxes, the triangle
test, cones.
-/
namespace Sys2Proof.Machine

/-- Three f32 patterns. -/
structure Vec3 where
  x : Nat
  y : Nat
  z : Nat
  deriving DecidableEq, Repr

/-- Component k. -/
def Vec3.get (v : Vec3) (k : Nat) : Nat :=
  match k with
  | 0 => v.x
  | 1 => v.y
  | _ => v.z

/-- Componentwise. -/
def Vec3.map2 (f : Nat → Nat → Nat) (a b : Vec3) : Vec3 := ⟨f a.x b.x, f a.y b.y, f a.z b.z⟩

/-- Three f32 words of a block. -/
def vec3At (bs : List Byte) (off : Nat) : Vec3 := ⟨field bs off 4, field bs (off + 4) 4, field bs (off + 8) 4⟩

/-- Is an f32 pattern finite? -/
def finite32 (x : Nat) : Bool :=
  match fmtF32.value x with
  | .fin _ _ _ => true
  | _ => false

/-- a ≤ b on f32 patterns, false with a NaN. -/
def le32 (a b : Nat) : Bool :=
  let x := fmtF32.value a
  let y := fmtF32.value b
  !x.isNan && !y.isNan && decide (cmpVal x y ≤ 0)

/-- Is a pattern a zero? -/
def zero32 (x : Nat) : Bool := x % 2 ^ 31 == 0

/-! ### The record (R369–R372) -/

/-- The control word's fields are in range (R370, R274)? -/
def ctlOk (ctl : Nat) : Bool :=
  bits ctl 15 17 == 0 && decide (bits ctl 12 3 ≤ 4) && decide (bits ctl 8 4 ≤ 5) && decide (bits ctl 4 4 ≤ 5)
    && bits ctl 2 2 != 3 && decide (bits ctl 0 2 < 2)
    && (bits ctl 0 2 == 0 || (bits ctl 4 8 == 0 && bits ctl 2 2 != 1))

/-- Control fields of a record. -/
def recCone (b : List Byte) : Bool := bits (field b 0 4) 0 2 == 1
def recQuery (b : List Byte) : Nat := bits (field b 0 4) 2 2
def recLw (b : List Byte) : Nat := bits (field b 0 4) 4 4
def recLh (b : List Byte) : Nat := bits (field b 0 4) 8 4
def recMaxd (b : List Byte) : Nat := bits (field b 0 4) 12 3
def recTmin (b : List Byte) : Nat := field b 4 4
def recTmax (b : List Byte) : Nat := field b 8 4
def recApex (b : List Byte) : Vec3 := vec3At b 0x10
def recTan (b : List Byte) : Nat := field b 0x1C 4
def recAxis (b : List Byte) : Vec3 := vec3At b 0x20
def recResult (b : List Byte) : Nat := field b 0x38 8 % 2 ^ 56
/-- Rays of a record, 1 for a cone (R373). -/
def recRays (b : List Byte) : Nat := if recCone b then 1 else 2 ^ (recLw b + recLh b)

/-- An f16 pattern as f32, exactly (R371). -/
def f16ToF32 (x : Nat) : Nat :=
  match fmtF16.value x with
  | .nan _ => fmtF32.canonNan
  | .inf s => fmtF32.inf s
  | .fin s m e => (fmtF32.roundZ .rn s m e).x

/-- A corner: three f16 at an offset, as f32. -/
def cornerAt (b : List Byte) (off : Nat) : Vec3 :=
  ⟨f16ToF32 (field b off 2), f16ToF32 (field b (off + 2) 2), f16ToF32 (field b (off + 4) 2)⟩

/-- A ray: origin and direction. -/
structure Ray where
  o : Vec3
  d : Vec3
  deriving DecidableEq, Repr

/-- The ray of a grid cell (R372). -/
def rayOf (b : List Byte) (i j : Nat) : Ray :=
  let u := realF32 (2 * i + 1 : Nat) (2 * 2 ^ recLw b)
  let v := realF32 (2 * j + 1 : Nat) (2 * 2 ^ recLh b)
  let mix (w a c : Nat) : Nat := add32 a (mul32 w (sub32 c a))
  let top := Vec3.map2 (mix u) (cornerAt b 0x20) (cornerAt b 0x26)
  let bot := Vec3.map2 (mix u) (cornerAt b 0x2C) (cornerAt b 0x32)
  ⟨recApex b, Vec3.map2 (mix v) top bot⟩

/-- Are the limits of t in order (R371)? -/
def rangeOk (b : List Byte) : Bool := le32 (recTmin b) (recTmax b)

/-- Are the components finite? -/
def Vec3.fin (v : Vec3) : Bool := finite32 v.x && finite32 v.y && finite32 v.z

/-- Is it the zero vector? -/
def Vec3.isZero (v : Vec3) : Bool := zero32 v.x && zero32 v.y && zero32 v.z

/-- May a ray hit anything (R371)? -/
def Ray.ok (b : List Byte) (r : Ray) : Bool := rangeOk b && r.o.fin && r.d.fin && !r.d.isZero

/-! ### Boxes (R375, R377) -/

/-- Order key of an f32 pattern that is not a NaN. -/
def key32 (x : Nat) : Int := if bit x 31 then -((x % 2 ^ 31 : Nat) : Int) else x

/-- The f32 pattern of an order key, kept between the infinities. -/
def ofKey32 (k : Int) : Nat :=
  if k < 0 then 2 ^ 31 + Nat.min k.natAbs 0x7F800000 else Nat.min k.natAbs 0x7F800000

/-- A finite f32 times 2^149. -/
def fix32 (x : Nat) : Int :=
  match fmtF32.value x with
  | .fin s m e => signedAt s m e (-149)
  | _ => 0

/-- LO + k × 2^(E − 127), rounded once (R375). -/
def boxBound (md : Rnd) (lo e : Nat) (k : Int) : Nat :=
  match fmtF32.value lo with
  | .fin s m x => (addFin fmtF32 md s m x (decide (k < 0)) k.natAbs ((e : Int) - 127)).x
  | _ => lo

/-- A box: low and high corner. -/
structure Box where
  lo : Vec3
  hi : Vec3
  deriving DecidableEq, Repr

/-- Each bound moved outward by one ulp (R377). -/
def Box.outward (b : Box) : Box :=
  let dn (x : Nat) : Nat := ofKey32 (key32 x - 1)
  let up (x : Nat) : Nat := ofKey32 (key32 x + 1)
  ⟨⟨dn b.lo.x, dn b.lo.y, dn b.lo.z⟩, ⟨up b.hi.x, up b.hi.y, up b.hi.z⟩⟩

/-- Each bound moved inward by one ulp (R377). -/
def Box.inward (b : Box) : Box :=
  let dn (x : Nat) : Nat := ofKey32 (key32 x - 1)
  let up (x : Nat) : Nat := ofKey32 (key32 x + 1)
  ⟨⟨up b.lo.x, up b.lo.y, up b.lo.z⟩, ⟨dn b.hi.x, dn b.hi.y, dn b.hi.z⟩⟩

/-- A fraction n / d, d positive. -/
abbrev Frac := Int × Nat

/-- a ≤ b on fractions. -/
def Frac.le (a b : Frac) : Bool := decide (a.1 * b.2 ≤ b.1 * a.2)

/-- Quotient of two integers, the second not 0. -/
def mkFrac (n d : Int) : Frac := if d < 0 then (-n, d.natAbs) else (n, d.natAbs)

/-- A bound on t as a fraction, when finite. -/
def fracOf (x : Nat) : List Frac := if finite32 x then [(fix32 x, 2 ^ 149)] else []

/-- Bounds on t that one axis gives, lower and upper; none when the ray runs outside the slab. -/
def slab (o d lo hi : Nat) : Option (List Frac × List Frac) :=
  let below (x : Nat) : List Frac := if finite32 x then [mkFrac (fix32 x - fix32 o) (fix32 d)] else []
  if zero32 d then
    if le32 lo o && le32 o hi then some ([], []) else none
  else if fix32 d < 0 then some (below hi, below lo)
  else some (below lo, below hi)

/-- Does some t between the limits put the ray inside the box, faces included (R377)? No t lies above a limit of +∞ or below
one of −∞. -/
def meetsBox (r : Ray) (tmin tmax : Nat) (b : Box) : Bool :=
  if tmin = 0x7F800000 ∨ tmax = 0xFF800000 then false
  else match slab r.o.x r.d.x b.lo.x b.hi.x, slab r.o.y r.d.y b.lo.y b.hi.y, slab r.o.z r.d.z b.lo.z b.hi.z with
  | some x, some y, some z =>
    let los := fracOf tmin ++ x.1 ++ y.1 ++ z.1
    let his := fracOf tmax ++ x.2 ++ y.2 ++ z.2
    los.all fun l => his.all fun h => Frac.le l h
  | _, _, _ => false

/-! ### Triangles (R376, R380) -/

/-- An entry of a leaf: its leaf and index, vertices, primitive, instance number, kind (0 opaque, 1 alpha, 2 box). -/
structure Entry where
  leaf : Nat
  idx : Nat
  a : Vec3
  b : Vec3
  c : Vec3
  prim : Nat
  inst : Nat
  kind : Nat
  deriving DecidableEq, Repr

/-- A hit: t, primitive, instance number, u and v. -/
structure Hit where
  t : Nat
  prim : Nat
  inst : Nat
  u : Nat
  v : Nat
  deriving DecidableEq, Repr

/-- Steps 6 to 8 of R380 in a format, from U, V, W and the sheared z values: t as f32, u and v as f16. -/
def hitFrom (F : Fmt) (u v w az bz cz : Nat) : Option (Nat × Nat × Nat) :=
  let sgn (x : Nat) : Option Int := match F.value x with
    | .fin s m _ => some (if m = 0 then 0 else if s then -1 else 1)
    | .inf s => some (if s then -1 else 1)
    | .nan _ => none
  let det := rAdd F (rAdd F u v) w
  match sgn u, sgn v, sgn w, sgn det with
  | some a, some b, some c, some d =>
    if ((0 ≤ a ∧ 0 ≤ b ∧ 0 ≤ c) ∨ (a ≤ 0 ∧ b ≤ 0 ∧ c ≤ 0)) ∧ d ≠ 0 then
      let t := fDiv F F (rAdd F (rAdd F (rMul F u az) (rMul F v bz)) (rMul F w cz)) det
      let t32 := match F.value t with
        | .nan _ => fmtF32.canonNan
        | .inf s => fmtF32.inf s
        | .fin s m e => (fmtF32.roundZ .rn s m e).x
      some (t32, fDiv F fmtF16 v det, fDiv F fmtF16 w det)
    else none
  | _, _, _, _ => none

/-- The triangle test (R380) without its last comparison. -/
def triTest (r : Ray) (p0 p1 p2 : Vec3) : Option (Nat × Nat × Nat) :=
  let mag (k : Nat) : Nat := r.d.get k % 2 ^ 31
  let kz := if mag 0 < mag 1 then (if mag 1 < mag 2 then 2 else 1) else (if mag 0 < mag 2 then 2 else 0)
  let k1 := (kz + 1) % 3
  let k2 := (k1 + 1) % 3
  let neg := bit (r.d.get kz) 31
  let kx := if neg then k2 else k1
  let ky := if neg then k1 else k2
  let dz := r.d.get kz
  let sx := fDiv fmtF32 fmtF32 (r.d.get kx) dz
  let sy := fDiv fmtF32 fmtF32 (r.d.get ky) dz
  let sz := fDiv fmtF32 fmtF32 0x3F800000 dz
  let shear (p : Vec3) : Vec3 :=
    let a := Vec3.map2 sub32 p r.o
    ⟨sub32 (a.get kx) (mul32 sx (a.get kz)), sub32 (a.get ky) (mul32 sy (a.get kz)), mul32 sz (a.get kz)⟩
  let a := shear p0
  let b := shear p1
  let c := shear p2
  let det2 (F : Fmt) (cv : Nat → Nat) (p q : Vec3) : Nat :=
    rSub F (rMul F (cv p.x) (cv q.y)) (rMul F (cv p.y) (cv q.x))
  let u := det2 fmtF32 id c b
  let v := det2 fmtF32 id a c
  let w := det2 fmtF32 id b a
  if zero32 u || zero32 v || zero32 w then
    let f := det2 fmtF64 f32ToF64
    hitFrom fmtF64 (f c b) (f a c) (f b a) (f32ToF64 a.z) (f32ToF64 b.z) (f32ToF64 c.z)
  else hitFrom fmtF32 u v w a.z b.z c.z

/-- The accepted hit of a ray on a triangle between two limits of t (R380). -/
def hitOn (r : Ray) (tmin tmax : Nat) (x : Entry) : Option Hit :=
  match triTest r x.a x.b x.c with
  | some (t, u, v) => if le32 tmin t && le32 t tmax then some ⟨t, x.prim, x.inst, u, v⟩ else none
  | none => none

/-- Is the first hit better: nearer, or equal with the lower primitive, then the lower instance number (R381)? -/
def Hit.better (a b : Hit) : Bool :=
  let c := cmpVal (fmtF32.value a.t) (fmtF32.value b.t)
  decide (c < 0) || (c == 0 && (decide (a.prim < b.prim) || (a.prim == b.prim && decide (a.inst < b.inst))))

/-- The best of some hits. -/
def bestHit : List Hit → Option Hit
  | [] => none
  | h :: hs => match bestHit hs with
    | none => some h
    | some g => if g.better h then some g else some h

/-! ### Result records (R385) -/

/-- The 16 bytes of a record. -/
def resBytes (t prim inst uv : Nat) : List Byte := natBytes t 4 ++ natBytes prim 4 ++ natBytes inst 4 ++ natBytes uv 4
def resHit (h : Hit) : List Byte := resBytes h.t h.prim h.inst (h.u + 2 ^ 16 * h.v)
def resMiss : List Byte := resBytes 0x7F800000 0xFFFFFFFF 0xFFFFFFFF 0
def resOccluded : List Byte := resBytes 0 0 0 0
def resUnresolved : List Byte := resBytes 0x7FC00000 0xFFFFFFFE 0xFFFFFFFE 0
def resFaulted : List Byte := resBytes 0x7FC00000 0xFFFFFFFD 0xFFFFFFFD 0

/-! ### Cones (R386, R387) -/

/-- Dot product of integer vectors. -/
def dotI (a b : Int × Int × Int) : Int := a.1 * b.1 + a.2.1 * b.2.1 + a.2.2 * b.2.2

/-- A vector times 2^149. -/
def fix3 (v : Vec3) : Int × Int × Int := (fix32 v.x, fix32 v.y, fix32 v.z)

/-- May a cone hit anything (R371)? -/
def coneOk (b : List Byte) : Bool :=
  rangeOk b && finite32 (recTan b) && (!bit (recTan b) 31 || zero32 (recTan b)) && (recApex b).fin && (recAxis b).fin
    && !(recAxis b).isZero

/-- A fraction rounded down to f32. -/
def fracDown (x : Frac) : Nat :=
  let k := Nat.log2 x.2 + 40
  if x.1 = 0 then 0
  else (fmtF32.round .rm (decide (x.1 < 0)) (x.1.natAbs * 2 ^ k / x.2) (-(k : Int)) (x.1.natAbs * 2 ^ k % x.2 != 0)).x

/-- A cone with exact bounds (R386): apex and axis times 2^149, the tangent, and the limits of t, the upper one absent where it
is infinite. -/
structure Cone where
  o : Int × Int × Int
  a : Int × Int × Int
  tan : Frac
  tmin : Frac
  tmax : Option Frac

/-- The cone of a record about an axis; `wide` takes the widest that the engine may answer for (R386). -/
def coneOf (b : List Byte) (axis : Vec3) (tan : Nat) (wide : Bool) : Cone :=
  let up (x : Frac) : Frac := if wide then (x.1 * (2 ^ 20 + 1), x.2 * 2 ^ 20) else x
  let dn (x : Frac) : Frac := if wide then (x.1 * (2 ^ 20 - 1), x.2 * 2 ^ 20) else x
  let lo : Int := if finite32 (recTmin b) then max 0 (fix32 (recTmin b)) else 0
  { o := fix3 (recApex b), a := fix3 axis, tan := up (fix32 tan, 2 ^ 149), tmin := dn (lo, 2 ^ 149),
    tmax := ((fracOf (recTmax b)).head?).map up }

/-- A point relative to the apex, as a vector and its positive scale. -/
abbrev HPt := (Int × Int × Int) × Nat

/-- n times a vector. -/
def scaleI (n : Int) (a : Int × Int × Int) : Int × Int × Int := (n * a.1, n * a.2.1, n * a.2.2)

/-- The difference of two vectors. -/
def subI (a b : Int × Int × Int) : Int × Int × Int := (a.1 - b.1, a.2.1 - b.2.1, a.2.2 - b.2.2)

/-- The cross product. -/
def crossI (a b : Int × Int × Int) : Int × Int × Int :=
  (a.2.1 * b.2.2 - a.2.2 * b.2.1, a.2.2 * b.1 - a.1 * b.2.2, a.1 * b.2.1 - a.2.1 * b.1)

/-- A point of f32 coordinates. -/
def Cone.pt (c : Cone) (p : Vec3) : HPt := (subI (fix3 p) c.o, 1)

/-- The sign of t − x at a point. -/
def Cone.side (c : Cone) (x : Frac) (p : HPt) : Int := dotI p.1 c.a * x.2 - x.1 * p.2 * dotI c.a c.a

/-- The point on the segment of two where a linear form is 0, from its values of opposite sign. -/
def zeroPt (p q : HPt) (fp fq : Int) : HPt :=
  let m := fq.natAbs
  let n := fp.natAbs
  let v (x y : Int) : Int := x * m + y * n
  ((v p.1.1 q.1.1, v p.1.2.1 q.1.2.1, v p.1.2.2 q.1.2.2), p.2 * m + q.2 * n)

/-- Cut a polygon to where a linear form is not negative. -/
def cutPoly (f : HPt → Int) (ps : List HPt) : List HPt :=
  (ps.zip (ps.drop 1 ++ ps.take 1)).flatMap fun e =>
    let x := f e.1
    let y := f e.2
    (if 0 ≤ x then [e.1] else []) ++ (if (x < 0 ∧ 0 < y) ∨ (0 < x ∧ y < 0) then [zeroPt e.1 e.2 x y] else [])

/-- The form that is at most 0 inside the double cone (R386): |d|² a² − (1 + TAN²)(d·a)². -/
def Cone.form (c : Cone) (x y : Int × Int × Int) : Int :=
  let n := c.tan.1
  let m : Int := c.tan.2
  m * m * (dotI x y * dotI c.a c.a - dotI x c.a * dotI y c.a) - n * n * (dotI x c.a * dotI y c.a)

/-- Does the segment of two points, both at t ≥ 0, meet the cone? -/
def Cone.onEdge (c : Cone) (p q : HPt) : Bool :=
  let x := scaleI q.2 p.1
  let e := subI (scaleI p.2 q.1) x
  let u := c.form x x
  let v := c.form x e
  let w := c.form e e
  decide (u ≤ 0) || decide (u + 2 * v + w ≤ 0) || (decide (0 < w) && decide (v < 0) && decide (-v < w) && decide (u * w ≤ v * v))

/-- Does the axis pierce a triangle between two limits of t? -/
def Cone.pierces (c : Cone) (lo : Frac) (hi : Option Frac) (p0 p1 p2 : Int × Int × Int) : Bool :=
  let n := crossI (subI p1 p0) (subI p2 p0)
  let na := dotI n c.a
  let t := mkFrac (dotI n p0) na
  let x := scaleI t.1 c.a
  let inside (u v : Int × Int × Int) : Bool := decide (0 ≤ dotI n (crossI (subI v u) (subI x (scaleI t.2 u))))
  na != 0 && Frac.le lo t && (hi.all fun h => Frac.le t h) && inside p0 p1 && inside p1 p2 && inside p2 p0

/-- Does a triangle have a point inside the cone between two limits of t, the lower one not negative (R386)? The part of the
triangle between the limits is a polygon: an edge of it meets the cone, or the cone's section lies in its interior and
the axis pierces it. -/
def Cone.hits (c : Cone) (lo : Frac) (hi : Option Frac) (p0 p1 p2 : Vec3) : Bool :=
  let a := c.pt p0
  let b := c.pt p1
  let d := c.pt p2
  let ps := cutPoly (c.side lo) [a, b, d]
  let ps := match hi with
    | some h => cutPoly (fun p => -(c.side h p)) ps
    | none => ps
  ((ps.zip (ps.drop 1 ++ ps.take 1)).any fun e => c.onEdge e.1 e.2) || c.pierces lo hi a.1 b.1 d.1

/-- Does the cone meet a box, faces included (R377, R386)? A box with an infinite bound counts as met. -/
def Cone.meets (c : Cone) (x : Box) : Bool :=
  if !(x.lo.fin && x.hi.fin) then true
  else
    let v (k : Nat) : Vec3 :=
      ⟨if bit k 0 then x.hi.x else x.lo.x, if bit k 1 then x.hi.y else x.lo.y, if bit k 2 then x.hi.z else x.lo.z⟩
    let faces : List (Nat × Nat × Nat × Nat) :=
      [(0, 1, 3, 2), (4, 5, 7, 6), (0, 1, 5, 4), (2, 3, 7, 6), (0, 2, 6, 4), (1, 3, 7, 5)]
    let start : Int × Int × Int := scaleI c.tmin.1 c.a
    let side (lo hi o p : Int) : Bool :=
      decide (lo * c.tmin.2 ≤ o * c.tmin.2 + p) && decide (o * c.tmin.2 + p ≤ hi * c.tmin.2)
    (faces.any fun f => c.hits c.tmin c.tmax (v f.1) (v f.2.1) (v f.2.2.1) || c.hits c.tmin c.tmax (v f.1) (v f.2.2.1) (v f.2.2.2))
      || ((c.tmax.all fun h => Frac.le c.tmin h) && side (fix32 x.lo.x) (fix32 x.hi.x) c.o.1 start.1
        && side (fix32 x.lo.y) (fix32 x.hi.y) c.o.2.1 start.2.1 && side (fix32 x.lo.z) (fix32 x.hi.z) c.o.2.2 start.2.2)

/-- The least key from lo on, of at most 2^n, that a rising test takes; lo + 2^n − 1 when it takes none below. -/
def leastKey (p : Nat → Bool) : Nat → Nat → Nat
  | 0, lo => lo
  | n + 1, lo => if p (lo + 2 ^ n - 1) then leastKey p n lo else leastKey p n (lo + 2 ^ n)

/-- The least t of a triangle inside the cone, rounded down to f32 (R386); none when it has no point there. -/
def Cone.least (c : Cone) (p0 p1 p2 : Vec3) : Option Nat :=
  let upTo (h : Frac) : Bool := c.hits c.tmin (match c.tmax with | some m => some (if Frac.le h m then h else m) | none => some h) p0 p1 p2
  if !c.hits c.tmin c.tmax p0 p1 p2 then none
  else if upTo c.tmin then some (fracDown c.tmin)
  else
    let k := leastKey (fun k => decide (0x7F800000 ≤ k) || upTo (fix32 k, 2 ^ 149)) 31 0
    let below : Bool := decide (0x7F800000 ≤ k) || upTo (fix32 k * 2 ^ 51 - 1, 2 ^ 200)
    some (if below then k - 1 else k)

/-- The greatest t of a triangle inside the cone, rounded down to f32. -/
def Cone.greatest (c : Cone) (p0 p1 p2 : Vec3) : Nat :=
  let from_ (k : Nat) : Bool :=
    let x : Frac := (fix32 k, 2 ^ 149)
    c.hits (if Frac.le x c.tmin then c.tmin else x) c.tmax p0 p1 p2
  leastKey (fun k => decide (0x7F800000 ≤ k) || !from_ k) 31 0 - 1

/-- A triangle that a cone may report: the keys of f32 between which the engine's t lies, and whether it certainly has a point
inside (R386). -/
structure ConeHit where
  x : Entry
  lo : Nat
  hi : Nat
  sure : Bool

/-- What the engine may find on a triangle: the answer of some cone from the narrow to the wide one (R386). A triangle with a
vertex that is not finite may be found anywhere or nowhere. -/
def coneHit (narrow wide : Cone) (x : Entry) : Option ConeHit :=
  if !(x.a.fin && x.b.fin && x.c.fin) then some ⟨x, fracDown wide.tmin, 0x7F7FFFFF, false⟩
  else match wide.least x.a x.b x.c with
    | none => none
    | some lo =>
      match narrow.least x.a x.b x.c with
      | some hi => some ⟨x, lo, hi, true⟩
      | none => some ⟨x, lo, Nat.max lo (wide.greatest x.a x.b x.c), false⟩

/-- The unit vector of the smallest |a|, lowest index on a tie (R387). -/
def smallAxis (a : Vec3) : Vec3 :=
  let m (k : Nat) : Nat := a.get k % 2 ^ 31
  let one := 0x3F800000
  if m 0 ≤ m 1 && m 0 ≤ m 2 then ⟨one, 0, 0⟩ else if m 1 ≤ m 2 then ⟨0, one, 0⟩ else ⟨0, 0, one⟩

/-- Cross product with every step rounded (R387). -/
def cross32 (a b : Vec3) : Vec3 :=
  let f (p q r s : Nat) : Nat := sub32 (mul32 p q) (mul32 r s)
  ⟨f a.y b.z a.z b.y, f a.z b.x a.x b.z, f a.x b.y a.y b.x⟩

/-- Length with every step rounded. -/
def norm32 (a : Vec3) : Nat :=
  match fmtF32.value (add32 (add32 (mul32 a.x a.x) (mul32 a.y a.y)) (mul32 a.z a.z)) with
  | .fin _ m e => if m = 0 then 0 else (sqrtRound fmtF32 .rn m e).x
  | .inf _ => fmtF32.inf false
  | .nan _ => fmtF32.canonNan

/-- The axes of the four children and their tangent (R387). -/
def coneChildren (a : Vec3) (tan : Nat) : List Vec3 × Nat :=
  let p := cross32 a (smallAxis a)
  let q := cross32 a p
  let n := norm32 a
  let m := norm32 p
  let k := fDiv fmtF32 fmtF32 n m
  let e1 : Vec3 := ⟨mul32 p.x k, mul32 p.y k, mul32 p.z k⟩
  let e2 : Vec3 := ⟨fDiv fmtF32 fmtF32 q.x m, fDiv fmtF32 fmtF32 q.y m, fDiv fmtF32 fmtF32 q.z m⟩
  let h := fDiv fmtF32 fmtF32 tan 0x40000000
  let sg (neg : Bool) (x : Nat) : Nat := if neg then fmtF32.neg x else x
  let child (s1 s2 : Bool) : Vec3 :=
    let one (k : Nat) : Nat := add32 (a.get k) (mul32 h (add32 (sg s1 (e1.get k)) (sg s2 (e2.get k))))
    ⟨one 0, one 1, one 2⟩
  let t := match fmtF32.value tan with
    | .fin s mm e => (fmtF32.roundZ .rp s (3 * mm) (e - 2)).x
    | _ => tan
  ([child true true, child false true, child true false, child false false], t)

end Sys2Proof.Machine
end

