-- ==== Sys2Proof/Machine/Coverage.lean ====
section
/-!
DEFINITION. Coverage: `covr` and its engine (spec/09 R271–R273, spec/13 R364–R367).
-/
namespace Sys2Proof.Machine

/-! ### Triangles (R364, R365) -/

/-- A coordinate times 2^149; none when it is not finite. -/
def coordFix (x : Nat) : Option Int :=
  match fmtF32.value x with
  | .fin s m e => some (signedAt s m e (-149))
  | _ => none

/-- A vertex: x and y times 2^149. -/
structure Vert where
  x : Int
  y : Int
  deriving DecidableEq, Repr

/-- The edge function of two vertices at a point (R364). -/
def edgeFn (a b : Vert) (p : Vert) : Int := (b.x - a.x) * (p.y - a.y) - (b.y - a.y) * (p.x - a.x)

/-- Does an edge cover a point: inside, or on a top or left edge (R364)? -/
def edgeIn (a b : Vert) (p : Vert) : Bool :=
  let e := edgeFn a b p
  decide (0 < e) || (e == 0 && ((a.y == b.y && decide (a.x < b.x)) || decide (b.y < a.y)))

/-- A triangle of the batch as read (R272): vertices, whether the flags are reserved, a vertex is not finite, ID and
data offset. -/
structure Tri where
  v : Option (Vert × Vert × Vert)
  badFlags : Bool
  badVert : Bool
  id : Nat
  off : Nat
  deriving DecidableEq, Repr

/-- Triangle of a 48-byte entry, with culling and winding (R272, R364); no vertices when it emits nothing. -/
def readTri (t : Team) (at_ : Nat) : Tri :=
  let w (i : Nat) : Nat := padRead t (at_ + 4 * i) 4
  let fl := padRead t (at_ + 0x2C) 4
  let vs := (List.range 9).map fun i => coordFix (w i)
  let bad := fl % 4 == 3 || decide (4 ≤ fl)
  let nonFin := vs.any (·.isNone)
  let c (i : Nat) : Int := (vs.getD i none).getD 0
  let v0 : Vert := ⟨c 0, c 1⟩
  let v1 : Vert := ⟨c 3, c 4⟩
  let v2 : Vert := ⟨c 6, c 7⟩
  let a := (v1.x - v0.x) * (v2.y - v0.y) - (v2.x - v0.x) * (v1.y - v0.y)
  let out := bad || nonFin || a == 0 || (fl % 4 == 1 && decide (a < 0)) || (fl % 4 == 2 && decide (0 < a))
  { v := if out then none else if a < 0 then some (v0, v2, v1) else some (v0, v1, v2),
    badFlags := bad, badVert := nonFin, id := padRead t (at_ + 0x24) 4, off := padRead t (at_ + 0x28) 4 }

/-- The coverage mask of a tile (R365). -/
def tileMask (v : Vert × Vert × Vert) (tx ty vpw vph : Nat) : Nat :=
  (maskOf fun k =>
    let px := 8 * tx + k % 8
    let py := 8 * ty + k / 8
    let p : Vert := ⟨(2 * px + 1) * 2 ^ 148, (2 * py + 1) * 2 ^ 148⟩
    decide (px < vpw) && decide (py < vph) && edgeIn v.1 v.2.1 p && edgeIn v.2.1 v.2.2 p && edgeIn v.2.2 v.1 p).toNat

/-! ### The instruction -/

/-- The fields of the descriptor that are in range (R271)? -/
def covrDescOk (t : Team) (d : Nat) : Bool :=
  let f (o n : Nat) : Nat := padRead t (d + o) n
  decide (f 4 2 ≤ f 8 2) && decide (f 6 2 ≤ f 0xA 2) && f 0x10 8 % 16 == 0
    && decide (1 ≤ f 0x18 2) && decide (f 0x18 2 ≤ 16384) && decide (1 ≤ f 0x1A 2) && decide (f 0x1A 2 ≤ 16384)
    && decide (f 8 2 < (f 0x18 2 + 7) / 8) && decide (f 0xA 2 < (f 0x1A 2 + 7) / 8) && f 0x1C 4 == 0

/-- Is a handle a node of the tag (R265)? -/
def isNode (s : State) (tag n : Nat) : Bool :=
  match (getFn s tag).ctx with
  | some c => decide (n < c.nodes.length)
  | none => false

/-- `covr` (R271–R273). -/
def execCovr (h : Hdr) (a b c : Opnd) (obj : BitVec 8) (s : State) : Host.Outcome State Fault Refusal :=
  issue (.covr h a b c obj) s fun e s =>
    if s.g.active h.toGuard = 0 then .ok (seqNext e s)
    else
      let t := s.t
      let d := (src32 s.g a 0).toNat
      let bt := (src32 s.g b 0).toNat
      let n := (src32 s.g c 0).toNat
      let o := obj.toNat
      let f (k m : Nat) : Nat := padRead t (d + k) m
      let lock : List Rng := [⟨false, false, t.uid, bt, bt + 48 * n - 1⟩]
      if d % 32 ≠ 0 ∨ bt % 16 ≠ 0 then .fault { cause := cMISALIGN }
      else if t.desc.pad < d + 32 ∨ (n ≠ 0 ∧ t.desc.pad < bt + 48 * n) then .fault { cause := cPADB }
      else if d < 16 * t.desc.barriers ∨ (n ≠ 0 ∧ bt < 16 * t.desc.barriers) ∨
          (o ≠ 255 ∧ (t.desc.barriers ≤ o ∨ !(getObj t (16 * o)).valid)) then misuse
      else if !covrDescOk t d then .fault { cause := cILLOPERAND, opf := 2 }
      else if 256 < n then .fault { cause := cILLOPERAND, opf := 8 }
      else if !isNode s t.tag (f 0 4) then .fault { cause := cTASK }
      else if n ≠ 0 ∧ lockCauses s lock ≠ [] then .fault { cause := cLOCK }
      else if padMark t d 32 then .fault { cause := cECC }
      else if n = 0 then .ok (seqNext e s)
      else
        let sig := sigOut s
        let k : OpKind := .covr (f 0 4) (f 4 2) (f 6 2) (f 8 2) (f 0xA 2) (f 0xC 4) (f 0x10 8) (f 0x18 2) (f 0x1A 2) bt n
        let s := launchOp k lock (if o = 255 then none else some (16 * o)) none (releaseOut s)
        .ok (seqNext e { s with ops := s.ops.map fun x => if x.uid + 1 = s.nextUid then { x with sig := sig } else x })

/-! ### The engine -/

/-- Event 0x0B, coverage (R273, R364). -/
def covrAdvise (o : EngOp) (s : State) : State := emit o.tag ⟨0x0B, 0, o.core / 12, o.gid, 0, 3, none, some 3⟩ s

/-- Is the operation a coverage batch? -/
def isCovr (o : EngOp) : Bool :=
  match o.kind with
  | .covr .. => true
  | _ => false

/-- What the engine does next for a batch: triangle and tile to emit, with the mask, after the triangles that emit
nothing more; `dropped` of the operation holds which reports were made, `landed` the next tile of the triangle. -/
structure CovrNext where
  tri : Nat
  tile : Nat
  mask : Nat
  t : Tri
  deriving DecidableEq, Repr

/-- The next tile at or after a tile number of a triangle (R365, R367: row by row). -/
def nextTile (t : Tri) (tx0 ty0 tx1 ty1 vpw vph lo : Nat) : Option (Nat × Nat) :=
  match t.v with
  | none => none
  | some v =>
    let w := tx1 + 1 - tx0
    (List.range (w * (ty1 + 1 - ty0) - lo)).findSome? fun i =>
      let k := lo + i
      let m := tileMask v (tx0 + k % w) (ty0 + k / w) vpw vph
      if m = 0 then none else some (k, m)

/-- Advance a batch to its next tile, counting down the triangles left; the reports still to make come with it. -/
def covrSeek (t : Team) (tx0 ty0 tx1 ty1 vpw vph batch : Nat) : Nat → Nat → Nat → Bool → Bool →
    Option CovrNext × Nat × Bool × Bool
  | 0, i, _, bf, bv => (none, i, bf, bv)
  | n + 1, i, lo, bf, bv =>
    let tr := readTri t (batch + 48 * i)
    let bf := bf || tr.badFlags
    let bv := bv || tr.badVert
    match nextTile tr tx0 ty0 tx1 ty1 vpw vph lo with
    | some (k, m) => (some ⟨i, k, m, tr⟩, i, bf, bv)
    | none => covrSeek t tx0 ty0 tx1 ty1 vpw vph batch n (i + 1) 0 bf bv

/-- May a batch move: it is the first unread one of its cluster's engine (R367), has not stopped, and its scratchpad is
not held (R337)? -/
def covrTurn (s : State) (o : EngOp) : Bool :=
  let first := s.ops.find? fun x => isCovr x && clusterOf x.core == clusterOf o.core && x.cause == 0 &&
    (match x.kind with | .covr _ _ _ _ _ _ _ _ _ _ n => decide (x.progress < n) | _ => false)
  (first.map (·.uid)) == some o.uid && !padHeld s o.team

/-- Move a batch to its next tile with the reports that the triangles passed ask for: the tile, and the state. -/
def covrAdvance (op : Nat) (s : State) : Option CovrNext × State :=
  match findOp s op with
  | none => (none, s)
  | some o =>
    match o.kind, findTeam s o.team with
    | .covr _ tx0 ty0 tx1 ty1 _ _ vpw vph batch n, some t =>
      if !covrTurn s o then (none, s)
      else if padMark t (batch + 48 * o.progress) (48 * (n - o.progress)) then (none, stopOp o cECC batch s)
      else
        let r := covrSeek t tx0 ty0 tx1 ty1 vpw vph batch (n - o.progress) o.progress o.landed
          (bit o.dropped 0) (bit o.dropped 1)
        let s := if r.2.2.1 && !bit o.dropped 0 then covrAdvise o s else s
        let s := if r.2.2.2 && !bit o.dropped 1 then covrAdvise o s else s
        let fl := (if r.2.2.1 then 1 else 0) + (if r.2.2.2 then 2 else 0)
        (r.1, updOp op (fun x => { x with progress := r.2.1, dropped := fl,
                                          landed := match r.1 with | some k => k.tile | none => 0 }) s)
    | _, _ => (none, s)

/-- The 64 bytes of a coverage record before the device's own fields (R366). -/
def covrRecord (entry argp tx ty mask id seq q : Nat) : List Byte :=
  natBytes entry 8 ++ natBytes argp 8 ++ natBytes tx 2 ++ natBytes ty 2 ++ natBytes mask 8 ++ natBytes 0 4
    ++ natBytes 0 8 ++ natBytes id 4 ++ natBytes seq 4 ++ natBytes q 8 ++ natBytes 0 8

/-- COVR_TILE_EMIT (R365, R366): the next tile's record goes to the node once a pool slot is free. -/
def execCovrTileEmit (op : Nat) (s : State) : Host.Outcome State Fault Refusal :=
  .next (match covrAdvance op s with
    | (none, s) => s
    | (some k, s) =>
      match findOp s op with
      | none => s
      | some o =>
        match o.kind, ((getFn s o.tag).ctx) with
        | .covr node tx0 ty0 tx1 _ pseq setup _ _ _ _, some c =>
          match c.nodes[node]?, findTeam s o.team with
          | some nd, some t =>
            match takeSlot o.tag nd.pool .submitted s with
            | none => s
            | some (va, s) =>
              let w := tx1 + 1 - tx0
              let raw := covrRecord nd.entry (setup + k.t.off) (tx0 + k.tile % w) (ty0 + k.tile / w) k.mask k.t.id
                ((pseq + k.tri) % 2 ^ 32) node
              let s := (vWriteAll o.tag va raw s).getD s
              let s := updOp op (fun x => { x with landed := k.tile + 1 }) s
              submitRec o.tag va raw 1 true node .dev ⟨false, .dev, o.core / 12, o.core % 12⟩ o.gid
                (peek s.gens (64 * t.core + t.seat)) (ancestors s t) o.sig none s
          | _, _ => s
        | _, _ => s)

/-- COVR_COMPLETION (R273): the batch has been read, or has stopped on a poisoned entry. -/
def execCovrCompletion (op : Nat) (s : State) : Host.Outcome State Fault Refusal :=
  .next (
    let s := (covrAdvance op s).2
    match findOp s op with
    | none => s
    | some o =>
      match o.kind with
      | .covr _ _ _ _ _ _ _ _ _ _ n =>
        if (o.cause = 0 ∧ o.progress < n) ∨ padHeld s o.team then s
        else
          let s := match o.bar with
            | some b => credit o.tag o.team b (48 * n) o.gid (o.core / 12) o.sig s
            | none => s
          finishOp { o with sig := 0 } (engineFault o 0xB5 s)
      | _ => s)

end Sys2Proof.Machine
end

