-- ==== Sys2Proof/Machine/Beam.lean ====
section
/-!
DEFINITION. Beam queries: `bqry`, `bres` and the traversal engine (spec/09 R274–R277, spec/14 R373–R387). A ray's result
is computed from the root over the blocks as the query has read them; where a beam may split, continue per ray, be
handed over or finish follows from the boxes on the way (R377, R378), and changes no result (R381).
-/
namespace Sys2Proof.Machine

/-! ### Reading the hierarchy -/

/-- What a traversal finds: a block it reads, an entry of a leaf, or a fault with its address. -/
inductive Found where
  | block (va : Nat) (leaf : Bool) (bs : List Byte)
  | entry (x : Entry)
  | fault (cause va : Nat)
  deriving DecidableEq, Repr

/-- The fault among what a traversal finds, if it is one. -/
def Found.fault? : Found → Option (Nat × Nat)
  | .fault c va => some (c, va)
  | _ => none

/-- The tag that a query belongs to. -/
def Query.tagIn (s : State) (q : Query) : Nat :=
  match findTeam s q.team with
  | some t => t.tag
  | none => 0

/-- n bytes of the hierarchy, or the fault met (R275). -/
def readMem (s : State) (tag va n : Nat) : Except Found (List Byte) :=
  match vBytes s tag va needR n with
  | .error (c, a) => .error (.fault c a)
  | .ok bs => if vPoison s tag va n then .error (.fault cECC va) else .ok bs

/-- A node, or the bytes of a leaf up to its last triangle (R374, R376): as read before, or as they are now (R315). -/
def readBlock (s : State) (q : Query) (va : Nat) (leaf : Bool) : Except Found (List Byte) :=
  match q.seen.find? fun b => b.1 == va && b.2.1 == leaf with
  | some b => .ok b.2.2
  | none =>
    if !leaf then readMem s (q.tagIn s) va 128
    else match readMem s (q.tagIn s) va 16 with
      | .error f => .error f
      | .ok hd =>
        let n := field hd 0 1
        if n = 0 ∨ 4 < n then .ok hd else readMem s (q.tagIn s) va (16 + 48 * n)

/-- The blocks that a traversal has read are kept. -/
def Query.learn (fs : List Found) (q : Query) : Query :=
  { q with seen := fs.foldl (fun l f => match f with
      | .block va leaf bs => if l.any (fun b => b.1 == va && b.2.1 == leaf) then l else (va, leaf, bs) :: l
      | _ => l) q.seen }

/-- The present children of a node with their boxes: address, leaf mark, box; none when the node is malformed (R374,
R375). -/
def nodeKids (bs : List Byte) : Option (List (Nat × Nat × Bool × Box)) :=
  let lo := vec3At bs 0
  let ex (k : Nat) : Nat := field bs (0xC + k) 1
  let valid := field bs 0xF 1
  let kids := (List.range 8).filter (bit valid ·)
  let ptr (c : Nat) : Nat := field bs (0x40 + 8 * c) 8
  if !lo.fin || ((List.range 3).any fun k => ex k == 0 || ex k == 255) || (kids.any fun c => bits (ptr c) 56 8 != 0 || bits (ptr c) 1 6 != 0) then
    none
  else
    some (kids.filterMap fun c =>
      let q (k : Nat) : Nat := field bs (0x10 + 6 * c + k) 1
      if (List.range 3).any fun k => decide (q (k + 3) < q k) then none
      else
        let l (k : Nat) : Nat := boxBound .rm (lo.get k) (ex k) ((q k : Int) - 1)
        let h (k : Nat) : Nat := boxBound .rp (lo.get k) (ex k) ((q (k + 3) : Int) + 2)
        some (c, bits (ptr c) 7 49 * 128, bit (ptr c) 0, ⟨⟨l 0, l 1, l 2⟩, ⟨h 0, h 1, h 2⟩⟩))

/-- The entries of a leaf; none when it is malformed (R376). -/
def leafEntries (leaf : Nat) (bs : List Byte) : Option (List Entry) :=
  let n := field bs 0 1
  let es := (List.range n).map fun i =>
    let k := 0x10 + 48 * i
    (field bs (k + 0x2C) 4, field bs (k + 0x18) 12,
      Entry.mk leaf i (vec3At bs k) (vec3At bs (k + 12)) (vec3At bs (k + 24)) (field bs (k + 0x24) 4)
        (field bs (k + 0x28) 4) (field bs (k + 0x2C) 4))
  if n = 0 ∨ 4 < n ∨ field bs 1 15 ≠ 0 ∨ (es.any fun e => decide (3 ≤ e.1) || (e.1 == 2 && e.2.1 != 0)) then none
  else some (es.map (·.2.2))

/-- Everything below a child that passes a box test; fuel counts the levels left (R375: a 33rd level is a fault). -/
def walkFrom (s : State) (q : Query) (pass : Box → Bool) : Nat → Nat → Bool → List Found
  | 0, va, _ => [.fault cBEAM va]
  | n + 1, va, leaf =>
    match readBlock s q va leaf with
    | .error f => [f]
    | .ok bs =>
      .block va leaf bs :: (if leaf then
        match leafEntries va bs with
        | none => [.fault cBEAM va]
        | some es => es.map .entry
      else match nodeKids bs with
        | none => [.fault cBEAM va]
        | some ks => ks.flatMap fun k => if pass k.2.2.2 then walkFrom s q pass n k.2.1 k.2.2.1 else [])

/-- Traverse a query's hierarchy from its root. -/
def walkQuery (s : State) (q : Query) (pass : Box → Bool) : List Found := walkFrom s q pass 33 q.root false

/-- The way from the root to a child: the node that holds it, its address, whether it is a leaf, its box, the boxes of the
nodes above it, and the blocks read. -/
structure Way where
  node : Nat
  va : Nat
  leaf : Bool
  box : Box
  above : List Box
  found : List Found

/-- The way to a child named by a path: 1 is the root, 8 p + c child c of p. -/
def wayTo (s : State) (q : Query) : Nat → Nat → Option Way
  | 0, _ => none
  | n + 1, path =>
    let up : Option (Nat × List Box × List Found) :=
      if path < 8 then none
      else if path < 64 then (if path / 8 = 1 then some (q.root, [], []) else none)
      else match wayTo s q n (path / 8) with
        | some w => if w.leaf then none else some (w.va, w.box :: w.above, w.found)
        | none => none
    match up with
    | none => none
    | some (nd, above, fs) =>
      match readBlock s q nd false with
      | .error _ => none
      | .ok bs => match nodeKids bs with
        | none => none
        | some ks => (ks.find? (·.1 == path % 8)).map fun k => ⟨nd, k.2.1, k.2.2.1, k.2.2.2, above, .block nd false bs :: fs⟩

/-! ### Results of rays -/

/-- Does traversal of a ray meet a box (R377: bounds rounded outward)? -/
def rayPass (b : List Byte) (r : Ray) (tmax : Nat) (x : Box) : Bool := meetsBox r (recTmin b) tmax x.outward

/-- Does every ray of some meet a box for certain (R377: bounds rounded inward)? A ray that can hit nothing meets none. -/
def allIn (b : List Byte) (rs : List Ray) (x : Box) : Bool :=
  rs.all fun r => r.ok b && meetsBox r (recTmin b) (recTmax b) x.inward

/-- The accepted opaque hits of a ray. -/
def opaqueHits (s : State) (q : Query) (r : Ray) : List Hit :=
  if !r.ok q.brec then []
  else (walkQuery s q (rayPass q.brec r (recTmax q.brec))).filterMap fun f => match f with
    | .entry x => if x.kind = 0 then hitOn r (recTmin q.brec) (recTmax q.brec) x else none
    | _ => none

/-- Does an entry need programmable intersection for a ray within a limit (R382)? -/
def needsTask (b : List Byte) (r : Ray) (tmax : Nat) (x : Entry) : Bool :=
  (x.kind == 1 && (hitOn r (recTmin b) tmax x).isSome) || (x.kind == 2 && rayPass b r tmax ⟨x.a, x.b⟩)

/-- Must the engine meet a fault or spawn for a ray, whatever the order of its visits, when nothing nearer than a limit
is left? -/
def forced (s : State) (q : Query) (r : Ray) (tmax : Nat) : Bool :=
  (walkQuery s q (rayPass q.brec r tmax)).any fun f => match f with
    | .entry x => needsTask q.brec r tmax x
    | .fault _ _ => true
    | .block _ _ _ => false

/-- The limit of t that is left when a ray is done: that of its best hit; none where the ray has ended, or could hit nothing
(R371, R381). -/
def lastLimit (s : State) (q : Query) (r : Ray) : Option Nat :=
  if !r.ok q.brec then none
  else match bestHit (opaqueHits s q r) with
    | none => some (recTmax q.brec)
    | some h => if recQuery q.brec = 0 then some h.t else none

/-- The final record of a ray that the engine finishes itself (R381, R385); none when it cannot. Which hit any-hit
reports is open. -/
def rayResult (s : State) (q : Query) (i j : Nat) : Option (List Byte) :=
  let r := rayOf q.brec i j
  if !r.ok q.brec then some resMiss
  else
    let hs := opaqueHits s q r
    match recQuery q.brec with
    | 0 =>
      let best := bestHit hs
      if forced s q r (match best with | some h => h.t | none => recTmax q.brec) then none
      else some (match best with | some h => resHit h | none => resMiss)
    | k =>
      match hs[Config.free .beam [s.fresh, q.uid, i, j] % hs.length]? with
      | some h => some (if k = 1 then resHit h else resOccluded)
      | none => if forced s q r (recTmax q.brec) then none else some resMiss

/-- A provisional record (R382): the ray's best so far, or the miss record; how far the engine has come is open. In an
occlusion query a ray that has a hit is occluded (R381, R403). -/
def provisional (s : State) (q : Query) (i j : Nat) : List Byte :=
  let hs := opaqueHits s q (rayOf q.brec i j)
  match hs[Config.free .beam [s.fresh, q.uid, i, j] % (hs.length + 1)]? with
  | some h => if recQuery q.brec = 2 then resOccluded else resHit h
  | none => resMiss

/-- Can a beam of several rays finish whole below a child: is every box that it reaches met by all of its rays for certain,
as it may find at the widest limits, or by none, as it may find at the narrowest (R377, R378; log 103)? -/
def wholeFrom (s : State) (q : Query) (rs : List (Ray × Option Nat)) : Nat → Nat → Bool → Bool
  | 0, _, _ => false
  | n + 1, va, leaf =>
    match readBlock s q va leaf with
    | .error _ => false
    | .ok bs =>
      leaf || match nodeKids bs with
        | none => false
        | some ks => ks.all fun k =>
            (rs.all fun r => !(r.2.any fun m => rayPass q.brec r.1 m k.2.2.2)) ||
              (allIn q.brec (rs.map (·.1)) k.2.2.2 && wholeFrom s q rs n k.2.1 k.2.2.1)

/-! ### Cones (R386) -/

/-- The cone of a query, as narrow or as wide as the engine may take it. -/
def Query.cone (q : Query) (wide : Bool) : Cone := coneOf q.brec (recAxis q.brec) (recTan q.brec) wide

/-- What a cone may find, wherever the engine visits (R377, R386). -/
def coneWalk (s : State) (q : Query) : List Found :=
  if coneOk q.brec then walkQuery s q fun x => (q.cone true).meets x.outward else []

/-- The triangles that a cone may report. -/
def coneHits (s : State) (q : Query) : List ConeHit :=
  (coneWalk s q).filterMap fun f => match f with
    | .entry x => if x.kind < 2 then coneHit (q.cone false) (q.cone true) x else none
    | _ => none

/-- Must the engine meet a fault for a cone when nothing nearer than a limit is left? -/
def coneForced (s : State) (q : Query) (cap : Nat) : Bool :=
  let c := q.cone false
  let c := if cap < 0x7F800000 then { c with tmax := some (fix32 cap, 2 ^ 149) } else c
  (walkQuery s q fun x => c.meets x.outward).any fun f => f.fault?.isSome

/-- The record of a cone (R386): least t among the triangles inside; which answer within the bounds is open. None when the
engine must meet a fault (R375). -/
def coneResult (s : State) (q : Query) : Option (List Byte) :=
  if !coneOk q.brec then some resMiss
  else
    let hs := coneHits s q
    let sure := hs.filter (·.sure)
    let cap := sure.foldl (fun m h => Nat.min m h.hi) 0x7F800000
    if (recQuery q.brec = 0 ∨ sure = []) ∧ coneForced s q cap then none
    else
      let may := hs.filter fun h => decide (h.lo ≤ cap)
      match may[Config.free .beam [s.fresh, q.uid, 0] % (may.length + (if sure = [] then 1 else 0))]? with
      | none => some resMiss
      | some h =>
        let t := h.lo + Config.free .beam [s.fresh, q.uid, 1] % (Nat.min h.hi cap - h.lo + 1)
        let at_ (t : Nat) (h : ConeHit) : Hit := ⟨t, h.x.prim, h.x.inst, 0, 0⟩
        let ties := (sure.filter fun y => decide (y.hi ≤ t)).map fun y => at_ y.hi y
        some (if recQuery q.brec = 2 then resOccluded else resHit ((bestHit (at_ t h :: ties)).getD (at_ t h)))

/-! ### Queries -/

/-- The query with a unique number. -/
def findQuery (s : State) (uid : Nat) : Option Query := s.queries.find? (·.uid == uid)

/-- Change a query. -/
def updQuery (uid : Nat) (f : Query → Query) (s : State) : State :=
  { s with queries := s.queries.map fun q => if q.uid = uid then f q else q }

/-- Live beams (R379): those not waiting to be spawned. -/
def Query.liveBeams (q : Query) : Nat := (q.beams.filter (·.spawn.isNone)).length

/-- Cells of a beam, row by row, as ray coordinates. -/
def Beam.cells (x : Beam) : List (Nat × Nat) :=
  (List.range (2 ^ x.lh)).flatMap fun j => (List.range (2 ^ x.lw)).map fun i => (x.col0 + i, x.row0 + j)

/-- Address of a ray's record (R373). -/
def Query.recAt (q : Query) (i j : Nat) : Nat := (recResult q.brec + 16 * (j * 2 ^ recLw q.brec + i)) % 2 ^ 56

/-- Write records of some cells: the fault met, or the state. -/
def writeCells (q : Query) (tag : Nat) (rs : List ((Nat × Nat) × List Byte)) (s : State) :
    Except (Nat × Nat) State :=
  rs.foldl (fun r x => match r with
    | .error f => .error f
    | .ok s => match vPut tag (q.recAt x.1.1 x.1.2) x.2 s with
      | .ok s => .ok s
      | .error (c, va, _) => .error (c, va)) (.ok s)

/-- The signature of the line at an address (R320, R321). -/
def vaSig (s : State) (tag va : Nat) : BitVec 1024 :=
  match xlate s tag engUnit va needW with
  | .ok x => engSig s tag x
  | .error _ => 0

/-- The signature of the lines of some records (R320). -/
def cellSig (s : State) (q : Query) (tag : Nat) (cs : List (Nat × Nat)) : BitVec 1024 :=
  cs.foldl (fun m c => m ||| vaSig s tag (q.recAt c.1 c.2)) 0

/-- The watched bytes of some records (R415). -/
def cellTouch (q : Query) (cs : List (Nat × Nat)) : List Touch := cs.map fun c => ⟨0, q.core, true, 0, q.recAt c.1 c.2, 16⟩

/-- Credit a query's object, if it names one. -/
def creditQuery (q : Query) (tag bytes : Nat) (sig : BitVec 1024) (s : State) : State :=
  match q.obj with
  | some o => credit tag q.team o bytes q.gid (q.core / 12) sig s
  | none => s

/-- The query leaves the machine: its slot is free, its part of its batch complete (R275), and its team may end. -/
def closeQuery (uid st cause : Nat) (s : State) : State :=
  match findQuery s uid with
  | none => s
  | some q =>
    let s := updQuery uid (fun q => { q with live := false, st := st, cause := cause, beams := [], owed := 0,
                                             held := false, batches := [] }) s
    teamQuiet q.team (touchWdog (q.tagIn s) (batchCarry q.team q.grp q.sig s))

/-- A fault during traversal (R275, R385): faulted records for every ray still owed, whose writes are skipped where they
fault, every owed byte credited, event 0x06. -/
def faultQuery (uid cause va : Nat) (s : State) : State :=
  match findQuery s uid with
  | none => s
  | some q =>
    let tag := q.tagIn s
    let cells : List (Nat × Nat) := if recCone q.brec then [(0, 0)] else q.beams.flatMap Beam.cells
    let s := cells.foldl (fun s c => match vPut tag (q.recAt c.1 c.2) resFaulted s with
      | .ok s => s
      | .error _ => s) s
    let s := emit tag ⟨0x06, cause, q.core / 12, q.gid, va, 0xC0, some 3, none⟩ s
    closeQuery uid 3 cause (creditQuery q tag q.owed (cellSig s q tag cells) s)

/-- The engine writes and credits the records of a beam that ends (R385). -/
def endBeam (uid beam : Nat) (rs : List ((Nat × Nat) × List Byte)) (s : State) : State :=
  match findQuery s uid with
  | none => s
  | some q =>
    let tag := q.tagIn s
    match writeCells q tag rs s with
    | .error (c, va) => faultQuery uid c va s
    | .ok s =>
      let sig := cellSig s q tag (rs.map (·.1))
      let s := updQuery uid (fun q => { q with beams := q.beams.filter (·.id != beam), owed := q.owed - 16 * rs.length,
                                               sig := q.sig ||| sig }) s
      bump (creditQuery q tag (16 * rs.length) sig (touchWdog tag (wpEngine tag (cellTouch q (rs.map (·.1))) s)))

/-- A free query slot of a core; which of them is open (R275). -/
def freeQuerySlot (s : State) (core : Nat) : Option Nat :=
  let fr := (List.range 64).filter fun n => !s.queries.any fun q => q.core == core && q.slot == n && q.live
  fr[Config.free .order [s.fresh] % fr.length]?

/-- The checks of `bqry` at issue, in order (R274). -/
def bqryFault (s : State) (rec_ root : Nat) (obj : Option Nat) (node : Nat) : Option FaultInfo :=
  let t := s.t
  let w (o n : Nat) : Nat := padRead t (rec_ + o) n
  if rec_ % 64 ≠ 0 ∨ root % 128 ≠ 0 ∨ obj.getD 0 % 16 ≠ 0 then some { cause := cMISALIGN }
  else if t.desc.pad < rec_ + 64 then some { cause := cPADB }
  else if (match obj with | some o => decide (16 * t.desc.barriers ≤ o) || !(getObj t o).valid | none => false) then
    some { cause := cBARRIER }
  else if padMark t rec_ 64 then some { cause := cECC }
  else if !ctlOk (w 0 4) || w 0x38 8 == 0 || w 0x38 8 % 16 != 0 then some { cause := cBEAM }
  else if node ≠ 0 ∧ !isNode s t.tag node then some { cause := cTASK }
  else none

/-- `bqry` (R274–R276). -/
def execBqry (h : Hdr) (d a b c : Opnd) (node : Word) (s : State) : Host.Outcome State Fault Refusal :=
  issue (.bqry h d a b c node) s fun e s =>
    let act := s.g.active h.toGuard
    if act = 0 then .ok (seqNext e s)
    else
      let rec_ := (src32 s.g a 0).toNat
      let root := (srcU s.g true b).toNat % 2 ^ 56
      let obj := nameOf s.g c
      match bqryFault s rec_ root obj node.toNat with
      | some f => .fault f
      | none =>
        let core := coreOf s.t s.g
        match freeQuerySlot s core with
        | none => .ok (seqNext e (wrG e d false act 0xFFFFFFFF s))
        | some slot =>
          let bytes := natBytes (padRead s.t rec_ 64) 64
          let k := 64 * core + slot
          let seq := peek s.qseq k
          let (u, s) := newUid (releaseWait s)
          let n := recRays bytes
          let copy := (recResult bytes + 16 * n) % 2 ^ 56
          let sig := sigOut s ||| vaSig s s.t.tag copy ||| vaSig s s.t.tag ((copy + 63) % 2 ^ 56)
          let root1 : Beam := { id := 0, col0 := 0, row0 := 0, lw := recLw bytes, lh := recLh bytes, depth := 0,
                                perRay := false, axis := [field bytes 0x20 4, field bytes 0x24 4, field bytes 0x28 4],
                                tan := BitVec.ofNat 32 (recTan bytes), spawn := none }
          let q : Query := { uid := u, core := core, slot := slot, seq := seq, grp := s.g.uid, team := s.t.uid,
                             gid := myGid s, gen := peek s.gens (64 * s.t.core + s.t.seat), obj := obj,
                             node := node.toNat, brec := bytes, root := root, live := true, st := 0, cause := 0,
                             spawns := 0, held := false, beams := [root1], owed := 16 * n, unresolved := false,
                             batches := [(s.g.uid, s.g.closed)], seen := [], sig := sig }
          let hd := core % 12 * 2 ^ 22 + seq.toNat * 2 ^ 6 + slot
          let qs := s.queries.filter fun x => !(x.core == core && x.slot == slot)
          let s := bump { s with queries := qs ++ [q], qseq := poke s.qseq k (seq + 1) }
          let s := countCode s.t.tag core 0x29 1 (wrG e d false act (BitVec.ofNat 64 hd) s)
          let s := match vPut s.t.tag copy bytes s with
            | .ok s => wpEngine s.t.tag [⟨0, core, true, 0, copy, 64⟩] s
            | .error (c, va, _) => faultQuery u c va s
          .ok (seqNext e s)

/-- The status word of a query (R277). -/
def Query.word (q : Query) : Nat :=
  q.st * 2 ^ 30 + q.cause * 2 ^ 16 + Nat.min q.spawns 255 * 2 ^ 8 + (if q.held then 2 ^ 7 else 0) + Nat.min q.liveBeams 64

/-- `bres` (R277). -/
def execBres (h : Hdr) (d a : Opnd) (s : State) : Host.Outcome State Fault Refusal :=
  issue (.bres h d a) s fun e s =>
    let act := s.g.active h.toGuard
    let hd := (src32 s.g a 0).toNat
    if act = 0 then .ok (seqNext e (wrG e d false 0 0 s))
    else if bits hd 26 6 ≠ 0 ∨ 12 ≤ bits hd 22 4 then .fault { cause := cILLOPERAND, opf := 2 }
    else
      let core := coreOf s.t s.g / 12 * 12 + bits hd 22 4
      let w := match s.queries.find? fun q => q.core == core && q.slot == bits hd 0 6 && q.seq.toNat == bits hd 6 16 with
        | some q => q.word
        | none => 2 ^ 30
      .ok (seqNext e (pendOn (pendKeys e d 1 s.g.runPos) (wrG e d false act (BitVec.ofNat 64 w) s)))

/-! ### The engine -/

/-- The query and a beam of it that may move: the query is live, and not held for its pool except for the spawn itself. -/
def beamOf (s : State) (q beam : Nat) : Option (Query × Beam) :=
  match findQuery s q with
  | some x => if x.live then (x.beams.find? (·.id == beam)).map fun b => (x, b) else none
  | none => none

/-- The children of a beam, row by row (R378), or of a cone (R387). -/
def beamChildren (q : Query) (b : Beam) (next : Nat) : List Beam :=
  if recCone q.brec then
    let cs := coneChildren ⟨(b.axis.getD 0 0).toNat, (b.axis.getD 1 0).toNat, (b.axis.getD 2 0).toNat⟩ b.tan.toNat
    (List.range 4).map fun i =>
      let a := cs.1.getD i ⟨0, 0, 0⟩
      { b with id := next + i, depth := b.depth + 1, tan := BitVec.ofNat 32 cs.2,
               axis := [BitVec.ofNat 32 a.x, BitVec.ofNat 32 a.y, BitVec.ofNat 32 a.z] }
  else
    let nx := if b.lw = 0 then 1 else 2
    let ny := if b.lh = 0 then 1 else 2
    (List.range (nx * ny)).map fun k =>
      { b with id := next + k, depth := b.depth + 1, col0 := b.col0 + k % nx * 2 ^ (b.lw - 1),
               row0 := b.row0 + k / nx * 2 ^ (b.lh - 1), lw := b.lw - 1, lh := b.lh - 1 }

/-- The rays of a beam. -/
def Beam.rays (q : Query) (b : Beam) : List Ray := b.cells.map fun c => rayOf q.brec c.1 c.2

/-- Does a beam continue per ray where its rays do not agree on a box: it holds one ray, or its depth is MAXD (R378)? -/
def Beam.solo (q : Query) (b : Beam) : Bool := b.lw + b.lh == 0 || decide (recMaxd q.brec ≤ b.depth)

/-- The cone of a beam of a cone query (R387), as wide as the engine may take it. -/
def Beam.cone (q : Query) (b : Beam) : Cone :=
  coneOf q.brec ⟨(b.axis.getD 0 0).toNat, (b.axis.getD 1 0).toNat, (b.axis.getD 2 0).toNat⟩ b.tan.toNat true

/-- May a beam stand before a child as a whole: it has descended into every box above, each all-in (R378), or met by its
cone (R387)? -/
def Beam.descends (q : Query) (b : Beam) (w : Way) : Bool :=
  if recCone q.brec then (w.box :: w.above).all fun x => (b.cone q).meets x.outward
  else w.above.all (allIn q.brec (b.rays q))

/-- BEAM_SPLIT (R378, R379, R387): at a child that the beam finds mixed, which it may of any, named by its path from the
root. -/
def execBeamSplit (q beam child : Nat) (s : State) : Host.Outcome State Fault Refusal :=
  .next (match beamOf s q beam with
    | none => s
    | some (x, b) =>
      if x.held || b.spawn.isSome || b.perRay then s
      else match wayTo s x 33 child with
        | none => s
        | some w =>
          if !b.descends x w then s
          else
          let s := updQuery q (Query.learn w.found) s
          let nd := w.node
          let cone := recCone x.brec
          let next := x.beams.foldl (fun m b => Nat.max m b.id) 0 + 1
          let kids := beamChildren x b next
          let room := 64 - (x.liveBeams - 1)
          let tanOk := le32 b.tan.toNat 0x3F800000
          if cone then
            if b.depth < recMaxd x.brec ∧ tanOk ∧ kids.length ≤ room then
              updQuery q (fun x => { x with beams := x.beams.filter (·.id != beam) ++ kids }) s
            else s
          else if !b.solo x then
            let out := (kids.drop room).map fun k => { k with spawn := some (0, nd, 0) }
            updQuery q (fun x => { x with beams := x.beams.filter (·.id != beam) ++ kids.take room ++ out }) s
          else updQuery q (fun x => { x with beams := x.beams.map fun c => if c.id = beam then { c with perRay := true } else c }) s)

/-- The 64 bytes of a spawn record before the device's own fields (R383). -/
def spawnRecord (entry argp : Nat) (b : Beam) (q : Query) (reason tri : Nat) : List Byte :=
  let n1 (x : Nat) : List Byte := natBytes x 1
  natBytes entry 8 ++ natBytes argp 8 ++ natBytes b.col0 2 ++ natBytes b.row0 2 ++ n1 b.lw ++ n1 b.lh
    ++ n1 (recLw q.brec) ++ n1 (recLh q.brec) ++ n1 b.depth ++ n1 reason
    ++ n1 (match q.obj with | some o => o / 16 | none => 255) ++ n1 tri ++ natBytes 0 4 ++ natBytes 0 8
    ++ natBytes (recResult q.brec) 8 ++ natBytes q.node 8 ++ natBytes 0 8

/-- Hand a beam over (R382–R384): provisional records, then the spawn; with a dry pool the whole query is held; without
a node its rays are unresolved. -/
def spawnBeam (x : Query) (b : Beam) (reason argp tri : Nat) (s : State) : State :=
  let tag := x.tagIn s
  if x.node = 0 then
    endBeam x.uid b.id (b.cells.map fun c => (c, resUnresolved)) (updQuery x.uid (fun q => { q with unresolved := true }) s)
  else match (getFn s tag).ctx.bind fun c => c.nodes[x.node]? with
    | none => s
    | some nd =>
      match takeSlot tag nd.pool .submitted s with
      | none => updQuery x.uid (fun q => { q with held := true, beams := q.beams.map fun c =>
          if c.id = b.id then { c with spawn := some (reason, argp, tri) } else c }) s
      | some (va, s1) =>
        match writeCells x tag (b.cells.map fun c => (c, provisional s x c.1 c.2)) s1 with
        | .error (c, a) => faultQuery x.uid c a s
        | .ok s =>
          let s := wpEngine tag (cellTouch x b.cells) s
          let raw := spawnRecord nd.entry argp b x reason tri
          let n := 16 * 2 ^ (b.lw + b.lh)
          let s := (vWriteAll tag va raw s).getD s
          let s := updQuery x.uid (fun q => { q with held := false, spawns := q.spawns + 1, owed := q.owed - n,
                                                     beams := q.beams.filter (·.id != b.id) }) s
          let subs := match findTeam s x.team with | some t => ancestors s t | none => []
          countCode tag x.core 0x2A 1
            (submitRec tag va raw 3 true x.node .dev ⟨false, .dev, x.core / 12, x.core % 12⟩ x.gid x.gen subs
              (x.sig ||| cellSig s x tag b.cells) (some ⟨x.team, x.obj, n⟩) s)

/-- Can a beam meet an entry of a leaf that needs programmable intersection (R378, R382): as a whole, where every box on the way
is all-in; where it continues per ray, with a ray that meets them all? -/
def Beam.finds (q : Query) (b : Beam) (w : Way) (x : Entry) : Bool :=
  let way := w.box :: w.above
  if b.solo q then (b.rays q).any fun r =>
    r.ok q.brec && way.all (rayPass q.brec r (recTmax q.brec)) && needsTask q.brec r (recTmax q.brec) x
  else way.all (allIn q.brec (b.rays q)) && (b.rays q).any fun r => needsTask q.brec r (recTmax q.brec) x

/-- May a beam be handed over now: it is the first of the query that waits for its spawn, or none waits (R357)? -/
def Query.spawnTurn (q : Query) (b : Beam) : Bool :=
  match q.beams.find? (·.spawn.isSome) with
  | some c => c.id == b.id
  | none => true

/-- BEAM_SPAWN (R379, R382, R383): a beam that waits for its spawn, or one that met an entry needing programmable
intersection, named by its leaf's path and its index. -/
def execBeamSpawn (q beam child tri : Nat) (s : State) : Host.Outcome State Fault Refusal :=
  .next (match beamOf s q beam with
    | none => s
    | some (x, b) =>
      if !x.spawnTurn b then s
      else match b.spawn with
      | some (r, a, t) => spawnBeam x b r a t s
      | none =>
        if x.held || recCone x.brec then s
        else match wayTo s x 32 child with
          | none => s
          | some w =>
            if !w.leaf then s
            else match readBlock s x w.va true with
              | .error _ => s
              | .ok bs => match (leafEntries w.va bs).bind (·[tri]?) with
                | none => s
                | some en =>
                  if b.finds x w en then
                    let fs := .block w.va true bs :: w.found
                    spawnBeam (x.learn fs) b en.kind w.va tri (updQuery q (Query.learn fs) s)
                  else s)

/-- Can the engine finish a beam itself (R378): it continues per ray, or no box on its way divides its rays? -/
def Beam.finishes (s : State) (q : Query) (b : Beam) : Bool :=
  let rs := (b.rays q).map fun r => (r, lastLimit s q r)
  b.solo q || rs.all (fun r => !r.1.ok q.brec) || wholeFrom s q rs 33 q.root false

/-- What the rays of a beam may read on their ways. -/
def Beam.reads (s : State) (q : Query) (b : Beam) : List Found :=
  (b.rays q).flatMap fun r => if r.ok q.brec then walkQuery s q (rayPass q.brec r (recTmax q.brec)) else []

/-- BEAM_ENDS (R385): a beam that the engine finishes itself. -/
def execBeamEnds (q beam : Nat) (s : State) : Host.Outcome State Fault Refusal :=
  .next (match beamOf s q beam with
    | none => s
    | some (x, b) =>
      if x.held || b.spawn.isSome then s
      else if recCone x.brec then updQuery q (fun x => { x with beams := x.beams.filter (·.id != beam) }) s
      else
        let rs := b.cells.map fun c => (c, rayResult s x c.1 c.2)
        if rs.all (·.2.isSome) && b.finishes s x then
          endBeam q beam (rs.map fun r => (r.1, r.2.getD [])) (updQuery q (Query.learn (b.reads s x)) s)
        else s)

/-- BEAM_QUERY_END (R275, R385, R386). -/
def execBeamQueryEnd (q : Nat) (s : State) : Host.Outcome State Fault Refusal :=
  .next (match findQuery s q with
    | none => s
    | some x =>
      if !x.live || x.beams != [] then s
      else
        let done : Option State :=
          if recCone x.brec then (coneResult s x).map fun r => endBeam q 0 [((0, 0), r)] s else some s
        match done with
        | none => s
        | some s => match findQuery s q with
          | some y => if y.live then closeQuery q (if y.unresolved then 2 else 1) 0 s else s
          | none => s)

/-- The faults that the engine may meet for a beam: on the way of one of its rays, or of the beam as a whole where it must
split before its rays part (R375, R377, R378). -/
def Beam.faults (s : State) (q : Query) (b : Beam) : List (Nat × Nat) :=
  let fs := if b.solo q then b.reads s q
    else if (b.rays q).all (fun r => !r.ok q.brec) then []
    else walkQuery s q (allIn q.brec (b.rays q))
  fs.filterMap Found.fault?

/-- BEAM_TRAVERSAL_FAULT (R275): traversal met one of the faults that stand in its way. -/
def execBeamTraversalFault (q : Nat) (s : State) : Host.Outcome State Fault Refusal :=
  .next (match findQuery s q with
    | none => s
    | some x =>
      let fs := if recCone x.brec then (coneWalk s x).filterMap Found.fault?
        else (x.beams.filter (·.spawn.isNone)).flatMap (Beam.faults s x)
      if !x.live || x.held then s
      else match fs[Config.free .beam [s.fresh, x.uid] % fs.length]? with
        | some (c, va) => bump (faultQuery q c va s)
        | none => s)

end Sys2Proof.Machine
end

