-- ==== Sys2Proof/Machine/Control.lean ====
section
/-!
DEFINITION. Control and system instructions (spec/05 R120–R146, spec/01 R18–R24, R39).
-/
namespace Sys2Proof.Machine

/-- A word offset from an instruction's address, modulo 2^56 (R121). -/
def offset {n : Nat} (a : VA) (off : BitVec n) : VA := a + BitVec.ofInt 56 (4 * off.toInt)

/-- Lanes of EM outside the guard. -/
def Group.inactive (x : Group) (gd : Guard) : Mask := x.em &&& ~~~(x.active gd)

/-- Entries the current divergence stack may hold (R20, R37). -/
def Group.stackLimit (x : Group) : Nat := if x.shadowed then 8 else 32

/-- Would a divergence overflow the stack? -/
def stackFull (x : Group) : Bool := decide (x.stackLimit ≤ x.bank.stk.length)

/-- Diverge (R18): push the entry and run one path first. -/
def diverge (target join next : VA) (tk fk : Mask) (hint : Hint) (s : State) : State :=
  let unl := hint == .unlikely
  let s := countMine 4 1 s
  let s := if hint = .uniform then countMine 3 1 s else s
  let x := s.g
  let ent : DivEntry := { join := join, merge := x.em, taken := tk, fall := fk, onTaken := !unl,
                          other := if unl then .fresh target tk else .fresh next fk }
  let x := { x with pc := normPc s (if unl then next else target), em := if unl then fk else tk }
  settle false { s with g := (x.setStk (ent :: x.bank.stk)).endRun }

/-- A guarded transfer: `bra`, `brx` and `ret` (R18, R128, R129, R131). The pair's low bits are tested only when some lane
would go (R121). DESIGN CHOICE (log 89): with EM empty both masks of R18 are empty and two of its bullets hold; the
transfer falls through. DESIGN CHOICE (log 90): a misaligned address is raised before a full divergence stack; the spec gives
the two no order. -/
def branch (gd : Guard) (hint : Hint) (target join : VA) (e : Enc) (s : State) : Act :=
  let tk := s.g.active gd
  let fk := s.g.inactive gd
  if tk = 0 then .ok (seqNext e s)
  else if target &&& 3 ≠ 0 then .fault { cause := cMISALIGN }
  else if fk = 0 then .ok (goto target s)
  else if stackFull s.g then .fault { cause := cDIV }
  else .ok (diverge target join (nextPc e s) tk fk hint s)

/-- A guarded call (R130): the return address is written when some lane goes. DESIGN CHOICE (log 90): MISALIGN comes before
DIVSTACK_OVERFLOW. -/
def callTo (ch : CHdr) (d : Opnd) (target : VA) (e : Enc) (s : State) : Act :=
  let tk := s.g.active ch.toGuard
  let fk := s.g.inactive ch.toGuard
  if tk = 0 then .ok (seqNext e s)
  else if target &&& 3 ≠ 0 then .fault { cause := cMISALIGN }
  else if fk ≠ 0 ∧ stackFull s.g then .fault { cause := cDIV }
  else
    let next := nextPc e s
    let s := match d with
      | .g r => onG (Group.setGPair r.toNat (next.zeroExtend 64)) s
      | _ => s
    if fk = 0 then .ok (goto target s) else .ok (diverge target next next tk fk ch.hint s)

/-- The address in a uniform pair (R121). -/
def pairVa (s : State) (o : Opnd) : VA := (srcU s.g true o).setWidth 56

/-- `nop` (R127). -/
def execNop (stay : Bool) (s : State) : Host.Outcome State Fault Refusal :=
  issue (.nop stay) s (plain fun _ s => s)

/-- `bra` (R128). -/
def execBra (ch : CHdr) (join : BitVec 20) (target : Word) (s : State) : Host.Outcome State Fault Refusal :=
  issue (.bra ch join target) s fun e s =>
    branch ch.toGuard ch.hint (offset s.g.pc target) (normPc s (offset s.g.pc join)) e s

/-- `brx` (R129). -/
def execBrx (ch : CHdr) (a : Opnd) (join : Word) (s : State) : Host.Outcome State Fault Refusal :=
  issue (.brx ch a join) s fun e s =>
    branch ch.toGuard ch.hint (pairVa s a) (normPc s (offset s.g.pc join)) e s

/-- `call` (R130). -/
def execCall (ch : CHdr) (d : Opnd) (target : Word) (s : State) : Host.Outcome State Fault Refusal :=
  issue (.call ch d target) s fun e s => callTo ch d (offset s.g.pc target) e s

/-- `callx` (R130). -/
def execCallx (ch : CHdr) (d a : Opnd) (s : State) : Host.Outcome State Fault Refusal :=
  issue (.callx ch d a) s fun e s => callTo ch d (pairVa s a) e s

/-- `ret` (R131): a partial one diverges with target and join at the address. -/
def execRet (gd : Guard) (a : Opnd) (s : State) : Host.Outcome State Fault Refusal :=
  issue (.ret gd a) s fun e s => branch gd .none (pairVa s a) (normPc s (pairVa s a)) e s

/-- Take lanes out of the masks of an entry (R23). -/
def DivEntry.without (m : Mask) (d : DivEntry) : DivEntry :=
  let keep (x : Mask) : Mask := x &&& ~~~m
  { d with merge := keep d.merge, taken := keep d.taken, fall := keep d.fall,
           other := match d.other with
             | .fresh pc em => .fresh pc (keep em)
             | .yielded pc em => .yielded pc (keep em)
             | .waiting pc em w => .waiting pc (keep em) w
             | .done => .done }

/-- Take lanes out of the live set, EM and every stack (R23, R132). -/
def Group.dropLanes (m : Mask) (x : Group) : Group :=
  { x with em := x.em &&& ~~~m, live := x.live &&& ~~~m,
           regs := { x.regs with stk := x.regs.stk.map (DivEntry.without m) },
           sh := x.sh.map fun h => { h with bank := { h.bank with stk := h.bank.stk.map (DivEntry.without m) } } }

/-- `exit` (R23, R132). -/
def execExit (gd : Guard) (s : State) : Host.Outcome State Fault Refusal :=
  issue (.exit gd) s fun e s =>
    let act := s.g.active gd
    if act = 0 then .ok (seqNext e s)
    else
      let pc := s.g.pc
      let next := nextPc e s
      let s := onG (Group.dropLanes act) s
      if s.g.live = 0 then .ok (withBroken s.g.uid (endGroup .ended pc s))
      else .ok (settle true { s with g := { s.g with pc := next }.endRun })

/-- `yield` (R21, R133). -/
def execYield (s : State) : Host.Outcome State Fault Refusal :=
  issue .yield s fun e s => .ok (suspendYield (nextPc e s) s)

/-- `trap` (R134). -/
def execTrap (gd : Guard) (a : Opnd) (s : State) : Host.Outcome State Fault Refusal :=
  issue (.trap gd a) s fun e s =>
    if s.g.active gd = 0 then .ok (seqNext e s)
    else .fault { cause := cSWTRAP, code := (src32 s.g a 0).toNat % 2 ^ 16, land := some (nextPc e s, s.g.runPos) }

/-- Is the group in a handler of a kind? -/
def inHandler (x : Group) (k : Handler) : Bool :=
  match x.sh with
  | some h => h.kind == k
  | none => false

/-- `eret` (R39, R136). DESIGN CHOICE (log 91): the ILLEGAL_OPC of the wrong context is tested after the checks of R73, so
an encoding or operand fault of the same word comes first. -/
def execEret (s : State) : Host.Outcome State Fault Refusal :=
  issue .eret s fun _ s => if inHandler s.g .trap then .ok (leaveShadow false s) else .fault { cause := cILLOPC }

/-- `brk` (R135). -/
def execBrk (h : Hdr) (s : State) : Host.Outcome State Fault Refusal :=
  issue (.brk h) s fun e s =>
    if s.g.active h.toGuard = 0 then .ok (seqNext e s) else .fault { cause := cBRK }

/-- `mhret` (R40, R136), the wrong context tested as for `eret` (log 91). -/
def execMhret (s : State) : Host.Outcome State Fault Refusal :=
  issue .mhret s fun _ s => if inHandler s.g .pcMatch then .ok (leaveShadow true s) else .fault { cause := cILLOPC }

/-! ### System registers (R141) -/

/-- The system registers a number names. -/
inductive SysReg where
  | gwidth | vwidth | gmaxw | gid | gindex | team | role | divdepth | tick | fmode | fflags | batch | tcause | tinfo
  | tpc | tem
  deriving DecidableEq, Repr

/-- The register of a number; none for a number the map does not list (R141). -/
def sysReg (n : Nat) : Option SysReg :=
  match n with
  | 0x00 => some .gwidth
  | 0x01 => some .vwidth
  | 0x02 => some .gmaxw
  | 0x03 => some .gid
  | 0x04 => some .gindex
  | 0x05 => some .team
  | 0x06 => some .role
  | 0x07 => some .divdepth
  | 0x08 => some .tick
  | 0x0A => some .fmode
  | 0x0B => some .fflags
  | 0x0C => some .batch
  | 0x10 => some .tcause
  | 0x11 => some .tinfo
  | 0x12 => some .tpc
  | 0x14 => some .tem
  | _ => none

/-- Is the register 64 bits wide? -/
def sysWide (r : SysReg) : Bool := r == .tick || r == .tpc || r == .tem

/-- What a register reads (R10, R20, R34, R102, R103, R142–R146). -/
def sysRead (s : State) (r : SysReg) : DWord :=
  let x := s.g
  match r with
  | .gwidth => BitVec.ofNat 64 x.gw
  | .vwidth => 32
  | .gmaxw => 64
  | .gid => (myGid s).zeroExtend 64
  | .gindex => BitVec.ofNat 64 ((s.t.desc.ngrp - 1) * 256 + x.gidx)
  | .team => BitVec.ofNat 64 s.t.idx
  | .role => BitVec.ofNat 64 x.role
  | .divdepth => BitVec.ofNat 64 x.bank.stk.length
  | .tick => BitVec.ofNat 64 s.tick
  | .fmode => x.fmode.zeroExtend 64
  | .fflags => x.fflags.zeroExtend 64
  | .batch => x.batch.zeroExtend 64
  | .tcause => x.tcause.zeroExtend 64
  | .tinfo => x.tinfo.zeroExtend 64
  | .tpc => x.tpc.zeroExtend 64
  | .tem => x.tem

/-- Write a register; RO registers and fields keep their values (R34, R102, R103, R139). -/
def sysWrite (r : SysReg) (v : DWord) (x : Group) : Group :=
  match r with
  | .fmode => { x with fmode := v.setWidth 2 }
  | .fflags => { x with fflags := v.setWidth 6 }
  | .tpc => if x.shadowed then { x with tpc := v.setWidth 56 &&& ~~~3 } else x
  | .tem => if x.shadowed then { x with tem := v &&& x.all } else x
  | _ => x

/-- The register that an access of a width may name (R139). -/
def sysPick (x : Group) (a : Opnd) (w64 rd : Bool) : Option SysReg :=
  match sysReg (specNum x a) with
  | none => none
  | some r => if w64 && !sysWide r || !w64 && sysWide r && !rd then none else some r

/-- `sysrd` (R139). -/
def execSysrd (h : Hdr) (w64 : Bool) (d a : Opnd) (s : State) : Host.Outcome State Fault Refusal :=
  issue (.sysrd h w64 d a) s fun e s =>
    let act := s.g.active h.toGuard
    if act = 0 then .ok (seqNext e (wrG e d w64 act 0 s))
    else match sysPick s.g a w64 true with
      | none => .fault { cause := cILLOPERAND, opf := 2 }
      | some r =>
        let s := if r = .fflags then onG (fun x => { x with pend := x.pend.filter (!·.sfu) }) s else s
        .ok (seqNext e (wrG e d w64 act (sysRead s r) s))

/-- `syswr` (R139). -/
def execSyswr (h : Hdr) (w64 : Bool) (a b : Opnd) (s : State) : Host.Outcome State Fault Refusal :=
  issue (.syswr h w64 a b) s fun e s =>
    if s.g.active h.toGuard = 0 then .ok (seqNext e s)
    else match sysPick s.g a w64 false with
      | none => .fault { cause := cILLOPERAND, opf := 2 }
      | some r => .ok (seqNext e (onG (sysWrite r (srcU s.g w64 b)) s))

/-- `emrd` (R137). -/
def execEmrd (h : Hdr) (d : Opnd) (s : State) : Host.Outcome State Fault Refusal :=
  issue (.emrd h d) s (plain fun e s => wrG e d true (s.g.active h.toGuard) s.g.em s)

/-- The mask M of `emwr` (R24): the path mask of the current path, or the live lanes. -/
def Group.pathMask (x : Group) : Mask :=
  match x.bank.stk with
  | [] => x.live
  | d :: _ => if d.onTaken then d.taken else d.fall

/-- `emwr` (R24, R138). -/
def execEmwr (gd : Guard) (a : Opnd) (s : State) : Host.Outcome State Fault Refusal :=
  issue (.emwr gd a) s (plain fun _ s =>
    let m := srcU s.g true a &&& s.g.pathMask
    if s.g.active gd = 0 ∨ m = 0 then s else onG (fun x => { x with em := m }) s)

end Sys2Proof.Machine
end

