-- ==== Sys2Proof/Machine/Flags.lean ====
section
/-!
DEFINITION. The sticky flags of SR_FFLAGS (spec/04 R103) as vector floating-point instructions raise them, and the
lane-wise forms of floating-point operations, packed formats included (spec/04 R96, spec/06 R154).
-/
namespace Sys2Proof.Machine

/-- Set flags: hardware only sets bits (R103). -/
def raiseFlags (f : Flags) (s : State) : State := onG (fun x => { x with fflags := x.fflags ||| f }) s

/-- The flags that the active lanes below n raise (R103). -/
def lanesFlags (act : Mask) (f : Nat → Flags) : Nat → Flags
  | 0 => 0
  | n + 1 => lanesFlags act f n ||| (if act.getLsbD n then f n else 0)

/-- An operation on one element or on both halves of a packed pair (R96). -/
def perHalf (packed : Bool) (op : Nat → FR) : FR :=
  if packed then
    let a := op 0
    let b := op 1
    ⟨a.x + 2 ^ 16 * b.x, a.fl ||| b.fl⟩
  else op 0

/-- Half h of a packed pattern, or the whole of another. -/
def half (packed : Bool) (x h : Nat) : Nat := if packed then bits x (16 * h) 16 else x

/-- A lane-wise floating-point result with its flags. -/
def wrFp (e : Enc) (d : Opnd) (wide : Bool) (act : Mask) (f : Nat → FR) (s : State) : State :=
  let fl := lanesFlags act (fun l => (f l).fl) s.g.gw
  raiseFlags fl (wrV e d wide act (fun l => BitVec.ofNat 64 (f l).x) s)

/-- Source negation and absolute value: the absolute value first (R162). -/
def signMods (F : Fmt) (abs neg : Bool) (x : Nat) : Nat :=
  let y := if abs then F.abs x else x
  if neg then F.neg y else y

end Sys2Proof.Machine
end

