-- ==== Sys2Proof/Machine/Special.lean ====
section
/-!
DEFINITION. The special functions (spec/06 R169–R171): special and exact cases, and open values within the stated bounds. The
exact transcendental values that the bounds speak of are computed in fixed point, as integers at scale 2^p, to far
better than the bounds.
-/
namespace Sys2Proof.Machine

/-- The special functions (R169). -/
inductive Sfu where
  | rcp | rsq | sqt | ex2 | lg2 | sin | cos | tnh
  deriving DecidableEq, Repr

/-- A number for a function, an argument of the open values. -/
def Sfu.code : Sfu → Nat
  | .rcp => 0 | .rsq => 1 | .sqt => 2 | .ex2 => 3 | .lg2 => 4 | .sin => 5 | .cos => 6 | .tnh => 7

/-! ### `rcp`, `rsq`, `sqt` -/

/-- The correctly rounded result of `rcp`, `rsq` or `sqt` of a finite non-zero value that is not below 0 for the last
two. -/
def sfuRound (f : Sfu) (F : Fmt) (md : Rnd) (s : Bool) (m : Nat) (e : Int) : FR :=
  match f with
  | .rsq => rsqrtRound F md m e
  | .sqt => sqrtRound F md m e
  | _ => recipRound F md s m e

/-- Does the exact result exceed the format's range (R171)? -/
def sfuOver (f : Sfu) (F : Fmt) (s : Bool) (m : Nat) (e : Int) : Bool :=
  ((sfuRound f F (if s then .rm else .rp) s m e).fl &&& flOF) != 0

/-- UF and NX of a result that is not exact (R171). -/
def inexactFlags (F : Fmt) (x : Nat) : Flags := if x % F.signBit < 2 ^ F.mbits then flUF ||| flNX else flNX

/-- A result of `rcp`, `rsq` or `sqt` within R169's bound of `ulps` ulp in format F: an open choice, the same whenever the
function and the source encoding x are. -/
def sfuNear (f : Sfu) (F : Fmt) (ulps x : Nat) (s : Bool) (m : Nat) (e : Int) : FR :=
  if sfuOver f F s m e then ⟨F.inf s, flOF ||| flNX⟩
  else
    let lo := sfuRound f F .rz s m e
    let inexact := (lo.fl &&& flNX) != 0
    let k := Config.free .sfu [f.code, F.mbits, x]
    let mag := lo.x % F.signBit
    let low := if inexact then mag + 1 - ulps else mag - ulps
    let n := if inexact then 2 * ulps else 2 * ulps + 1
    let y := Nat.min (low + k % n) F.maxEnc
    ⟨y + (if s then F.signBit else 0), if !inexact && y == mag then 0 else inexactFlags F y⟩

/-! ### Series in fixed point -/

/-- Σ z^k / k! from term t = z^k / k! on. -/
def expSer (p : Nat) (z : Int) : Nat → Int → Nat → Int
  | 0, _, _ => 0
  | n + 1, t, k => t + expSer p z n (t * z / 2 ^ p / (k + 1)) (k + 1)

/-- Σ ± u^(2k+1) / (2k+1) from power t on, with ± u² given: atan where it is negative, atanh where it is positive. -/
def atSer (p : Nat) (sq : Int) : Nat → Int → Nat → Int
  | 0, _, _ => 0
  | n + 1, t, k => t / (2 * k + 1) + atSer p sq n (t * sq / 2 ^ p) (k + 1)

/-- The sine or cosine series from term t = ± x^k / k! on, with −x² given. -/
def trigSer (p : Nat) (sq : Int) : Nat → Int → Nat → Int
  | 0, _, _ => 0
  | n + 1, t, k => t + trigSer p sq n (t * sq / 2 ^ p / ((k + 1) * (k + 2))) (k + 2)

/-- 1 at scale 2^p. -/
def oneAt (p : Nat) : Int := 2 ^ p

/-- ln 2 = 2 atanh (1/3). -/
def lnTwo (p : Nat) : Int := 2 * atSer p (oneAt p / 9) p (oneAt p / 3) 0

/-- π = 16 atan (1/5) − 4 atan (1/239). -/
def piAt (p : Nat) : Int :=
  16 * atSer p (-(oneAt p / 25)) p (oneAt p / 5) 0 - 4 * atSer p (-(oneAt p / 57121)) p (oneAt p / 239) 0

/-- m × 2^e at scale 2^p, towards 0. -/
def fixAt (p m : Nat) (e : Int) : Int := (roundAt .rz false m e (-(p : Int)) false).1

/-- 2^f for f in [0, 1). -/
def exp2At (p : Nat) (f : Int) : Int := expSer p (f * lnTwo p / oneAt p) p (oneAt p) 0

/-- tanh of a value that is not below 0. -/
def tanhAt (p : Nat) (x : Int) : Int :=
  let w := 2 * x * oneAt p / lnTwo p
  let e := exp2At p (w % oneAt p) * 2 ^ (w / oneAt p).toNat
  (e - oneAt p) * oneAt p / (e + oneAt p)

/-- log2 of m × 2^e. -/
def log2At (p m : Nat) (e : Int) : Int :=
  let y := fixAt p m (-(Nat.log2 m : Int))
  let u := (y - oneAt p) * oneAt p / (y + oneAt p)
  2 * atSer p (u * u / oneAt p) p u 0 * oneAt p / lnTwo p + ((Nat.log2 m : Int) + e) * oneAt p

/-! ### Open results within a bound -/

/-- The encodings of a format in order of their values: 0 for zero, −n below it. -/
def encOrd (F : Fmt) (x : Nat) : Int := if F.signBit ≤ x then -((x - F.signBit : Nat) : Int) else x

/-- The encoding at a place; which zero stands at 0 is given. -/
def ordEnc (F : Fmt) (n : Int) (negZero : Bool) : Nat :=
  if n < 0 ∨ (n = 0 ∧ negZero) then F.signBit + n.natAbs else n.toNat

/-- An open f32 result y of a function for a source encoding x with |y − v| ≤ b, where v and b are given at scale 2^q with a
slack for v's own error (R169). -/
def sfuWithin (f : Sfu) (x : Nat) (v b q : Int) : Nat :=
  let at_ (md : Rnd) (n : Int) : Int := encOrd fmtF32 (fmtF32.roundZ md (decide (n < 0)) n.natAbs q).x
  let lo := max (at_ .rp (v - b)) (-(fmtF32.maxEnc : Int))
  let hi := min (at_ .rm (v + b)) fmtF32.maxEnc
  let k := Config.free .sfu [f.code, 23, x]
  ordEnc fmtF32 (lo + k % ((hi - lo).toNat + 1)) (Config.flip .sfu [f.code, 23, x, 1])

/-- 2 ulp of f32 at v × 2^q, at the same scale, and the slack. -/
def twoUlp (v q : Int) : Int :=
  let k : Int := (Nat.log2 v.natAbs : Int) + q - 23
  2 * 2 ^ ((if k < -149 then -149 else k) - q).toNat + 2 ^ 20

/-- The f32 result of a transcendental function for a finite non-zero source with encoding x, outside the exact cases
(R169). -/
def sfuF32 (f : Sfu) (x : Nat) (s : Bool) (m : Nat) (e : Int) : Nat :=
  let top : Int := (Nat.log2 m : Int) + e
  match f with
  | .ex2 =>
    let p := 120
    let a := if 8 < top then 2 ^ 9 * oneAt p else fixAt p m e
    let w := if s then -a else a
    let fl := max (w / oneAt p) (-200)
    let v := exp2At p (w % oneAt p)
    sfuWithin f x v (twoUlp v (fl - p)) (fl - p)
  | .lg2 =>
    let p := 150
    let v := log2At p m e
    sfuWithin f x v (if top = 0 ∨ top = -1 then 2 ^ (p - 22) + 2 ^ 20 else twoUlp v (-(p : Int))) (-(p : Int))
  | .tnh =>
    let p := 100 + (-top).toNat
    let v := tanhAt p (if 5 < top then 32 * oneAt p else fixAt p m e)
    sfuWithin f x (if s then -v else v) (twoUlp v (-(p : Int))) (-(p : Int))
  | _ =>
    let p := 300
    let r := fixAt p m e % (2 * piAt p)
    let sq := -(r * r / oneAt p)
    let v := if f = .cos then trigSer p sq 100 (oneAt p) 0
      else if s then -trigSer p sq 100 r 1 else trigSer p sq 100 r 1
    sfuWithin f x v (2 ^ (p - 21) + 2 ^ 200) (-(p : Int))

/-- A value that is not exact, rounded from its f32 result to a format. -/
def fromF32 (F : Fmt) (y32 : Nat) : FR :=
  let y := match fmtF32.value y32 with
    | .fin s m e => (F.roundZ .rn s m e).x
    | .inf s => F.inf s
    | .nan _ => F.canonNan
  ⟨y, inexactFlags F y⟩

/-- The f32 encoding of a value of f32 or of a 16-bit format, which is exact. -/
def asF32 (s : Bool) (m : Nat) (e : Int) : Nat := (fmtF32.roundZ .rn s m e).x

/-- `rcp`, `rsq` and `sqt` of a finite non-zero value (R169): `.ieee` rounds once; f32 and f64 lie in
their bound; the 16-bit formats round the f32 result. -/
def sfuAlg (f : Sfu) (F : Fmt) (ieee : Bool) (x : Nat) (s : Bool) (m : Nat) (e : Int) : FR :=
  let rn := sfuRound f F .rn s m e
  if ieee then rn
  else if F.mbits = 52 then sfuNear f F (if f = .rsq then 2 else 1) x s m e
  else if F.mbits = 23 then sfuNear f F 1 x s m e
  else if sfuOver f F s m e then ⟨F.inf s, flOF ||| flNX⟩
  else
    let r := fromF32 F (sfuNear f fmtF32 1 (asF32 s m e) s m e).x
    if (rn.fl &&& flNX) = 0 ∧ rn.x = r.x then ⟨r.x, 0⟩ else r

/-- Is the value an integer? -/
def isInteger (m : Nat) (e : Int) : Bool := !(roundAt .rz false m e 0 false).2

/-- `ex2` of a finite non-zero value (R169–R171). -/
def sfuEx2 (F : Fmt) (s : Bool) (m : Nat) (e : Int) : FR :=
  let huge := decide ((Nat.log2 m : Int) + e > 12)
  let a : Int := if huge then 4096 else (roundAt (if s then .rp else .rz) false m e 0 false).1
  let fl : Int := if s then -a else a
  if (F.bias : Int) + 1 ≤ fl then ⟨F.inf false, flOF ||| flNX⟩
  else if huge || isInteger m e then
    if fl < F.qmin then ⟨0, flUF ||| flNX⟩ else ⟨(F.roundZ .rn false 1 fl).x, 0⟩
  else fromF32 F (sfuF32 .ex2 (asF32 s m e) s m e)

/-- `lg2` of a positive finite value (R169, R170). -/
def sfuLg2 (F : Fmt) (m : Nat) (e : Int) : FR :=
  let k : Int := (Nat.log2 m : Int) + e
  if m = 2 ^ Nat.log2 m then ⟨(F.roundZ .rn (decide (k < 0)) k.natAbs 0).x, 0⟩
  else fromF32 F (sfuF32 .lg2 (asF32 false m e) false m e)

/-- A special function on a source encoding (R169–R171), before flushing. -/
def sfuVal (f : Sfu) (F : Fmt) (ieee : Bool) (x : Nat) : FR :=
  let sg (s : Bool) : Nat := if s then F.signBit else 0
  let one : Nat := (F.roundZ .rn false 1 0).x
  match F.value x with
  | .nan q => ⟨F.canonNan, if q then flNV else 0⟩
  | .inf s =>
    match f with
    | .rcp => ⟨sg s, 0⟩
    | .rsq => if s then F.invalid else ⟨0, 0⟩
    | .sqt => if s then F.invalid else ⟨F.inf false, 0⟩
    | .ex2 => if s then ⟨0, 0⟩ else ⟨F.inf false, 0⟩
    | .lg2 => if s then F.invalid else ⟨F.inf false, 0⟩
    | .sin => F.invalid
    | .cos => F.invalid
    | .tnh => ⟨one + sg s, 0⟩
  | .fin s m e =>
    if m = 0 then
      match f with
      | .rcp => ⟨F.inf s, flDZ⟩
      | .rsq => ⟨F.inf s, flDZ⟩
      | .sqt => ⟨sg s, 0⟩
      | .ex2 => ⟨one, 0⟩
      | .lg2 => ⟨F.inf true, flDZ⟩
      | .sin => ⟨sg s, 0⟩
      | .cos => ⟨one, 0⟩
      | .tnh => ⟨sg s, 0⟩
    else
      match f with
      | .rcp => sfuAlg .rcp F ieee x s m e
      | .rsq => if s then F.invalid else sfuAlg .rsq F ieee x s m e
      | .sqt => if s then F.invalid else sfuAlg .sqt F ieee x s m e
      | .ex2 => sfuEx2 F s m e
      | .lg2 => if s then F.invalid else sfuLg2 F m e
      | f => fromF32 F (sfuF32 f (asF32 s m e) s m e)

/-- A special function with flushing (R169). -/
def sfu (f : Sfu) (F : Fmt) (ieee fz : Bool) (x : Nat) : FR :=
  let a := ftzIn F fz x
  let r := ftzOut F fz (sfuVal f F ieee a.x)
  ⟨r.x, a.fl ||| r.fl⟩

end Sys2Proof.Machine
end

