-- ==== Sys2Proof/Machine/VecFp.lean ====
section
/-!
DEFINITION. Vector floating-point, special-function and conversion instructions (spec/06 R162–R174, spec/04 R97–R109).
-/
namespace Sys2Proof.Machine

/-- A floating-point source of half h after its modifiers (R162). -/
def fpIn (x : Group) (T : FType) (abs neg : Bool) (o : Opnd) (l h : Nat) : Nat :=
  signMods (FType.fmt T) abs neg (half (FType.packed T) (srcFp x T o l) h)

/-- Does SR_FMODE flush the format of a type (R102)? -/
def fz (x : Group) (T : FType) : Bool := (FType.fmt T).flush x.fmode

/-- A lane-wise floating-point result: f gives half h of lane l. -/
def fpwise (h : Hdr) (T : FType) (d : Opnd) (f : Group → Nat → Nat → FR) : Enc → State → Act :=
  plain fun e s => wrFp e d (FType.wide T) (s.g.active h.toGuard) (fun l => perHalf (FType.packed T) (f s.g l)) s

/-- `fadd` (R162). -/
def execFadd (h : Hdr) (fty : FType) (absa : Bool) (rnd : Rnd) (na nb : Bool) (d a b : Opnd) (s : State) :
    Host.Outcome State Fault Refusal :=
  issue (.fadd h fty absa rnd na nb d a b) s (fpwise h fty d fun x l i =>
    fAdd (FType.fmt fty) (fz x fty) rnd (fpIn x fty absa na a l i) (fpIn x fty false nb b l i))

/-- `fsub` (R162): a − b, b with its sign inverted. -/
def execFsub (h : Hdr) (fty : FType) (absa : Bool) (rnd : Rnd) (na nb : Bool) (d a b : Opnd) (s : State) :
    Host.Outcome State Fault Refusal :=
  issue (.fsub h fty absa rnd na nb d a b) s (fpwise h fty d fun x l i =>
    fAdd (FType.fmt fty) (fz x fty) rnd (fpIn x fty absa na a l i) (fpIn x fty false (!nb) b l i))

/-- `fmul` (R162). -/
def execFmul (h : Hdr) (fty : FType) (absa : Bool) (rnd : Rnd) (na nb : Bool) (d a b : Opnd) (s : State) :
    Host.Outcome State Fault Refusal :=
  issue (.fmul h fty absa rnd na nb d a b) s (fpwise h fty d fun x l i =>
    fMul (FType.fmt fty) (fz x fty) rnd (fpIn x fty absa na a l i) (fpIn x fty false nb b l i))

/-- `fma` (R162). -/
def execFma (h : Hdr) (fty : FType) (absa : Bool) (rnd : Rnd) (na nc : Bool) (d a b c : Opnd) (s : State) :
    Host.Outcome State Fault Refusal :=
  issue (.fma h fty absa rnd na nc d a b c) s (fpwise h fty d fun x l i =>
    fFma (FType.fmt fty) (fz x fty) rnd (fpIn x fty absa na a l i) (fpIn x fty false false b l i)
      (fpIn x fty false nc c l i))

/-- `fmin` (R163). -/
def execFmin (h : Hdr) (fty : FType) (absa na nb : Bool) (d a b : Opnd) (s : State) :
    Host.Outcome State Fault Refusal :=
  issue (.fmin h fty absa na nb d a b) s (fpwise h fty d fun x l i =>
    fMinMax (FType.fmt fty) (fz x fty) false (fpIn x fty absa na a l i) (fpIn x fty false nb b l i))

/-- `fmax` (R163). -/
def execFmax (h : Hdr) (fty : FType) (absa na nb : Bool) (d a b : Opnd) (s : State) :
    Host.Outcome State Fault Refusal :=
  issue (.fmax h fty absa na nb d a b) s (fpwise h fty d fun x l i =>
    fMinMax (FType.fmt fty) (fz x fty) true (fpIn x fty absa na a l i) (fpIn x fty false nb b l i))

/-- `fcmp` (R164). -/
def execFcmp (h : Hdr) (fty : FType) (absa : Bool) (fc : FCond) (d a b : Opnd) (s : State) :
    Host.Outcome State Fault Refusal :=
  issue (.fcmp h fty absa fc d a b) s (plain fun e s =>
    let x := s.g
    let act := x.active h.toGuard
    let r (l : Nat) : Bool × Flags :=
      fCmp (FType.fmt fty) (fz x fty) fc (fpIn x fty absa false a l 0) (fpIn x fty false false b l 0)
    raiseFlags (lanesFlags act (fun l => (r l).2) x.gw) (wrP e d act (fun l => (r l).1) s))

/-- `frnd` (R165). -/
def execFrnd (h : Hdr) (fty : FType) (rnd : Rnd) (d a : Opnd) (s : State) : Host.Outcome State Fault Refusal :=
  issue (.frnd h fty rnd d a) s (fpwise h fty d fun x l i =>
    fRnd (FType.fmt fty) (fz x fty) rnd (fpIn x fty false false a l i))

/-- `fclass` (R166). -/
def execFclass (h : Hdr) (fty : FType) (d a : Opnd) (s : State) : Host.Outcome State Fault Refusal :=
  issue (.fclass h fty d a) s (plain fun e s =>
    wrV e d false (s.g.active h.toGuard) (fun l => BitVec.ofNat 64 (fClass (FType.fmt fty) (srcFp s.g fty a l))) s)

/-- `fscl` (R167). Beyond ±5000 the result no longer depends on B. -/
def execFscl (h : Hdr) (fty : FType) (rnd : Rnd) (d a b : Opnd) (s : State) : Host.Outcome State Fault Refusal :=
  issue (.fscl h fty rnd d a b) s (fpwise h fty d fun x l i =>
    let n := (src32 x b l).toInt
    let n : Int := if n < -5000 then -5000 else if 5000 < n then 5000 else n
    fScl (FType.fmt fty) (fz x fty) rnd (fpIn x fty false false a l i) n)

/-- `fdp2` (R168). -/
def execFdp2 (h : Hdr) (fty : FType) (rnd : Rnd) (na nc : Bool) (d a b c : Opnd) (s : State) :
    Host.Outcome State Fault Refusal :=
  issue (.fdp2 h fty rnd na nc d a b c) s (plain fun e s =>
    let x := s.g
    wrFp e d false (x.active h.toGuard) (fun l =>
      fDp2 (FType.fmt fty) (x.fmode.getLsbD 0) rnd (fpIn x fty false na a l 0) (fpIn x fty false false b l 0)
        (fpIn x fty false na a l 1) (fpIn x fty false false b l 1)
        (signMods fmtF32 false nc (srcFp x .f32 c l))) s)

/-! ### Special functions (R155, R169–R171) -/

/-- The result enters the queue: the destination is written now and holds later uses until SFU_RETIRE (R155). -/
def sfuOp (f : Sfu) (h : Hdr) (T : FType) (ieee : Bool) (d a : Opnd) : Enc → State → Act :=
  plain fun e s =>
    let x := s.g
    let act := x.active h.toGuard
    let s := wrFp e d (FType.wide T) act (fun l =>
      sfu f (FType.fmt T) ieee (fz x T) (fpIn x T false false a l 0)) s
    if act = 0 then s
    else onG (fun y => { y with pend := y.pend ++ [⟨true, pendKeys e d (regsOf (FType.wide T)) x.runPos⟩] }) s

/-- `rcp` (R169). -/
def execRcp (h : Hdr) (fty : FType) (ieee : Bool) (d a : Opnd) (s : State) : Host.Outcome State Fault Refusal :=
  issue (.rcp h fty ieee d a) s (sfuOp .rcp h fty ieee d a)

/-- `rsq` (R169). -/
def execRsq (h : Hdr) (fty : FType) (d a : Opnd) (s : State) : Host.Outcome State Fault Refusal :=
  issue (.rsq h fty d a) s (sfuOp .rsq h fty false d a)

/-- `sqt` (R169). -/
def execSqt (h : Hdr) (fty : FType) (ieee : Bool) (d a : Opnd) (s : State) : Host.Outcome State Fault Refusal :=
  issue (.sqt h fty ieee d a) s (sfuOp .sqt h fty ieee d a)

/-- `ex2` (R169). -/
def execEx2 (h : Hdr) (fty : FType) (d a : Opnd) (s : State) : Host.Outcome State Fault Refusal :=
  issue (.ex2 h fty d a) s (sfuOp .ex2 h fty false d a)

/-- `lg2` (R169). -/
def execLg2 (h : Hdr) (fty : FType) (d a : Opnd) (s : State) : Host.Outcome State Fault Refusal :=
  issue (.lg2 h fty d a) s (sfuOp .lg2 h fty false d a)

/-- `sin` (R169). -/
def execSin (h : Hdr) (fty : FType) (d a : Opnd) (s : State) : Host.Outcome State Fault Refusal :=
  issue (.sin h fty d a) s (sfuOp .sin h fty false d a)

/-- `cos` (R169). -/
def execCos (h : Hdr) (fty : FType) (d a : Opnd) (s : State) : Host.Outcome State Fault Refusal :=
  issue (.cos h fty d a) s (sfuOp .cos h fty false d a)

/-- `tnh` (R169). -/
def execTnh (h : Hdr) (fty : FType) (d a : Opnd) (s : State) : Host.Outcome State Fault Refusal :=
  issue (.tnh h fty d a) s (sfuOp .tnh h fty false d a)

/-! ### Conversions -/

/-- The pattern that a conversion's source gives a lane (R55, R96). -/
def cvtIn (x : Group) (st : CType) (o : Opnd) (l : Nat) : DWord :=
  match st with
  | .f32 => BitVec.ofNat 64 (srcFp x .f32 o l)
  | .f64 => BitVec.ofNat 64 (srcFp x .f64 o l)
  | .f16 => BitVec.ofNat 64 (srcFp x .f16 o l)
  | .bf16 => BitVec.ofNat 64 (srcFp x .bf16 o l)
  | _ => srcBits x (CType.wide st) o l

/-- `cvt` (R106, R172). -/
def execCvt (h : Hdr) (dt st : CType) (rnd : Rnd) (sat : Bool) (d a : Opnd) (s : State) :
    Host.Outcome State Fault Refusal :=
  issue (.cvt h dt st rnd sat d a) s (plain fun e s =>
    let x := s.g
    let act := x.active h.toGuard
    let r (l : Nat) : DWord × Flags := convert dt st rnd sat x.fmode (cvtIn x st a l)
    raiseFlags (lanesFlags act (fun l => (r l).2) x.gw) (wrV e d (CType.wide dt) act (fun l => (r l).1) s))

/-- `cvtp` (R107, R173). -/
def execCvtp (h : Hdr) (fty : FType) (rnd : Rnd) (sat : Bool) (d a b : Opnd) (s : State) :
    Host.Outcome State Fault Refusal :=
  issue (.cvtp h fty rnd sat d a b) s (plain fun e s =>
    let x := s.g
    let z := x.fmode.getLsbD 0
    wrFp e d false (x.active h.toGuard) (fun l => perHalf true fun i =>
      convertF32 (FType.fmt fty) rnd sat z (srcFp x .f32 (if i = 0 then a else b) l)) s)

/-- `cvtq` (R108, R174): one byte of the destination, the others kept. -/
def execCvtq (h : Hdr) (e5 sat : Bool) (pos : BitVec 2) (d a b : Opnd) (s : State) :
    Host.Outcome State Fault Refusal :=
  issue (.cvtq h e5 sat pos d a b) s (plain fun e s =>
    let x := s.g
    let sh := 8 * pos.toNat
    wrFp e d false (x.active h.toGuard) (fun l =>
      let r := convertScaled (if e5 then fmtE5m2 else fmtE4m3) sat (x.fmode.getLsbD 0) (srcFp x .f32 a l)
        (srcFp x .f32 b l)
      let old := (x.curReg d l).toNat
      ⟨old - bits old sh 8 * 2 ^ sh + r.x * 2 ^ sh, r.fl⟩) s)

end Sys2Proof.Machine
end

