-- ==== Sys2Proof/Machine/Uniform.lean ====
section
/-!
DEFINITION. Uniform arithmetic (spec/05 R147–R151) over the integer operations that vectors share (spec/06 R156).
-/
namespace Sys2Proof.Machine

/-! ### Integer operations -/

/-- The final value of A + B, A − B and A × B + C (R149, R156). -/
def iAdd (T : IType) (sat : Bool) (a b : Int) : DWord := finalInt T sat (a + b)
def iSub (T : IType) (sat : Bool) (a b : Int) : DWord := finalInt T sat (a - b)
def iMad (T : IType) (sat : Bool) (a b c : Int) : DWord := finalInt T sat (a * b + c)

/-- Bits [2w−1:w] of the exact product (R149). -/
def iMulh (T : IType) (a b : Int) : DWord := patInt ((a * b) / 2 ^ IType.width T)

/-- The w-bit pattern of a value. -/
def iPat (T : IType) (x : Int) : Nat := (patInt x).toNat % 2 ^ IType.width T

/-- A << c, 0 when c ≥ w (R149). -/
def iShl (T : IType) (a : Int) (c : Nat) : DWord :=
  if IType.width T ≤ c then 0 else BitVec.ofNat 64 (iPat T a * 2 ^ c % 2 ^ IType.width T)

/-- A >> c with zeros (R149). -/
def iShr (T : IType) (a : Int) (c : Nat) : DWord :=
  if IType.width T ≤ c then 0 else BitVec.ofNat 64 (iPat T a / 2 ^ c)

/-- A >> c with copies of the top bit (R149). -/
def iSar (T : IType) (a : Int) (c : Nat) : DWord :=
  let w := IType.width T
  patInt (sextNat (iPat T a) w / 2 ^ (if w ≤ c then w else c))

/-- Comparison of two integers (R78). -/
def condHolds (k : Cond) (a b : Int) : Bool :=
  match k with
  | .eq => a == b
  | .ne => a != b
  | .lt => decide (a < b)
  | .le => decide (a ≤ b)
  | .gt => decide (b < a)
  | .ge => decide (b ≤ a)

/-- Leading zeros of the w-bit pattern. -/
def iClz (T : IType) (a : Int) : DWord :=
  let n := iPat T a
  BitVec.ofNat 64 (if n = 0 then IType.width T else IType.width T - 1 - Nat.log2 n)

/-- Set bits of the w-bit pattern. -/
def iPopc (T : IType) (a : Int) : DWord := BitVec.ofNat 64 (popCount (BitVec.ofNat 64 (iPat T a)))

/-- Width of the bit field that a control word names (R150). -/
def fieldWidth (w : Word) : Nat := Nat.min (bits w.toNat 8 6) (32 - bits w.toNat 0 5)

/-- `gbfx` and `bfx` (R150). -/
def bitExtract (signed : Bool) (a w : Word) : Word :=
  let wd := fieldWidth w
  let f := bits a.toNat (bits w.toNat 0 5) wd
  if signed && wd != 0 then BitVec.ofInt 32 (sextNat f wd) else BitVec.ofNat 32 f

/-- `gbfi` and `bfi` (R150). -/
def bitInsert (a b w : Word) : Word :=
  let off := bits w.toNat 0 5
  let m : Word := BitVec.ofNat 32 (2 ^ fieldWidth w - 1)
  (a &&& ~~~(m <<< off)) ||| ((b &&& m) <<< off)

/-! ### Meanings -/

/-- A uniform result that is a function of the group's registers. -/
def uni (h : Hdr) (wide : Bool) (d : Opnd) (f : Group → DWord) : Enc → State → Act :=
  plain fun e s => wrG e d wide (s.g.active h.toGuard) (f s.g) s

/-- A uniform operand as an integer of a type. -/
def uInt (x : Group) (T : IType) (o : Opnd) : Int := valInt T (srcU x (IType.wide T) o)

/-- A 32-bit uniform operand. -/
def u32 (x : Group) (o : Opnd) : Word := (srcU x false o).setWidth 32

/-- `gmov` (R149). -/
def execGmov (h : Hdr) (ty : IType) (d a : Opnd) (s : State) : Host.Outcome State Fault Refusal :=
  issue (.gmov h ty d a) s (uni h (IType.wide ty) d fun x => patInt (uInt x ty a))

/-- `gadd` (R149). -/
def execGadd (h : Hdr) (ty : IType) (sat : Bool) (d a b : Opnd) (s : State) : Host.Outcome State Fault Refusal :=
  issue (.gadd h ty sat d a b) s (uni h (IType.wide ty) d fun x => iAdd ty sat (uInt x ty a) (uInt x ty b))

/-- `gsub` (R149). -/
def execGsub (h : Hdr) (ty : IType) (sat : Bool) (d a b : Opnd) (s : State) : Host.Outcome State Fault Refusal :=
  issue (.gsub h ty sat d a b) s (uni h (IType.wide ty) d fun x => iSub ty sat (uInt x ty a) (uInt x ty b))

/-- `gmul` (R149). -/
def execGmul (h : Hdr) (ty : IType) (d a b : Opnd) (s : State) : Host.Outcome State Fault Refusal :=
  issue (.gmul h ty d a b) s (uni h (IType.wide ty) d fun x => iMad ty false (uInt x ty a) (uInt x ty b) 0)

/-- `gmulh` (R149). -/
def execGmulh (h : Hdr) (ty : IType) (d a b : Opnd) (s : State) : Host.Outcome State Fault Refusal :=
  issue (.gmulh h ty d a b) s (uni h (IType.wide ty) d fun x => iMulh ty (uInt x ty a) (uInt x ty b))

/-- `gmad` (R149). -/
def execGmad (h : Hdr) (ty : IType) (sat : Bool) (d a b c : Opnd) (s : State) : Host.Outcome State Fault Refusal :=
  issue (.gmad h ty sat d a b c) s
    (uni h (IType.wide ty) d fun x => iMad ty sat (uInt x ty a) (uInt x ty b) (uInt x ty c))

/-- `gand` (R149). -/
def execGand (h : Hdr) (ty : IType) (d a b : Opnd) (s : State) : Host.Outcome State Fault Refusal :=
  issue (.gand h ty d a b) s
    (uni h (IType.wide ty) d fun x => srcU x (IType.wide ty) a &&& srcU x (IType.wide ty) b)

/-- `gor` (R149). -/
def execGor (h : Hdr) (ty : IType) (d a b : Opnd) (s : State) : Host.Outcome State Fault Refusal :=
  issue (.gor h ty d a b) s
    (uni h (IType.wide ty) d fun x => srcU x (IType.wide ty) a ||| srcU x (IType.wide ty) b)

/-- `gxor` (R149). -/
def execGxor (h : Hdr) (ty : IType) (d a b : Opnd) (s : State) : Host.Outcome State Fault Refusal :=
  issue (.gxor h ty d a b) s
    (uni h (IType.wide ty) d fun x => srcU x (IType.wide ty) a ^^^ srcU x (IType.wide ty) b)

/-- `gshl` (R149). -/
def execGshl (h : Hdr) (ty : IType) (d a b : Opnd) (s : State) : Host.Outcome State Fault Refusal :=
  issue (.gshl h ty d a b) s (uni h (IType.wide ty) d fun x => iShl ty (uInt x ty a) (u32 x b).toNat)

/-- `gshr` (R149). -/
def execGshr (h : Hdr) (ty : IType) (d a b : Opnd) (s : State) : Host.Outcome State Fault Refusal :=
  issue (.gshr h ty d a b) s (uni h (IType.wide ty) d fun x => iShr ty (uInt x ty a) (u32 x b).toNat)

/-- `gsar` (R149). -/
def execGsar (h : Hdr) (ty : IType) (d a b : Opnd) (s : State) : Host.Outcome State Fault Refusal :=
  issue (.gsar h ty d a b) s (uni h (IType.wide ty) d fun x => iSar ty (uInt x ty a) (u32 x b).toNat)

/-- `gmin` (R149). -/
def execGmin (h : Hdr) (ty : IType) (d a b : Opnd) (s : State) : Host.Outcome State Fault Refusal :=
  issue (.gmin h ty d a b) s (uni h (IType.wide ty) d fun x =>
    patInt (if uInt x ty a ≤ uInt x ty b then uInt x ty a else uInt x ty b))

/-- `gmax` (R149). -/
def execGmax (h : Hdr) (ty : IType) (d a b : Opnd) (s : State) : Host.Outcome State Fault Refusal :=
  issue (.gmax h ty d a b) s (uni h (IType.wide ty) d fun x =>
    patInt (if uInt x ty a ≤ uInt x ty b then uInt x ty b else uInt x ty a))

/-- `gcmp` (R149). -/
def execGcmp (h : Hdr) (ty : IType) (cond : Cond) (d a b : Opnd) (s : State) : Host.Outcome State Fault Refusal :=
  issue (.gcmp h ty cond d a b) s
    (uni h false d fun x => if condHolds cond (uInt x ty a) (uInt x ty b) then 1 else 0)

/-- `gsel` (R149). -/
def execGsel (h : Hdr) (ty : IType) (d a b c : Opnd) (s : State) : Host.Outcome State Fault Refusal :=
  issue (.gsel h ty d a b c) s (uni h (IType.wide ty) d fun x => patInt (uInt x ty (if u32 x c ≠ 0 then a else b)))

/-- `glea` (R151). -/
def execGlea (h : Hdr) (sh : BitVec 3) (d a b : Opnd) (s : State) : Host.Outcome State Fault Refusal :=
  issue (.glea h sh d a b) s
    (uni h true d fun x => srcU x true a + ((u32 x b).signExtend 64 <<< sh.toNat))

/-- `gbfx` (R150). -/
def execGbfx (h : Hdr) (ty : IType) (d a b : Opnd) (s : State) : Host.Outcome State Fault Refusal :=
  issue (.gbfx h ty d a b) s
    (uni h false d fun x => (bitExtract (ty == .i32) (u32 x a) (u32 x b)).zeroExtend 64)

/-- `gbfi` (R150). -/
def execGbfi (h : Hdr) (d a b c : Opnd) (s : State) : Host.Outcome State Fault Refusal :=
  issue (.gbfi h d a b c) s (uni h false d fun x => (bitInsert (u32 x a) (u32 x b) (u32 x c)).zeroExtend 64)

/-- `gclz` (R149). -/
def execGclz (h : Hdr) (ty : IType) (d a : Opnd) (s : State) : Host.Outcome State Fault Refusal :=
  issue (.gclz h ty d a) s (uni h false d fun x => iClz ty (uInt x ty a))

/-- `gpopc` (R149). -/
def execGpopc (h : Hdr) (ty : IType) (d a : Opnd) (s : State) : Host.Outcome State Fault Refusal :=
  issue (.gpopc h ty d a) s (uni h false d fun x => iPopc ty (uInt x ty a))

end Sys2Proof.Machine
end

