-- ==== Sys2Proof/Machine/VecInt.lean ====
section
/-!
DEFINITION. Vector integer, predicate and mask instructions (spec/06 R152–R161, R522).
-/
namespace Sys2Proof.Machine

/-- A lane-wise vector result that is a function of the group's registers. -/
def lanewise (h : Hdr) (wide : Bool) (d : Opnd) (f : Group → Nat → DWord) : Enc → State → Act :=
  plain fun e s => wrV e d wide (s.g.active h.toGuard) (f s.g) s

/-- A lane-wise integer result of one, two or three operands of a type. -/
def lane1 (h : Hdr) (T : IType) (d a : Opnd) (f : Int → DWord) : Enc → State → Act :=
  lanewise h (IType.wide T) d fun x l => f (srcInt x T a l)
def lane2 (h : Hdr) (T : IType) (d a b : Opnd) (f : Int → Int → DWord) : Enc → State → Act :=
  lanewise h (IType.wide T) d fun x l => f (srcInt x T a l) (srcInt x T b l)
def lane3 (h : Hdr) (T : IType) (d a b c : Opnd) (f : Int → Int → Int → DWord) : Enc → State → Act :=
  lanewise h (IType.wide T) d fun x l => f (srcInt x T a l) (srcInt x T b l) (srcInt x T c l)

/-- A lane-wise shift: the count is an n32 of the lane (R156). -/
def laneShift (h : Hdr) (T : IType) (d a b : Opnd) (f : IType → Int → Nat → DWord) : Enc → State → Act :=
  lanewise h (IType.wide T) d fun x l => f T (srcInt x T a l) (src32 x b l).toNat

/-- A lane-wise operation on 32-bit patterns. -/
def laneW (h : Hdr) (d : Opnd) (f : Group → Nat → Word) : Enc → State → Act :=
  lanewise h false d fun x l => (f x l).zeroExtend 64

/-- A predicate result in the active lanes. -/
def predwise (h : Hdr) (d : Opnd) (f : Group → Nat → Bool) : Enc → State → Act :=
  plain fun e s => wrP e d (s.g.active h.toGuard) (f s.g) s

/-- `add` (R156). -/
def execAdd (h : Hdr) (ty : IType) (sat : Bool) (d a b : Opnd) (s : State) : Host.Outcome State Fault Refusal :=
  issue (.add h ty sat d a b) s (lane2 h ty d a b (iAdd ty sat))

/-- `sub` (R156). -/
def execSub (h : Hdr) (ty : IType) (sat : Bool) (d a b : Opnd) (s : State) : Host.Outcome State Fault Refusal :=
  issue (.sub h ty sat d a b) s (lane2 h ty d a b (iSub ty sat))

/-- `mul` (R156). -/
def execMul (h : Hdr) (ty : IType) (d a b : Opnd) (s : State) : Host.Outcome State Fault Refusal :=
  issue (.mul h ty d a b) s (lane2 h ty d a b fun x y => iMad ty false x y 0)

/-- `mulh` (R156). -/
def execMulh (h : Hdr) (ty : IType) (d a b : Opnd) (s : State) : Host.Outcome State Fault Refusal :=
  issue (.mulh h ty d a b) s (lane2 h ty d a b (iMulh ty))

/-- `mad` (R156). -/
def execMad (h : Hdr) (ty : IType) (sat : Bool) (d a b c : Opnd) (s : State) : Host.Outcome State Fault Refusal :=
  issue (.mad h ty sat d a b c) s (lane3 h ty d a b c (iMad ty sat))

/-- `and` (R156). -/
def execAnd (h : Hdr) (ty : IType) (d a b : Opnd) (s : State) : Host.Outcome State Fault Refusal :=
  issue (.and h ty d a b) s (lane2 h ty d a b fun x y => patInt x &&& patInt y)

/-- `or` (R156). -/
def execOr (h : Hdr) (ty : IType) (d a b : Opnd) (s : State) : Host.Outcome State Fault Refusal :=
  issue (.or h ty d a b) s (lane2 h ty d a b fun x y => patInt x ||| patInt y)

/-- `xor` (R156). -/
def execXor (h : Hdr) (ty : IType) (d a b : Opnd) (s : State) : Host.Outcome State Fault Refusal :=
  issue (.xor h ty d a b) s (lane2 h ty d a b fun x y => patInt x ^^^ patInt y)

/-- `shl` (R156). -/
def execShl (h : Hdr) (ty : IType) (d a b : Opnd) (s : State) : Host.Outcome State Fault Refusal :=
  issue (.shl h ty d a b) s (laneShift h ty d a b iShl)

/-- `shr` (R156). -/
def execShr (h : Hdr) (ty : IType) (d a b : Opnd) (s : State) : Host.Outcome State Fault Refusal :=
  issue (.shr h ty d a b) s (laneShift h ty d a b iShr)

/-- `sar` (R156). -/
def execSar (h : Hdr) (ty : IType) (d a b : Opnd) (s : State) : Host.Outcome State Fault Refusal :=
  issue (.sar h ty d a b) s (laneShift h ty d a b iSar)

/-- `min` (R156). -/
def execMin (h : Hdr) (ty : IType) (d a b : Opnd) (s : State) : Host.Outcome State Fault Refusal :=
  issue (.min h ty d a b) s (lane2 h ty d a b fun x y => patInt (if x ≤ y then x else y))

/-- `max` (R156). -/
def execMax (h : Hdr) (ty : IType) (d a b : Opnd) (s : State) : Host.Outcome State Fault Refusal :=
  issue (.max h ty d a b) s (lane2 h ty d a b fun x y => patInt (if x ≤ y then y else x))

/-- `abs` (R156). -/
def execAbs (h : Hdr) (ty : IType) (sat : Bool) (d a : Opnd) (s : State) : Host.Outcome State Fault Refusal :=
  issue (.abs h ty sat d a) s (lane1 h ty d a fun x => finalInt ty sat x.natAbs)

/-- `sel` (R156). -/
def execSel (h : Hdr) (ty : IType) (d a b c : Opnd) (s : State) : Host.Outcome State Fault Refusal :=
  issue (.sel h ty d a b c) s
    (lanewise h (IType.wide ty) d fun x l => patInt (srcInt x ty (if (srcP x c).getLsbD l then a else b) l))

/-- `cmp` (R156). -/
def execCmp (h : Hdr) (ty : IType) (cond : Cond) (d a b : Opnd) (s : State) : Host.Outcome State Fault Refusal :=
  issue (.cmp h ty cond d a b) s (predwise h d fun x l => condHolds cond (srcInt x ty a l) (srcInt x ty b l))

/-- `bfx` (R157). -/
def execBfx (h : Hdr) (ty : IType) (d a b : Opnd) (s : State) : Host.Outcome State Fault Refusal :=
  issue (.bfx h ty d a b) s (laneW h d fun x l => bitExtract (ty == .i32) (src32 x a l) (src32 x b l))

/-- `bfi` (R157). -/
def execBfi (h : Hdr) (d a b c : Opnd) (s : State) : Host.Outcome State Fault Refusal :=
  issue (.bfi h d a b c) s (laneW h d fun x l => bitInsert (src32 x a l) (src32 x b l) (src32 x c l))

/-- `clz` (R157). -/
def execClz (h : Hdr) (ty : IType) (d a : Opnd) (s : State) : Host.Outcome State Fault Refusal :=
  issue (.clz h ty d a) s (lanewise h false d fun x l => iClz ty (srcInt x ty a l))

/-- `popc` (R157). -/
def execPopc (h : Hdr) (ty : IType) (d a : Opnd) (s : State) : Host.Outcome State Fault Refusal :=
  issue (.popc h ty d a) s (lanewise h false d fun x l => iPopc ty (srcInt x ty a l))

/-- The low w bits of a pattern in reverse order. -/
def bitReverse (w : Nat) (x : DWord) : DWord := maskUpTo (fun i => x.getLsbD (w - 1 - i)) w

/-- `brev` (R157). -/
def execBrev (h : Hdr) (ty : IType) (d a : Opnd) (s : State) : Host.Outcome State Fault Refusal :=
  issue (.brev h ty d a) s (lane1 h ty d a fun x => bitReverse (IType.width ty) (patInt x))

/-- Byte i of a word, as a signed or unsigned number. -/
def byteInt (n : Bool) (w : Word) (i : Nat) : Int :=
  let b := bits w.toNat (8 * i) 8
  if n then b else sextNat b 8

/-- `idp4` (R157, R522). -/
def execIdp4 (h : Hdr) (aN bN sat : Bool) (d a b c : Opnd) (s : State) : Host.Outcome State Fault Refusal :=
  issue (.idp4 h aN bN sat d a b c) s (lanewise h false d fun x l =>
    let p (i : Nat) : Int := byteInt aN (src32 x a l) i * byteInt bN (src32 x b l) i
    finalInt .i32 sat ((src32 x c l).toInt + p 0 + p 1 + p 2 + p 3))

/-- Sum of the absolute differences of the elements of two words (R157). -/
def absDiffs (w : Nat) (a b : Word) : Nat :=
  (List.range (32 / w)).foldl (fun t j =>
    let p := bits a.toNat (w * j) w
    let q := bits b.toNat (w * j) w
    t + (if p ≤ q then q - p else p - q)) 0

/-- `sad` (R157). -/
def execSad (h : Hdr) (ty : IType) (d a b c : Opnd) (s : State) : Host.Outcome State Fault Refusal :=
  issue (.sad h ty d a b c) s
    (laneW h d fun x l => src32 x c l + BitVec.ofNat 32 (absDiffs (IType.width ty) (src32 x a l) (src32 x b l)))

/-- `addc` (R157, R158): the sum and the carry of every active lane. -/
def execAddc (h : Hdr) (d a b c : Opnd) (s : State) : Host.Outcome State Fault Refusal :=
  issue (.addc h d a b c) s (plain fun e s =>
    let x := s.g
    let act := x.active h.toGuard
    let sum (l : Nat) : Nat := (src32 x a l).toNat + (src32 x b l).toNat + (if (srcP x c).getLsbD l then 1 else 0)
    let s := wrV e d false act (fun l => BitVec.ofNat 64 (sum l % 2 ^ 32)) s
    match c with
    | .p n => onG (fun y => y.setP n.toNat ((y.pAt n.toNat &&& ~~~act) ||| maskOf fun l => act.getLsbD l && bit (sum l) 32)) s
    | _ => s)

/-- `pand` (R159). -/
def execPand (h : Hdr) (d a b : Opnd) (s : State) : Host.Outcome State Fault Refusal :=
  issue (.pand h d a b) s (predwise h d fun x l => (srcP x a).getLsbD l && (srcP x b).getLsbD l)

/-- `por` (R159). -/
def execPor (h : Hdr) (d a b : Opnd) (s : State) : Host.Outcome State Fault Refusal :=
  issue (.por h d a b) s (predwise h d fun x l => (srcP x a).getLsbD l || (srcP x b).getLsbD l)

/-- `pxor` (R159). -/
def execPxor (h : Hdr) (d a b : Opnd) (s : State) : Host.Outcome State Fault Refusal :=
  issue (.pxor h d a b) s (predwise h d fun x l => (srcP x a).getLsbD l != (srcP x b).getLsbD l)

/-- `pnot` (R159). -/
def execPnot (h : Hdr) (d a : Opnd) (s : State) : Host.Outcome State Fault Refusal :=
  issue (.pnot h d a) s (predwise h d fun x l => !(srcP x a).getLsbD l)

/-- `vany` (R160). -/
def execVany (h : Hdr) (d a : Opnd) (s : State) : Host.Outcome State Fault Refusal :=
  issue (.vany h d a) s (predwise h d fun x _ => x.active h.toGuard &&& srcP x a != 0)

/-- `vall` (R160). -/
def execVall (h : Hdr) (d a : Opnd) (s : State) : Host.Outcome State Fault Refusal :=
  issue (.vall h d a) s (predwise h d fun x _ => x.active h.toGuard &&& ~~~(srcP x a) == 0)

/-- `vbal` (R161). -/
def execVbal (h : Hdr) (d a : Opnd) (s : State) : Host.Outcome State Fault Refusal :=
  issue (.vbal h d a) s (uni h true d fun x => x.active h.toGuard &&& srcP x a)

/-- `mbcnt` (R161). -/
def execMbcnt (h : Hdr) (d a : Opnd) (s : State) : Host.Outcome State Fault Refusal :=
  issue (.mbcnt h d a) s (lanewise h false d fun x l => BitVec.ofNat 64 (popUpTo (srcU x true a) l))

end Sys2Proof.Machine
end

