-- ==== Sys2Proof/Machine/Cross.lean ====
section
/-!
DEFINITION. Cross-lane instructions (spec/06 R175–R183).
-/
namespace Sys2Proof.Machine

/-- A vector result whose lanes may be left unchanged (R175). -/
def lanewiseOpt (h : Hdr) (T : IType) (d : Opnd) (f : Group → Nat → Option DWord) : Enc → State → Act :=
  plain fun e s => wrVec e d (regsOf (IType.wide T)) (s.g.active h.toGuard)
    (fun l => (f s.g l).map BitVec.toNat) (fun _ => false) s

/-- The value of a lane of a vector operand of a type. -/
def laneVal (x : Group) (T : IType) (o : Opnd) (l : Nat) : DWord := patInt (srcInt x T o l)

/-- `shfl` (R176). -/
def execShfl (h : Hdr) (ty : IType) (mode : ShflMode) (d a b : Opnd) (s : State) :
    Host.Outcome State Fault Refusal :=
  issue (.shfl h ty mode d a b) s (lanewiseOpt h ty d fun x l =>
    let f := shflFrom mode l (src32 x b l)
    if validLane (x.active h.toGuard) x.gw f then some (laneVal x ty a f.toNat) else none)

/-- `rdfl` (R177). -/
def execRdfl (h : Hdr) (ty : IType) (d a : Opnd) (s : State) : Host.Outcome State Fault Refusal :=
  issue (.rdfl h ty d a) s (uni h (IType.wide ty) d fun x => laneVal x ty a (lowLane (x.active h.toGuard)))

/-- `rdln` (R177). -/
def execRdln (h : Hdr) (ty : IType) (d a b : Opnd) (s : State) : Host.Outcome State Fault Refusal :=
  issue (.rdln h ty d a b) s (plain fun e s =>
    let x := s.g
    let act := x.active h.toGuard
    let f := (u32 x b).toNat
    let ok := validLane act x.gw f
    match d with
    | .g _ => wrG e d (IType.wide ty) (if ok then act else 0) (laneVal x ty a f) s
    | _ => wrVec e d (regsOf (IType.wide ty)) act
        (fun _ => if ok then some (laneVal x ty a f).toNat else none) (fun _ => false) s)

/-! ### Reductions -/

/-- A node of the tree: empty, or a value with the flags raised so far (R178). -/
abbrev RNode := Option (DWord × Flags)

/-- One combination (R178). -/
def redOp (T : IType) (op : RedOp) (fz : Bool) (a b : DWord) : DWord × Flags :=
  let x := valInt T a
  let y := valInt T b
  match op with
  | .add => (wrapInt T (x + y), 0)
  | .min => (patInt (if x ≤ y then x else y), 0)
  | .max => (patInt (if x ≤ y then y else x), 0)
  | .and => (a &&& b, 0)
  | .or => (a ||| b, 0)
  | .xor => (a ^^^ b, 0)
  | .fadd =>
    let r := fAdd fmtF32 fz .rn (a.toNat % 2 ^ 32) (b.toNat % 2 ^ 32)
    (BitVec.ofNat 64 r.x, r.fl)

/-- Combine two nodes (R178). -/
def redNode (T : IType) (op : RedOp) (fz : Bool) (a b : RNode) : RNode :=
  match a, b with
  | none, b => b
  | a, none => a
  | some (u, f), some (v, g) =>
    let r := redOp T op fz u v
    some (r.1, f ||| g ||| r.2)

/-- One level of the tree: neighbours combine. -/
def redLevel (c : RNode → RNode → RNode) : List RNode → List RNode
  | a :: b :: r => c a b :: redLevel c r
  | r => r

/-- n levels. -/
def redTree (c : RNode → RNode → RNode) : Nat → List RNode → List RNode
  | 0, xs => xs
  | n + 1, xs => redTree c n (redLevel c xs)

/-- The value of a reduction's source in a lane: `.fadd` reads it as f32 (R55, R178). -/
def redVal (x : Group) (T : IType) (op : RedOp) (a : Opnd) (l : Nat) : DWord :=
  if op = .fadd then BitVec.ofNat 64 (srcFp x .f32 a l) else laneVal x T a l

/-- The leaves: the active lanes' values. -/
def redLeaves (x : Group) (T : IType) (op : RedOp) (a : Opnd) (act : Mask) : List RNode :=
  (List.range x.gw).map fun l => if act.getLsbD l then some (redVal x T op a l, 0) else none

/-- `lred` (R178). -/
def execLred (h : Hdr) (ty : IType) (op : RedOp) (d a : Opnd) (s : State) : Host.Outcome State Fault Refusal :=
  issue (.lred h ty op d a) s (plain fun e s =>
    let x := s.g
    let act := x.active h.toGuard
    match redTree (redNode ty op (x.fmode.getLsbD 0)) 6 (redLeaves x ty op a act) with
    | some (v, f) :: _ => raiseFlags f (wrG e d (IType.wide ty) act v s)
    | _ => wrG e d (IType.wide ty) 0 0 s)

/-- One step of the prefix by distance d (R179). -/
def scanLevel (c : RNode → RNode → RNode) (d : Nat) (ys : List RNode) : List RNode :=
  (List.range ys.length).map fun l => if d ≤ l then c (ys.getD (l - d) none) (ys.getD l none) else ys.getD l none

/-- The prefix for distances 1, 2, 4, …, n of them. -/
def scanAll (c : RNode → RNode → RNode) : Nat → List RNode → List RNode
  | 0, ys => ys
  | n + 1, ys => scanLevel c (2 ^ n) (scanAll c n ys)

/-- The identity of an operation (R179). -/
def redIdentity (T : IType) (op : RedOp) : DWord :=
  match op with
  | .min => patInt (IType.maxVal T)
  | .max => patInt (IType.minVal T)
  | .and => BitVec.allOnes 64
  | _ => 0

/-- The highest active lane below l. -/
def laneBelow (act : Mask) (l : Nat) : Option Nat := ((List.range l).filter fun m => act.getLsbD m).getLast?

/-- `scan` (R179). -/
def execScan (h : Hdr) (ty : IType) (op : RedOp) (exc : Bool) (d a : Opnd) (s : State) :
    Host.Outcome State Fault Refusal :=
  issue (.scan h ty op exc d a) s (plain fun e s =>
    let x := s.g
    let act := x.active h.toGuard
    let ys := scanAll (redNode ty op (x.fmode.getLsbD 0)) 6 (redLeaves x ty op a act)
    let at_ (l : Nat) : DWord × Flags := (ys.getD l none).getD (0, 0)
    let f (l : Nat) : DWord :=
      if exc then (match laneBelow act l with | some m => (at_ m).1 | none => redIdentity ty op) else (at_ l).1
    raiseFlags (lanesFlags act (fun l => (at_ l).2) x.gw) (wrV e d (IType.wide ty) act f s))

/-! ### Packing and permutation -/

/-- The lanes that `cmpk` and `expd` take, ascending. -/
def pickedLanes (x : Group) (h : Hdr) (b : Opnd) : List Nat := lanesOf (x.active h.toGuard &&& srcP x b)

/-- `cmpk` (R180): the count, then the elements. -/
def execCmpk (h : Hdr) (ty : IType) (d a b c : Opnd) (s : State) : Host.Outcome State Fault Refusal :=
  issue (.cmpk h ty d a b c) s (plain fun e s =>
    let x := s.g
    let ls := pickedLanes x h b
    if x.active h.toGuard = 0 then wrVec e d (regsOf (IType.wide ty)) 0 (fun _ => none) (fun _ => false) s
    else
      let s := match c with
        | .g r => onG (fun y => y.setG r.toNat (BitVec.ofNat 32 ls.length) false) s
        | _ => s
      wrVec e d (regsOf (IType.wide ty)) (laneMask ls.length)
        (fun n => (ls[n]?).map fun l => (laneVal x ty a l).toNat) (fun _ => false) s)

/-- `expd` (R181). -/
def execExpd (h : Hdr) (ty : IType) (d a b : Opnd) (s : State) : Host.Outcome State Fault Refusal :=
  issue (.expd h ty d a b) s (lanewiseOpt h ty d fun x l =>
    let ls := pickedLanes x h b
    if ls.contains l then some (laneVal x ty a (ls.takeWhile (· < l)).length) else none)

/-- Byte x of the table that the bytes of A form, if its lane is valid (R182). -/
def tableByte (x : Group) (act : Mask) (a : Opnd) (i : Nat) : Option Nat :=
  if validLane act x.gw (i / 4 : Nat) then some (bits (src32 x a (i / 4)).toNat (8 * (i % 4)) 8) else none

/-- Does a byte of the indices in a lane look up a byte of the table (R182)? -/
def looksUp (x : Group) (act : Mask) (a b : Opnd) (l : Nat) : Bool :=
  (List.range 4).any fun i => (tableByte x act a (bits (src32 x b l).toNat (8 * i) 8)).isSome

/-- The element of `bperm.byte` in a lane: bytes that look up none keep their value (R182). -/
def permByte (x : Group) (act : Mask) (d a b : Opnd) (l : Nat) : Nat :=
  let one (i : Nat) : Nat :=
    (tableByte x act a (bits (src32 x b l).toNat (8 * i) 8)).getD (bits (x.curReg d l).toNat (8 * i) 8)
  one 0 + 2 ^ 8 * one 1 + 2 ^ 16 * one 2 + 2 ^ 24 * one 3

/-- Does a byte of the element keep its value? -/
def keepsByte (x : Group) (act : Mask) (a b : Opnd) (l : Nat) : Bool :=
  (List.range 4).any fun i => (tableByte x act a (bits (src32 x b l).toNat (8 * i) 8)).isNone

/-- `bperm` (R182). A lane that looks up no byte is unchanged, mark and all; an element of which some bytes keep their values
keeps its mark (log 93). -/
def execBperm (h : Hdr) (byte : Bool) (d a b : Opnd) (s : State) : Host.Outcome State Fault Refusal :=
  issue (.bperm h byte d a b) s (plain fun e s =>
    let x := s.g
    let act := x.active h.toGuard
    if byte then
      wrVec e d 1 act (fun l => if looksUp x act a b l then some (permByte x act d a b l) else none)
        (fun l => keepsByte x act a b l && x.curMark d l) s
    else
      wrVec e d 1 act (fun l => ((lanesOf act).filter fun m => (src32 x b m).toNat == l).getLast?.map fun m =>
        (laneVal x .i32 a m).toNat) (fun _ => false) s)

end Sys2Proof.Machine
end

