-- ==== Sys2Proof/Machine/Encoder.lean ====
section
/-!
DEFINITION. Encoder lanes and frame rings (spec/19 R461, R462, spec/20 R472). What a codec writes is open.
-/
namespace Sys2Proof.Machine

/-- The lane of a slice. -/
def getLane (s : State) (slice : Nat) : Option Lane := (s.lanes.find? (·.1 == slice)).map (·.2)

/-- Set the lane of a slice. -/
def setLane (slice : Nat) (l : Lane) (s : State) : State :=
  { s with lanes := (slice, l) :: s.lanes.filter (·.1 != slice) }

/-- Change the lane of a slice. -/
def updLane (slice : Nat) (f : Lane → Lane) (s : State) : State :=
  { s with lanes := s.lanes.map fun p => if p.1 = slice then (slice, f p.2) else p }

/-- A frame ring of a loaded context. -/
def getFrame (s : State) (fn ring : Nat) : Option FrameRing := ((getFn s fn).ctx).bind fun c => c.frames[ring]?

/-- Change a frame ring. -/
def updFrame (fn ring : Nat) (f : FrameRing → FrameRing) (s : State) : State :=
  updCtx fn (fun c => { c with frames := modAt c.frames ring f }) s

/-- Is a frame command well formed (R461)? -/
def frameOk (b : List Byte) : Bool :=
  let f := field b
  decide (f 0 1 ≤ 1) && decide (f 1 1 ≤ 2) && decide (f 2 2 ≤ 1)
    && decide (64 ≤ f 4 2) && decide (f 4 2 ≤ 3840) && f 4 2 % 8 == 0
    && decide (64 ≤ f 6 2) && decide (f 6 2 ≤ 2160) && f 6 2 % 8 == 0
    && f 8 8 % 256 == 0 && f 0x10 4 % 256 == 0 && f 0x18 8 % 4 == 0 && f 0x28 24 == 0

/-- Rings of the tenants of a slice, in the order in which the lane serves them after the one it served last: those with a
command that no lane works on. -/
def frameWork (s : State) (slice : Nat) : List (Nat × Nat) :=
  let all := (List.range 18).flatMap fun t => if (slicesOf s t).contains slice then (List.range 4).map fun i => (t, i) else []
  let waiting (p : Nat × Nat) : Bool := match getFrame s p.1 p.2 with
    | some r => (match vNat s p.1 r.notify 4 with | some n => n != r.n | none => false) &&
        !s.lanes.any fun l => l.2.busy && l.2.fn == p.1 && l.2.ring == p.2
    | none => false
  let last := match getLane s slice with | some l => 4 * l.fn + l.ring | none => 0
  let after (p : Nat × Nat) : Bool := decide (last < 4 * p.1 + p.2)
  (all.filter after ++ all.filter fun p => !after p).filter waiting

/-- ENCODE_FRAME_START (R461, R462): the lane reads the next frame command once. -/
def execEncodeFrameStart (slice : Nat) (s : State) : Host.Outcome State Fault Refusal :=
  let idle := match getLane s slice with | some l => !l.busy | none => true
  .next (
    if s.boot.stage ≠ 2 ∨ !(getSlice s slice).up ∨ !idle then s
    else match frameWork s slice with
      | [] => s
      | (fn, i) :: _ => match getFrame s fn i with
        | none => s
        | some r =>
          let va := r.cmdBase + 64 * (r.n % 2 ^ r.logn)
          let cmd := vBytes s fn va needR 64
          let bs := (cmd.toOption).getD []
          let st := if bs = [] ∨ vPoison s fn va 64 then 3 else if frameOk bs then 1 else 4
          setLane slice { fn := fn, ring := i, busy := true, cmd := bs, rows := (field bs 6 2 + 63) / 64, done := 0,
                          seen := 0, ready := st != 1, status := st, bytes := 0 } s)

/-- Bytes of a surface row (R461). -/
def surfaceRow (b : List Byte) : Nat :=
  field b 4 2 * (if field b 1 1 = 0 then 4 else if field b 1 1 = 1 then 1 else 2)

/-- Can the lane read the rows of a superblock row: no fault, no poison? The second plane of a two-plane surface lies after
the rows of the first, with half as many. -/
def rowReads (s : State) (fn : Nat) (b : List Byte) (r : Nat) : Bool :=
  let h := field b 6 2
  let n := surfaceRow b
  let ok (y : Nat) : Bool :=
    let va := field b 8 8 + field b 0x10 4 * y
    (vBytes s fn va needR n).isOk && !vPoison s fn va n
  ((List.range 64).all fun i => decide (h ≤ 64 * r + i) || ok (64 * r + i)) &&
    (field b 1 1 == 0 || (List.range 32).all fun i => decide (h / 2 ≤ 32 * r + i) || ok (h + 32 * r + i))

/-- Bytes of an encoded frame: open, but no more than the ring takes. -/
def frameBytes (s : State) (l : Lane) (logb : Nat) : Nat :=
  Config.free .codec [s.fresh, bytesNat l.cmd] % (2 ^ logb - 15)

/-- SUPERBLOCK_ROW_ENCODE (R461): PROGRESS is read as an acquire; a row is encoded once the value is above it. A fault or
poison ends the frame with status 3. -/
def execSuperblockRowEncode (slice : Nat) (s : State) : Host.Outcome State Fault Refusal :=
  .next (match getLane s slice with
    | none => s
    | some l =>
      if !l.busy ∨ l.ready then s
      else match vNat s l.fn (field l.cmd 0x18 8) 4 with
        | none => updLane slice (fun l => { l with ready := true, status := 3 }) s
        | some v =>
          let seen := Nat.max l.seen v
          if seen ≤ l.done then updLane slice (fun l => { l with seen := seen }) s
          else if !rowReads s l.fn l.cmd l.done then updLane slice (fun l => { l with ready := true, status := 3 }) s
          else
            let last := l.rows ≤ l.done + 1
            let logb := match getFrame s l.fn l.ring with | some r => r.logb | none => 16
            let n := if last then frameBytes s l logb else 0
            bump (updLane slice (fun l => { l with seen := seen, done := l.done + 1, ready := last, bytes := n }) s))

/-- FRAME_ABANDON (R461): PROGRESS had not come to the rows of the frame by DEADLINE + 1 ms. -/
def execFrameAbandon (slice : Nat) (s : State) : Host.Outcome State Fault Refusal :=
  .next (match getLane s slice with
    | none => s
    | some l =>
      let now := Nat.max l.seen ((vNat s l.fn (field l.cmd 0x18 8) 4).getD 0)
      if !l.busy ∨ l.ready ∨ s.tick < field l.cmd 0x20 8 + 1000000 ∨ l.rows ≤ now then s
      else updLane slice (fun l => { l with ready := true, status := 2, bytes := 0 }) s)

/-- The packet of a frame (R461, R462): header, data, zero bytes to a multiple of 16. -/
def packetOf (s : State) (l : Lane) (n : Nat) : List Byte :=
  let len := if l.status = 1 then l.bytes else 0
  natBytes n 4 ++ natBytes len 4 ++ natBytes l.status 1 ++ natBytes (field l.cmd 2 2 % 2) 1 ++ natBytes 0 6
    ++ (List.range len).map (fun i => Config.bits .codec 8 [s.fresh, bytesNat l.cmd, i])
    ++ List.replicate ((16 - len % 16) % 16) 0

/-- Write bytes into a ring of 2^logb bytes, from a count on, where they translate. -/
def ringWrite (fn base logb : Nat) : Nat → List Byte → State → State
  | _, [], s => s
  | at_, b :: bs, s => ringWrite fn base logb (at_ + 1) bs ((vWriteAll fn (base + at_ % 2 ^ logb) [b] s).getD s)

/-- PACKET_WRITE (R462): once the bitstream ring has room, the packet is written, BSPROD goes past it, DONE advances, and
the lane is free. -/
def execPacketWrite (slice : Nat) (s : State) : Host.Outcome State Fault Refusal :=
  .next (match getLane s slice with
    | none => s
    | some l =>
      if !l.busy ∨ !l.ready then s
      else match getFrame s l.fn l.ring with
        | none => updLane slice (fun l => { l with busy := false, ready := false }) s
        | some r => match vNat s l.fn r.bsCons 4 with
          | none => s
          | some cons =>
            let pkt := packetOf s l r.n
            if 2 ^ r.logb < (r.prod + 2 ^ 32 - cons % 2 ^ 32) % 2 ^ 32 + pkt.length then s
            else
              let prod := (r.prod + pkt.length) % 2 ^ 32
              let n := (r.n + 1) % 2 ^ 32
              let s := ringWrite l.fn r.bsBase r.logb r.prod pkt s
              let s := (vWriteAll l.fn r.bsProd (natBytes prod 4) s).getD s
              let s := (vWriteAll l.fn r.done (natBytes n 4) s).getD s
              let s := updFrame l.fn l.ring (fun r => { r with n := n, prod := prod }) s
              bump (updLane slice (fun l => { l with busy := false, ready := false }) s))

end Sys2Proof.Machine
end

