-- ==== Sys2Proof/Machine/Observe.lean ====
section
/-!
DEFINITION. `ctrd` and `mark` (spec/09 R278, R279, spec/17 R423–R428).
-/
namespace Sys2Proof.Machine

/-- The counter a selector names, for the group in focus; none where the selector is refused (R278). A bank counter
whose CB_CFG is 0 is not configured and reads zero. -/
def counterAt (s : State) (sel : Nat) : Option DWord :=
  let i := bits sel 0 6
  let core := coreOf s.t s.g
  if bits sel 16 16 ≠ 0 ∨ bits sel 6 6 ≠ 0 then none
  else match bits sel 12 4 with
    | 0 =>
      let k := obsKey s.t.tag (core / 12) (256 * (i / 16))
      some (if peek s.obs (k + 0x80 + 4 * (i % 16)) = 0 then 0 else peek s.obs (k + 8 * (i % 16)))
    | 1 =>
      if 16 < i then none else some (peek s.elig (2 ^ 16 * s.t.tag + 32 * (4 * core + s.g.slot % 64 / 16) + i))
    | 2 =>
      if 15 < i then none else some (peek s.stall (2 ^ 16 * s.t.tag + 16 * (4 * core + s.g.slot % 64 / 16) + i))
    | 3 => if 15 < i then none else some (peek s.evc (2 ^ 16 * s.t.tag + 16 * core + i))
    | _ => none

/-- `ctrd` (R278). -/
def execCtrd (h : Hdr) (d a : Opnd) (s : State) : Host.Outcome State Fault Refusal :=
  issue (.ctrd h d a) s fun e s =>
    let act := s.g.active h.toGuard
    if act = 0 then .ok (seqNext e (wrG e d true 0 0 s))
    else match counterAt s (src32 s.g a 0).toNat with
      | none => .fault { cause := cILLOPERAND, opf := 2 }
      | some v => .ok (seqNext e (wrG e d true act v s))

/-- The PC that a `mark` record carries: in a PC-match handler the matched PC (R279). -/
def markPc (x : Group) : VA :=
  match x.sh with
  | some h => if h.kind = .pcMatch then x.tpc else x.pc
  | none => x.pc

/-- `mark` (R279). -/
def execMark (h : Hdr) (a b : Opnd) (s : State) : Host.Outcome State Fault Refusal :=
  issue (.mark h a b) s fun e s =>
    let act := s.g.active h.toGuard
    if act = 0 then .ok (seqNext e s)
    else
      let tag := (src32 s.g a 0).toNat
      .ok (seqNext e (traceMine (0x40 + tag % 16) (markPc s.g) (src32 s.g b 0) act (countMine 15 1 s)))

end Sys2Proof.Machine
end

