-- ==== Sys2Proof/Machine/Texel.lean ====
section
/-!
DEFINITION. Texture descriptors, level geometry and the values of texels (spec/07 R223–R225): the plain formats, the
sRGB curve, and the BC1 to BC7 block formats, which R223 has decode as published (log 40).
-/
namespace Sys2Proof.Machine

/-! ### Descriptors and geometry -/

/-- How a texel's bits become a value (R223, R225). -/
inductive TexKind where
  | unorm | snorm | uint | sint | float | bc
  deriving DecidableEq, Repr

/-- A texture format (R223): channels, bits of a channel, bytes of a texel or of a 4 × 4 block. -/
structure TexFmt where
  kind : TexKind
  ch : Nat
  chBits : Nat
  bytes : Nat
  deriving DecidableEq, Repr

/-- The formats of R223. -/
def texFmt (code : Nat) : Option TexFmt :=
  match code with
  | 0 => some ⟨.unorm, 1, 8, 1⟩
  | 1 => some ⟨.unorm, 2, 8, 2⟩
  | 2 => some ⟨.unorm, 4, 8, 4⟩
  | 3 => some ⟨.snorm, 1, 8, 1⟩
  | 4 => some ⟨.snorm, 4, 8, 4⟩
  | 5 => some ⟨.uint, 1, 8, 1⟩
  | 6 => some ⟨.uint, 4, 8, 4⟩
  | 7 => some ⟨.unorm, 1, 16, 2⟩
  | 8 => some ⟨.unorm, 2, 16, 4⟩
  | 9 => some ⟨.unorm, 4, 16, 8⟩
  | 10 => some ⟨.float, 1, 16, 2⟩
  | 11 => some ⟨.float, 2, 16, 4⟩
  | 12 => some ⟨.float, 4, 16, 8⟩
  | 13 => some ⟨.uint, 1, 16, 2⟩
  | 14 => some ⟨.uint, 4, 16, 8⟩
  | 15 => some ⟨.float, 1, 32, 4⟩
  | 16 => some ⟨.float, 2, 32, 8⟩
  | 17 => some ⟨.float, 4, 32, 16⟩
  | 18 => some ⟨.uint, 1, 32, 4⟩
  | 19 => some ⟨.uint, 4, 32, 16⟩
  | 20 => some ⟨.sint, 1, 32, 4⟩
  | 32 => some ⟨.bc, 4, 0, 8⟩
  | 33 | 34 => some ⟨.bc, 4, 0, 16⟩
  | 35 | 36 => some ⟨.bc, 1, 0, 8⟩
  | 37 | 38 => some ⟨.bc, 2, 0, 16⟩
  | 39 | 40 => some ⟨.bc, 3, 0, 16⟩
  | 41 => some ⟨.bc, 4, 0, 16⟩
  | _ => none

/-- A texture (R223): `dim` 0 1-D, 1 2-D, 2 3-D, 3 2-D array; levels, depth, height and width as numbers. -/
structure Tex where
  code : Nat
  fmt : TexFmt
  srgb : Bool
  dim : Nat
  levels : Nat
  depth : Nat
  height : Nat
  width : Nat
  base : Nat
  deriving DecidableEq, Repr

/-- The texture of a descriptor; none where a field is reserved or breaks R223. -/
def Tex.parse (x : Nat) : Option Tex :=
  let code := bits x 110 6
  let srgb := bit x 116
  match texFmt code with
  | none => none
  | some f =>
    if bits x 117 139 ≠ 0 ∨ bits x 56 8 ≠ 0 ∨ bits x 0 8 ≠ 0 ∨ bits x 104 4 = 15
        ∨ (srgb ∧ !(List.contains [2, 32, 33, 34, 41] code)) then none
    else some ⟨code, f, srgb, bits x 108 2, bits x 104 4 + 1, bits x 92 12 + 1, bits x 78 14 + 1, bits x 64 14 + 1, bits x 0 56⟩

/-- Axes of a texture. -/
def Tex.axes (t : Tex) : Nat :=
  match t.dim with
  | 0 => 1
  | 2 => 3
  | _ => 2

/-- Coordinate registers (R222): the axes, and the layer. -/
def Tex.coords (t : Tex) : Nat := if t.dim = 3 then 3 else t.axes

/-- Size of an axis at a level (R224). -/
def Tex.size (t : Tex) (lv axis : Nat) : Nat :=
  let n := match axis with
    | 0 => t.width
    | 1 => t.height
    | _ => t.depth
  Nat.max 1 (n / 2 ^ lv)

/-- Texels along a block's edge (R224). -/
def Tex.edge (t : Tex) : Nat := if t.fmt.kind = .bc then 4 else 1

/-- Blocks that cover n texels. -/
def Tex.blocks (t : Tex) (n : Nat) : Nat := (n + t.edge - 1) / t.edge

/-- Row pitch (R224). -/
def Tex.rowPitch (t : Tex) (lv : Nat) : Nat := (t.blocks (t.size lv 0) * t.fmt.bytes + 255) / 256 * 256

/-- Slice pitch (R224). -/
def Tex.slicePitch (t : Tex) (lv : Nat) : Nat := t.rowPitch lv * t.blocks (t.size lv 1)

/-- Slices of a level: its depth, or the layers, which are not reduced (R224). -/
def Tex.slices (t : Tex) (lv : Nat) : Nat :=
  match t.dim with
  | 2 => t.size lv 2
  | 3 => t.depth
  | _ => 1

/-- Where a level starts (R224). -/
def Tex.start (t : Tex) : Nat → Nat
  | 0 => t.base
  | lv + 1 => t.start lv + t.slicePitch lv * t.slices lv

/-- A texel: level and place. -/
structure Texel where
  lv : Nat
  x : Nat
  y : Nat
  z : Nat
  deriving DecidableEq, Repr

/-- The address of a texel, or of its block (R224). -/
def Tex.addr (t : Tex) (p : Texel) : Nat :=
  (t.start p.lv + p.z * t.slicePitch p.lv + p.y / t.edge * t.rowPitch p.lv + p.x / t.edge * t.fmt.bytes) % 2 ^ 56

/-! ### Values -/

/-- A texel value: a real n / d, an infinity, a NaN, or the pattern of an integer format. -/
inductive TexVal where
  | real (n : Int) (d : Nat)
  | inf (s : Bool)
  | nan
  | int (w : Word)
  deriving DecidableEq, Repr

/-- The value of a floating-point pattern. -/
def TexVal.ofFp (F : Fmt) (x : Nat) : TexVal :=
  match F.value x with
  | .nan _ => .nan
  | .inf s => .inf s
  | .fin s m e => .real (signedAt s m e (-160)) (2 ^ 160)

/-- The pattern a channel returns (R228). -/
def TexVal.pattern : TexVal → Word
  | .real n d => BitVec.ofNat 32 (realF32 n d)
  | .inf s => BitVec.ofNat 32 (fmtF32.inf s)
  | .nan => BitVec.ofNat 32 fmtF32.canonNan
  | .int w => w

/-- The greatest n-bit number whose fifth power is at most x. -/
def root5 (x : Nat) : Nat → Nat → Nat
  | 0, r => r
  | n + 1, r => root5 x n (if (r + 2 ^ n) ^ 5 ≤ x then r + 2 ^ n else r)

/-- The curve of IEC 61966-2-1 on n / d, rounded once to f32 (R225): n / d / 12.92 up to 0.04045, else
((n / d + 0.055) / 1.055)^2.4 (log 40). -/
def srgbF32 (n d : Nat) : Nat :=
  if 100000 * n ≤ 4045 * d then realF32 ((100 * n : Nat) : Int) (d * 1292)
  else
    let a := (1000 * n + 55 * d) ^ 12 * 2 ^ 200
    let b := (1055 * d) ^ 12
    (fmtF32.round .rn false (root5 (a / b) 41 0) (-40) true).x

/-- Bits of a channel in the bytes of a texel. -/
def TexFmt.raw (f : TexFmt) (v c : Nat) : Nat := bits v (f.chBits * c) f.chBits

/-! ### Block formats (log 40) -/

/-- (a × (d − w) + b × w) / (d × m): the value between two endpoints of maximum m. -/
def between (a b : Int) (w d m : Nat) : TexVal := .real (a * (d - w : Nat) + b * w) (d * m)

/-- The colour of a texel i of a BC1, BC2 or BC3 block: RGB in 5, 6 and 5 bits, two-bit codes; `three` allows the form with
three colours and transparent black. -/
def bcColour (three : Bool) (v i c : Nat) : TexVal :=
  let c0 := bits v 0 16
  let c1 := bits v 16 16
  let code := bits v (32 + 2 * i) 2
  let m := if c = 1 then 63 else 31
  let ch (x : Nat) : Int := (if c = 0 then bits x 11 5 else if c = 1 then bits x 5 6 else bits x 0 5 : Nat)
  let short := three && decide (c0 ≤ c1)
  if c = 3 then .real (if short && code == 3 then 0 else 1) 1
  else match code with
    | 0 => between (ch c0) (ch c1) 0 1 m
    | 1 => between (ch c0) (ch c1) 1 1 m
    | 2 => if short then between (ch c0) (ch c1) 1 2 m else between (ch c0) (ch c1) 1 3 m
    | _ => if short then .real 0 1 else between (ch c0) (ch c1) 2 3 m

/-- The single channel of texel i of a BC4 block, which BC3 has for its alpha and BC5 twice. -/
def bcSingle (signed : Bool) (v i : Nat) : TexVal :=
  let r (k : Nat) : Int := if signed then sextNat (bits v (8 * k) 8) 8 else (bits v (8 * k) 8 : Nat)
  let m : Nat := if signed then 127 else 255
  let lo : Int := if signed then -127 else 0
  let e (k : Nat) : Int := max lo (r k)
  let code := bits v (16 + 3 * i) 3
  if code ≤ 1 then between (e code) 0 0 1 m
  else if r 1 < r 0 then between (e 0) (e 1) (code - 1) 7 m
  else if code ≤ 5 then between (e 0) (e 1) (code - 1) 5 m
  else .real (if code = 6 then lo else m) m

/-- Subset masks of the two-subset partitions, one bit for each texel. -/
def parts2 : List Nat :=
  [0xcccc, 0x8888, 0xeeee, 0xecc8, 0xc880, 0xfeec, 0xfec8, 0xec80, 0xc800, 0xffec, 0xfe80, 0xe800, 0xffe8, 0xff00,
   0xfff0, 0xf000, 0xf710, 0x8e, 0x7100, 0x8ce, 0x8c, 0x7310, 0x3100, 0x8cce, 0x88c, 0x3110, 0x6666, 0x366c, 0x17e8,
   0xff0, 0x718e, 0x399c, 0xaaaa, 0xf0f0, 0x5a5a, 0x33cc, 0x3c3c, 0x55aa, 0x9696, 0xa55a, 0x73ce, 0x13c8, 0x324c,
   0x3bdc, 0x6996, 0xc33c, 0x9966, 0x660, 0x272, 0x4e4, 0x4e40, 0x2720, 0xc936, 0x936c, 0x39c6, 0x639c, 0x9336,
   0x9cc6, 0x817e, 0xe718, 0xccf0, 0xfcc, 0x7744, 0xee22]

/-- Subsets of the three-subset partitions, two bits for each texel. -/
def parts3 : List Nat :=
  [0xaa685050, 0x6a5a5040, 0x5a5a4200, 0x5450a0a8, 0xa5a50000, 0xa0a05050, 0x5555a0a0, 0x5a5a5050, 0xaa550000,
   0xaa555500, 0xaaaa5500, 0x90909090, 0x94949494, 0xa4a4a4a4, 0xa9a59450, 0x2a0a4250, 0xa5945040, 0xa425054,
   0xa5a5a500, 0x55a0a0a0, 0xa8a85454, 0x6a6a4040, 0xa4a45000, 0x1a1a0500, 0x50a4a4, 0xaaa59090, 0x14696914,
   0x69691400, 0xa08585a0, 0xaa821414, 0x50a4a450, 0x6a5a0200, 0xa9a58000, 0x5090a0a8, 0xa8a09050, 0x24242424,
   0xaa5500, 0x24924924, 0x24499224, 0x50a50a50, 0x500aa550, 0xaaaa4444, 0x66660000, 0xa5a0a5a0, 0x50a050a0,
   0x69286928, 0x44aaaa44, 0x66666600, 0xaa444444, 0x54a854a8, 0x95809580, 0x96969600, 0xa85454a8, 0x80959580,
   0xaa141414, 0x96960000, 0xaaaa1414, 0xa05050a0, 0xa0a5a5a0, 0x96000000, 0x40804080, 0xa9a8a9a8, 0xaaaaaa44,
   0x2a4a5254]

/-- The texel of subset 1, of two, whose index is one bit short. -/
def anchors2 : List Nat :=
  [15, 15, 15, 15, 15, 15, 15, 15, 15, 15, 15, 15, 15, 15, 15, 15, 15, 2, 8, 2, 2, 8, 8, 15, 2, 8, 2, 2, 8, 8, 2, 2,
   15, 15, 6, 8, 2, 8, 15, 15, 2, 8, 2, 2, 2, 15, 15, 6, 6, 2, 6, 8, 15, 15, 2, 2, 15, 15, 15, 15, 15, 2, 2, 15]

/-- The texels of subsets 1 and 2, of three, whose indices are one bit short. -/
def anchors3a : List Nat :=
  [3, 3, 15, 15, 8, 3, 15, 15, 8, 8, 6, 6, 6, 5, 3, 3, 3, 3, 8, 15, 3, 3, 6, 10, 5, 8, 8, 6, 8, 5, 15, 15, 8, 15, 3,
   5, 6, 10, 8, 15, 15, 3, 15, 5, 15, 15, 15, 15, 3, 15, 5, 5, 5, 8, 5, 10, 5, 10, 8, 13, 15, 12, 3, 3]
def anchors3b : List Nat :=
  [15, 8, 8, 3, 15, 15, 3, 8, 15, 15, 15, 15, 15, 15, 15, 8, 15, 8, 15, 3, 15, 8, 15, 8, 3, 15, 6, 10, 15, 15, 10, 8,
   15, 3, 15, 10, 10, 8, 9, 10, 6, 15, 8, 15, 3, 6, 6, 8, 15, 3, 15, 15, 15, 15, 15, 15, 15, 15, 15, 15, 3, 15, 15, 8]

/-- The subset of a texel, of n subsets under a partition. -/
def subsetOf (n part i : Nat) : Nat :=
  match n with
  | 2 => bits (parts2.getD part 0) i 1
  | 3 => bits (parts3.getD part 0) (2 * i) 2
  | _ => 0

/-- Is a texel's index one bit short? -/
def isAnchor (n part i : Nat) : Bool :=
  i == 0 || (n == 2 && i == anchors2.getD part 0) ||
    (n == 3 && (i == anchors3a.getD part 0 || i == anchors3b.getD part 0))

/-- The index of a texel of n bits, the indices starting at a bit of the block. -/
def bcIndex (v start n subs part i : Nat) : Nat :=
  let short := ((List.range i).filter (isAnchor subs part)).length
  bits v (start + n * i - short) (if isAnchor subs part i then n - 1 else n)

/-- The weight of an index of n bits, of 64 in all. -/
def bcWeight (n i : Nat) : Nat :=
  match n with
  | 2 => [0, 21, 43, 64].getD i 0
  | 3 => [0, 9, 18, 27, 37, 46, 55, 64].getD i 0
  | _ => [0, 4, 9, 13, 17, 21, 26, 30, 34, 38, 43, 47, 51, 55, 60, 64].getD i 0

/-- A BC6H mode: mode bits, bits of the first endpoint, of the others by channel, two regions, whether the others are
differences, and the pieces that follow: endpoint value (channel + 3 × endpoint), lowest bit, bits. -/
structure Bc6Mode where
  skip : Nat
  width : Nat
  delta : List Nat
  two : Bool
  diff : Bool
  pieces : List (Nat × Nat × Nat)
  deriving DecidableEq, Repr

/-- The BC6H modes by mode bits. -/
def bc6Mode (code : Nat) : Option Bc6Mode :=
  match code with
  | 0 => some ⟨2, 10, [5, 5, 5], true, true,
    [(7, 4, 1), (8, 4, 1), (11, 4, 1), (0, 0, 10), (1, 0, 10), (2, 0, 10), (3, 0, 5), (10, 4, 1), (7, 0, 4),
     (4, 0, 5), (11, 0, 1), (10, 0, 4), (5, 0, 5), (11, 1, 1), (8, 0, 4), (6, 0, 5), (11, 2, 1), (9, 0, 5),
     (11, 3, 1)]⟩
  | 1 => some ⟨2, 7, [6, 6, 6], true, true,
    [(7, 5, 1), (10, 4, 1), (10, 5, 1), (0, 0, 7), (11, 0, 1), (11, 1, 1), (8, 4, 1), (1, 0, 7), (8, 5, 1),
     (11, 2, 1), (7, 4, 1), (2, 0, 7), (11, 3, 1), (11, 5, 1), (11, 4, 1), (3, 0, 6), (7, 0, 4), (4, 0, 6),
     (10, 0, 4), (5, 0, 6), (8, 0, 4), (6, 0, 6), (9, 0, 6)]⟩
  | 2 => some ⟨5, 11, [5, 4, 4], true, true,
    [(0, 0, 10), (1, 0, 10), (2, 0, 10), (3, 0, 5), (0, 10, 1), (7, 0, 4), (4, 0, 4), (1, 10, 1), (11, 0, 1),
     (10, 0, 4), (5, 0, 4), (2, 10, 1), (11, 1, 1), (8, 0, 4), (6, 0, 5), (11, 2, 1), (9, 0, 5), (11, 3, 1)]⟩
  | 6 => some ⟨5, 11, [4, 5, 4], true, true,
    [(0, 0, 10), (1, 0, 10), (2, 0, 10), (3, 0, 4), (0, 10, 1), (10, 4, 1), (7, 0, 4), (4, 0, 5), (1, 10, 1),
     (10, 0, 4), (5, 0, 4), (2, 10, 1), (11, 1, 1), (8, 0, 4), (6, 0, 4), (11, 0, 1), (11, 2, 1), (9, 0, 4),
     (7, 4, 1), (11, 3, 1)]⟩
  | 10 => some ⟨5, 11, [4, 4, 5], true, true,
    [(0, 0, 10), (1, 0, 10), (2, 0, 10), (3, 0, 4), (0, 10, 1), (8, 4, 1), (7, 0, 4), (4, 0, 4), (1, 10, 1),
     (11, 0, 1), (10, 0, 4), (5, 0, 5), (2, 10, 1), (8, 0, 4), (6, 0, 4), (11, 1, 1), (11, 2, 1), (9, 0, 4),
     (11, 4, 1), (11, 3, 1)]⟩
  | 14 => some ⟨5, 9, [5, 5, 5], true, true,
    [(0, 0, 9), (8, 4, 1), (1, 0, 9), (7, 4, 1), (2, 0, 9), (11, 4, 1), (3, 0, 5), (10, 4, 1), (7, 0, 4),
     (4, 0, 5), (11, 0, 1), (10, 0, 4), (5, 0, 5), (11, 1, 1), (8, 0, 4), (6, 0, 5), (11, 2, 1), (9, 0, 5),
     (11, 3, 1)]⟩
  | 18 => some ⟨5, 8, [6, 5, 5], true, true,
    [(0, 0, 8), (10, 4, 1), (8, 4, 1), (1, 0, 8), (11, 2, 1), (7, 4, 1), (2, 0, 8), (11, 3, 1), (11, 4, 1),
     (3, 0, 6), (7, 0, 4), (4, 0, 5), (11, 0, 1), (10, 0, 4), (5, 0, 5), (11, 1, 1), (8, 0, 4), (6, 0, 6),
     (9, 0, 6)]⟩
  | 22 => some ⟨5, 8, [5, 6, 5], true, true,
    [(0, 0, 8), (11, 0, 1), (8, 4, 1), (1, 0, 8), (7, 5, 1), (7, 4, 1), (2, 0, 8), (10, 5, 1), (11, 4, 1),
     (3, 0, 5), (10, 4, 1), (7, 0, 4), (4, 0, 6), (10, 0, 4), (5, 0, 5), (11, 1, 1), (8, 0, 4), (6, 0, 5),
     (11, 2, 1), (9, 0, 5), (11, 3, 1)]⟩
  | 26 => some ⟨5, 8, [5, 5, 6], true, true,
    [(0, 0, 8), (11, 1, 1), (8, 4, 1), (1, 0, 8), (8, 5, 1), (7, 4, 1), (2, 0, 8), (11, 5, 1), (11, 4, 1),
     (3, 0, 5), (10, 4, 1), (7, 0, 4), (4, 0, 5), (11, 0, 1), (10, 0, 4), (5, 0, 6), (8, 0, 4), (6, 0, 5),
     (11, 2, 1), (9, 0, 5), (11, 3, 1)]⟩
  | 30 => some ⟨5, 6, [6, 6, 6], true, false,
    [(0, 0, 6), (10, 4, 1), (11, 0, 1), (11, 1, 1), (8, 4, 1), (1, 0, 6), (7, 5, 1), (8, 5, 1), (11, 2, 1),
     (7, 4, 1), (2, 0, 6), (10, 5, 1), (11, 3, 1), (11, 5, 1), (11, 4, 1), (3, 0, 6), (7, 0, 4), (4, 0, 6),
     (10, 0, 4), (5, 0, 6), (8, 0, 4), (6, 0, 6), (9, 0, 6)]⟩
  | 3 => some ⟨5, 10, [10, 10, 10], false, false,
    [(0, 0, 10), (1, 0, 10), (2, 0, 10), (3, 0, 10), (4, 0, 10), (5, 0, 10)]⟩
  | 7 => some ⟨5, 11, [9, 9, 9], false, true,
    [(0, 0, 10), (1, 0, 10), (2, 0, 10), (3, 0, 9), (0, 10, 1), (4, 0, 9), (1, 10, 1), (5, 0, 9), (2, 10, 1)]⟩
  | 11 => some ⟨5, 12, [8, 8, 8], false, true,
    [(0, 0, 10), (1, 0, 10), (2, 0, 10), (3, 0, 8), (0, 11, 1), (0, 10, 1), (4, 0, 8), (1, 11, 1), (1, 10, 1),
     (5, 0, 8), (2, 11, 1), (2, 10, 1)]⟩
  | 15 => some ⟨5, 16, [4, 4, 4], false, true,
    [(0, 0, 10), (1, 0, 10), (2, 0, 10), (3, 0, 4), (0, 15, 1), (0, 14, 1), (0, 13, 1), (0, 12, 1), (0, 11, 1),
     (0, 10, 1), (4, 0, 4), (1, 15, 1), (1, 14, 1), (1, 13, 1), (1, 12, 1), (1, 11, 1), (1, 10, 1), (5, 0, 4),
     (2, 15, 1), (2, 14, 1), (2, 13, 1), (2, 12, 1), (2, 11, 1), (2, 10, 1)]⟩
  | _ => none

/-- The value that pieces from a bit position on give to endpoint value k. -/
def bc6Gather (v k : Nat) : Nat → List (Nat × Nat × Nat) → Nat
  | _, [] => 0
  | pos, p :: ps => (if p.1 = k then bits v pos p.2.2 * 2 ^ p.2.1 else 0) + bc6Gather v k (pos + p.2.2) ps

/-- The endpoint value k of a block: as stored, or as a difference to the first endpoint. -/
def bc6End (m : Bc6Mode) (signed : Bool) (v k : Nat) : Int :=
  let raw := bc6Gather v k m.skip m.pieces
  let first : Nat := bc6Gather v (k % 3) m.skip m.pieces
  let d := m.delta.getD (k % 3) 0
  let x : Nat := if k < 3 then raw
    else if m.diff then (((first : Int) + sextNat raw d) % 2 ^ m.width).toNat
    else raw
  if signed then sextNat x m.width else x

/-- An endpoint value in 16 bits. -/
def bc6Wide (w : Nat) (signed : Bool) (x : Int) : Int :=
  if signed then
    let a : Nat := x.natAbs
    let y : Nat := if 16 ≤ w ∨ a = 0 then a else if 2 ^ (w - 1) - 1 ≤ a then 0x7FFF else (a * 2 ^ 15 + 0x4000) / 2 ^ (w - 1)
    if x < 0 then -(y : Int) else y
  else
    let a := x.toNat
    (if 15 ≤ w ∨ a = 0 then a else if a = 2 ^ w - 1 then 0xFFFF else (a * 2 ^ 16 + 0x8000) / 2 ^ w : Nat)

/-- Channel c of texel i of a BC6H block; a reserved mode gives zero. -/
def bc6Value (signed : Bool) (v i c : Nat) : TexVal :=
  match bc6Mode (if bits v 0 2 < 2 then bits v 0 2 else bits v 0 5) with
  | none => .real 0 1
  | some m =>
    let subs := if m.two then 2 else 1
    let part := if m.two then bits v 77 5 else 0
    let n := if m.two then 3 else 4
    let at_ := 6 * subsetOf subs part i + c
    let e (k : Nat) : Int := bc6Wide m.width signed (bc6End m signed v k)
    let w := bcWeight n (bcIndex v (if m.two then 82 else 65) n subs part i)
    let x : Int := (e at_ * (64 - w : Nat) + e (at_ + 3) * w + 32) / 64
    TexVal.ofFp fmtF16 (if signed then
        (if x < 0 then 2 ^ 15 + x.natAbs * 31 / 32 else x.toNat * 31 / 32)
      else x.toNat * 31 / 64)

/-- A BC7 mode: subsets, partition bits, rotation bits, index selection bits, colour and alpha bits, parity bits for each
endpoint and for each subset, bits of the two indices. -/
structure Bc7Mode where
  subs : Nat
  part : Nat
  rot : Nat
  sel : Nat
  col : Nat
  alpha : Nat
  each : Nat
  shared : Nat
  idx : Nat
  idx2 : Nat
  deriving DecidableEq, Repr

/-- The BC7 modes. -/
def bc7Mode (n : Nat) : Bc7Mode :=
  match n with
  | 0 => ⟨3, 4, 0, 0, 4, 0, 1, 0, 3, 0⟩
  | 1 => ⟨2, 6, 0, 0, 6, 0, 0, 1, 3, 0⟩
  | 2 => ⟨3, 6, 0, 0, 5, 0, 0, 0, 2, 0⟩
  | 3 => ⟨2, 6, 0, 0, 7, 0, 1, 0, 2, 0⟩
  | 4 => ⟨1, 0, 2, 1, 5, 6, 0, 0, 2, 3⟩
  | 5 => ⟨1, 0, 2, 0, 7, 8, 0, 0, 2, 2⟩
  | 6 => ⟨1, 0, 0, 0, 7, 7, 1, 0, 4, 0⟩
  | _ => ⟨2, 6, 0, 0, 5, 5, 1, 0, 2, 0⟩

/-- x of n bits widened to 8 by repeating its upper bits. -/
def widen8 (x n : Nat) : Nat := if 8 ≤ n then x else x * 2 ^ (8 - n) + x * 2 ^ (8 - n) / 2 ^ n

/-- Channel c of endpoint k (two for each subset) of a BC7 block, in 8 bits. -/
def bc7End (m : Bc7Mode) (v base k c : Nat) : Nat :=
  let ends := 2 * m.subs
  let n := if c = 3 then m.alpha else m.col
  if n = 0 then 255
  else
    let raw := bits v (base + (if c = 3 then 3 * ends * m.col + m.alpha * k else ends * m.col * c + m.col * k)) n
    let par := base + ends * (3 * m.col + m.alpha)
    if m.each = 1 then widen8 (2 * raw + bits v (par + k) 1) (n + 1)
    else if m.shared = 1 then widen8 (2 * raw + bits v (par + k / 2) 1) (n + 1)
    else widen8 raw n

/-- Channel c of texel i of a BC7 block as a number of 255; a reserved mode gives zero. -/
def bc7Value (v i c : Nat) : Nat :=
  match (List.range 8).find? (bit v ·) with
  | none => 0
  | some md =>
    let m := bc7Mode md
    let p0 := md + 1
    let part := bits v p0 m.part
    let rot := bits v (p0 + m.part) m.rot
    let sel := bits v (p0 + m.part + m.rot) m.sel
    let base := p0 + m.part + m.rot + m.sel
    let ends := 2 * m.subs
    let idxAt := base + ends * (3 * m.col + m.alpha) + ends * m.each + m.subs * m.shared
    let i1 := bcWeight m.idx (bcIndex v idxAt m.idx m.subs part i)
    let i2 := bcWeight m.idx2 (bcIndex v (idxAt + 16 * m.idx - m.subs) m.idx2 m.subs part i)
    let c := if rot = 0 then c else if c = 3 then rot - 1 else if c = rot - 1 then 3 else c
    let w := if m.idx2 = 0 then i1 else if (c == 3) == (sel == 0) then i2 else i1
    let k := 2 * subsetOf m.subs part i
    (bc7End m v base k c * (64 - w) + bc7End m v base (k + 1) c * w + 32) / 64

/-- Channel c of texel i of a block of a format code. -/
def bcValue (code v i c : Nat) : TexVal :=
  match code with
  | 32 => bcColour true v i c
  | 33 => if c = 3 then .real (bits v (4 * i) 4 : Nat) 15 else bcColour false (v / 2 ^ 64) i c
  | 34 => if c = 3 then bcSingle false v i else bcColour false (v / 2 ^ 64) i c
  | 35 => bcSingle false v i
  | 36 => bcSingle true v i
  | 37 => bcSingle false (v / 2 ^ (64 * c)) i
  | 38 => bcSingle true (v / 2 ^ (64 * c)) i
  | 39 => bc6Value false v i c
  | 40 => bc6Value true v i c
  | _ => .real (bc7Value v i c : Nat) 255

/-- The sRGB curve on a value in 0 to 1. -/
def TexVal.srgb : TexVal → TexVal
  | .real n d => TexVal.ofFp fmtF32 (srgbF32 n.toNat d)
  | v => v

/-- The value of a channel (R225) from the bytes of the texel or block. -/
def Tex.value (t : Tex) (v : Nat) (p : Texel) (c : Nat) : TexVal :=
  let f := t.fmt
  if f.kind = .uint ∨ f.kind = .sint then
    .int (if c < f.ch then BitVec.ofNat 32 (f.raw v c) else if c = 3 then 1 else 0)
  else if f.ch ≤ c then .real (if c = 3 then 1 else 0) 1
  else
    let n := f.raw v c
    let x : TexVal := match f.kind with
      | .unorm => .real n (2 ^ f.chBits - 1)
      | .snorm =>
        let m : Int := ((2 ^ (f.chBits - 1) - 1 : Nat) : Int)
        let i := sextNat n f.chBits
        .real (if i < -m then -m else i) (2 ^ (f.chBits - 1) - 1)
      | .float => TexVal.ofFp (if f.chBits = 16 then fmtF16 else fmtF32) n
      | _ => bcValue t.code v (p.x % 4 + 4 * (p.y % 4)) c
    if t.srgb && c != 3 then x.srgb else x

end Sys2Proof.Machine
end

