-- ==== Sys2Proof/Machine/Sample.lean ====
section
/-!
DEFINITION. Texture sampling, `smp` and `tld` (spec/07 R222–R231): descriptors, level geometry, texel values, taps with
their weights, level of detail, anisotropy.
-/
namespace Sys2Proof.Machine

/-- Sum of two values. -/
def TexVal.add : TexVal → TexVal → TexVal
  | .nan, _ => .nan
  | _, .nan => .nan
  | .inf s, .inf u => if s = u then .inf s else .nan
  | .inf s, _ => .inf s
  | _, .inf s => .inf s
  | .int w, _ => .int w
  | _, .int w => .int w
  | .real n d, .real m e => if d = e then .real (n + m) d else .real (n * e + m * d) (d * e)

/-- A value times a positive number over another. -/
def TexVal.times (w den : Nat) : TexVal → TexVal
  | .real n d => .real (n * w) (d * den)
  | v => v

/-- The border colour (R226). -/
def borderVal (b c : Nat) (int : Bool) : TexVal :=
  let one := decide (b = 2) || (decide (b = 1) && decide (c = 3))
  if int then .int (if one then 1 else 0) else .real (if one then 1 else 0) 1

/-! ### Samplers and taps -/

/-- A sampler (R226). -/
structure Samp where
  border : Nat
  maxLod : Nat
  minLod : Nat
  bias : Int
  addr : List Nat
  aniso : Nat
  mip : Nat
  min : Nat
  mag : Nat
  deriving DecidableEq, Repr

/-- The sampler of a descriptor for a texture; none where a field is reserved or the format forbids the filter (R226). -/
def Samp.parse (x : Nat) (t : Tex) : Option Samp :=
  let int := decide (t.fmt.kind = .uint) || decide (t.fmt.kind = .sint)
  let ad (i : Nat) : Nat := bits x (12 + 4 * i) 3
  if bits x 82 46 ≠ 0 ∨ bits x 23 9 ≠ 0 ∨ bit x 19 ∨ bit x 15 ∨ bit x 11 ∨ bits x 6 2 ≠ 0 ∨ bits x 80 2 = 3
      ∨ 4 ≤ ad 0 ∨ 4 ≤ ad 1 ∨ 4 ≤ ad 2 ∨ 5 ≤ bits x 8 3 ∨ bits x 4 2 = 3 ∨ 2 ≤ bits x 2 2 ∨ 2 ≤ bits x 0 2
      ∨ (int ∧ (bits x 2 2 ≠ 0 ∨ bits x 0 2 ≠ 0 ∨ bits x 4 2 = 2)) then none
  else some ⟨bits x 80 2, bits x 64 16, bits x 48 16, sextNat (bits x 32 16) 16, [ad 0, ad 1, ad 2], bits x 8 3,
    bits x 4 2, bits x 2 2, bits x 0 2⟩

/-- floor(x × 256) of an f32 pattern, saturated to i32; 0 for a NaN (R227). -/
def floor256 (x : Nat) : Int :=
  match fmtF32.value x with
  | .nan _ => 0
  | .inf s => if s then IType.minVal .i32 else IType.maxVal .i32
  | .fin s m e =>
    let n := roundAt .rm s m (e + 8) 0 false
    satInt .i32 (if s then -(n.1 : Int) else n.1)

/-- A coordinate: a NaN reads as 0 (R227). -/
def coordOf (x : Nat) : Nat := if (fmtF32.value x).isNan then 0 else x

/-- A natural number as f32. -/
def nat32 (n : Nat) : Nat := intEnc fmtF32 n

/-- An index under an address mode; none outside the range under border (R227). -/
def mapIndex (mode n : Nat) (i : Int) : Option Nat :=
  match mode with
  | 0 => some (i % n).toNat
  | 1 => let j := (i % (2 * n)).toNat; some (if n ≤ j then 2 * n - 1 - j else j)
  | 2 => some (if i < 0 then 0 else if (n : Int) ≤ i then n - 1 else i.toNat)
  | _ => if 0 ≤ i ∧ i < n then some i.toNat else none

/-- Indices and weights along one axis (R227). -/
def axisTaps (mode n : Nat) (linear : Bool) (c : Nat) (o : Int) : List (Nat × Option Nat) :=
  let f := floor256 (mul32 (coordOf c) (nat32 n))
  if linear then
    let x := f - 128
    let i := x.shiftRight 8 + o
    let a := (x % 256).toNat
    [(256 - a, mapIndex mode n i), (a, mapIndex mode n (i + 1))]
  else [(256, mapIndex mode n (f.shiftRight 8 + o))]

/-- A texel of a filter with its weight; none for the border. -/
structure Tap where
  w : Nat
  at_ : Option Texel
  deriving DecidableEq, Repr

/-- The layer of an array (R227). -/
def layerOf (t : Tex) (c : Nat) : Nat :=
  match fmtF32.value c with
  | .nan _ => 0
  | .inf s => if s then 0 else t.depth - 1
  | .fin s m e => if s then 0 else Nat.min (intRound .rn s m e).1 (t.depth - 1)

/-- The taps of one level, with weights of 2^24 in all (R227, R228). -/
def levelTaps (t : Tex) (sm : Samp) (lv : Nat) (linear : Bool) (cs : List Nat) (os : List Int) : List Tap :=
  let ax (i : Nat) : List (Nat × Option Nat) :=
    if i < t.axes then axisTaps (sm.addr.getD i 0) (t.size lv i) linear (cs.getD i 0) (os.getD i 0) else [(256, some 0)]
  let z0 : Nat := if t.dim = 3 then layerOf t (cs.getD 2 0) else 0
  (ax 0).flatMap fun x => (ax 1).flatMap fun y => (ax 2).map fun z =>
    { w := x.1 * y.1 * z.1,
      at_ := match x.2, y.2, z.2 with
        | some i, some j, some k => some ⟨lv, i, j, if t.dim = 3 then z0 else k⟩
        | _, _, _ => none }

/-! ### Level of detail -/

/-- The differences of a quad along an axis (R229). -/
def quadD (c : Nat → Nat → Nat) (l axis step : Nat) : Nat :=
  sub32 (coordOf (c axis (l / 4 * 4 + step))) (coordOf (c axis (l / 4 * 4)))

/-- ρ of a quad in one direction (R229). -/
def rhoOf (t : Tex) (c : Nat → Nat → Nat) (l step : Nat) : Nat :=
  (List.range t.axes).foldl (fun m a =>
    (fMinMax fmtF32 false true m (mul32 (fmtF32.abs (quadD c l a step)) (nat32 (t.size 0 a)))).x) 0

/-- λ of a ρ (R229). -/
def lambdaOf (rho : Nat) : Int := ((rho / 2 ^ 15 : Nat) : Int) - 32512

/-- floor(x × 256) of a LOD or bias operand; open for a NaN, which the spec does not state. -/
def lodInt (x : Nat) (salt : Nat) : Int :=
  if (fmtF32.value x).isNan then sextNat (Config.free .unstated [229, salt]) 32 else floor256 x

/-- Clamp to a range. -/
def clampInt (lo hi x : Int) : Int := if x < lo then lo else if hi < x then hi else x

/-- λ' (R229). -/
def lambdaFinal (t : Tex) (sm : Samp) (lam : Int) : Nat :=
  let x := lam + sm.bias
  let x := if x < sm.minLod then (sm.minLod : Int) else x
  let x := if (sm.maxLod : Int) < x then (sm.maxLod : Int) else x
  (clampInt 0 (256 * (t.levels - 1 : Nat)) x).toNat

/-- The levels of a λ' with their weights of 256 in all (R229). -/
def levelsOf (t : Tex) (sm : Samp) (lam : Nat) : List (Nat × Nat) :=
  match sm.mip with
  | 0 => [(256, 0)]
  | 1 => [(256, (lam + 128) / 256)]
  | _ => [(256 - lam % 256, lam / 256), (lam % 256, Nat.min (lam / 256 + 1) (t.levels - 1))]

/-- The least power of two at or above a non-negative f32, up to 2^n. -/
def pow2Above (x : Nat) : Nat → Nat → Nat
  | 0, k => 2 ^ k
  | n + 1, k => if x ≤ nat32 (2 ^ k) then 2 ^ k else pow2Above x n (k + 1)

/-- One probe (R230): position c + k × d in f32; whether the product is rounded before the sum is open. -/
def probeAt (c d k : Nat) : Nat :=
  if Config.flip .unstated [230] then add32 c (mul32 k d) else (fFma fmtF32 false .rn k d c).x

/-- The probes of a lane (R230): number, λ and the coordinates of each. -/
def probes (t : Tex) (sm : Samp) (mode : SmpMode) (c : Nat → Nat → Nat) (l : Nat) (salt : Nat) :
    Int × List (List Nat) :=
  let own : List Nat := (List.range t.coords).map fun a => c a l
  let rx := rhoOf t c l 1
  let ry := rhoOf t c l 2
  let hi := (fMinMax fmtF32 false true rx ry).x
  let lo := (fMinMax fmtF32 false false rx ry).x
  let extra := lodInt (c t.coords l) (salt + l)
  match mode with
  | .lod => (extra, [own])
  | .bias => (lambdaOf hi + extra, [own])
  | .implicit =>
    if sm.aniso = 0 then (lambdaOf hi, [own])
    else
      let n := if lo = 0 then 2 ^ sm.aniso else pow2Above (fDiv fmtF32 fmtF32 hi lo) sm.aniso 0
      let step := if cmpVal (fmtF32.value rx) (fmtF32.value ry) = 0 && Config.flip .unstated [231] then 2
        else if cmpVal (fmtF32.value rx) (fmtF32.value ry) < 0 then 2 else 1
      let pts := (List.range n).map fun (k : Nat) =>
        let f := realF32 (((2 * k + 1 : Nat) : Int) - (n : Int)) (2 * n)
        (List.range t.coords).map fun a =>
          if a < t.axes then probeAt (coordOf (c a l)) (quadD c l a step) f else c a l
      (lambdaOf (fDiv fmtF32 fmtF32 hi (nat32 n)), pts)

/-- Every tap of a lane with the weight total: probes, levels, texels (R227–R230). -/
def laneTaps (t : Tex) (sm : Samp) (mode : SmpMode) (c : Nat → Nat → Nat) (os : List Int) (l salt : Nat) :
    Nat × List Tap :=
  let (lam, pts) := probes t sm mode c l salt
  let lam := lambdaFinal t sm lam
  let linear := decide ((if lam = 0 then sm.mag else sm.min) = 1)
  let taps := pts.flatMap fun p => (levelsOf t sm lam).flatMap fun lv =>
    if lv.1 = 0 then [] else (levelTaps t sm lv.2 linear p os).map fun x => { x with w := x.w * lv.1 }
  (2 ^ 32 * pts.length, taps.filter (·.w != 0))

/-! ### Execution -/

/-- Where the n bytes of a descriptor or texel lie, or the causes their read meets (R187, R188, R299). -/
def texSpot (s : State) (va n : Nat) : Except (List Nat) Spot :=
  let lk : List Nat := if lockGlobal s s.t.tag (coreOf s.t s.g) va n false then [cLOCK] else []
  match xlate s s.t.tag (coreOf s.t s.g) va needR with
  | .error c => .error (lk ++ [c])
  | .ok x => if lk = [] then .ok (.glob x) else .error lk

/-- Read a descriptor of n bytes at a 56-bit address: its fault, or its value. -/
def readDescr (s : State) (va n : Nat) : Except FaultInfo (Nat × TlbEnt) :=
  match texSpot s va n with
  | .error cs => .error { cause := (causeOrder.find? cs.contains).getD cPERM, va := va }
  | .ok p => match p.xl with
    | some x => if gPoison s x 0 then .error { cause := cECC, va := va } else .ok (gRead s x n, x.ent)
    | none => .error { cause := cPERM, va := va }

/-- The one of two faults that is raised (R187), ECC_UE last. -/
def firstFault (f g : FaultInfo) : FaultInfo :=
  match (causeOrder ++ [cECC]).find? fun c => c == f.cause || c == g.cause with
  | some c => if c = f.cause then f else g
  | none => f

/-- Are n vector registers from an operand inside the window (R12, R37)? -/
def inWindow (t : Team) (x : Group) (o : Opnd) (n : Nat) : Bool :=
  match o with
  | .v r => (x.shadowed && decide (r.toNat < 16)) || decide (r.toNat + n ≤ windowOf t x)
  | _ => false

/-- A coordinate register of a lane. -/
def coordAt (x : Group) (o : Opnd) (i l : Nat) : Nat :=
  match o with
  | .v r => (x.vAt (r.toNat + i) l).toNat
  | _ => 0

/-- The lowest marked lane of n coordinate registers (R189). -/
def coordMark (x : Group) (o : Opnd) (n : Nat) (act : Mask) : Option Nat :=
  (markedLanes x o n act).foldl (fun m l => match m with | none => some l | some k => some (Nat.min k l)) none

/-- The lanes of every quad that holds one of the given lanes (R229). -/
def quadLanes (act : Mask) : Mask := maskOf fun l => (List.range 4).any fun i => act.getLsbD (l / 4 * 4 + i)

/-- Where the texels of a list lie, with the causes of each that has one. -/
def texSpots (s : State) (t : Tex) (l : Nat) (ps : List Texel) : List (Nat × Nat × Except (List Nat) Spot) :=
  ps.map fun p => (l, t.addr p, texSpot s (t.addr p) t.fmt.bytes)

/-- The bytes and mark of a texel, where it can be read. -/
def texBytes (s : State) (t : Tex) (p : Texel) : Nat × Bool :=
  match texSpot s (t.addr p) t.fmt.bytes with
  | .ok q => spotRead s t.fmt.bytes q
  | .error _ => (0, false)

/-- The selected channels of a mask, in order R, G, B, A (R222). -/
def channels (m : BitVec 4) : List Nat := (List.range 4).filter fun i => m.getLsbD i

/-- Words packed as a value of several registers. -/
def packWords : List Word → Nat
  | [] => 0
  | w :: ws => w.toNat + 2 ^ 32 * packWords ws

/-- The registers read beyond the operand's first, for R28 and for the holds of R155 and R190. -/
def readMore (e : Enc) (o : Opnd) (n : Nat) (s : State) : State :=
  let s := onG (fun x => { x with pend := retireFor (opKeys o n) x.pend }) s
  if stays e then onG (fun x => { x with runReads := x.runReads ++ opKeys o n }) s else s

/-- Finish a sampling instruction: effects of its reads, its result, the next instruction. -/
def sampleDone (e : Enc) (d cd : Opnd) (nc : Nat) (act : Mask) (t : Tex) (rs : List (Nat × Nat × Except (List Nat) Spot))
    (ents : List TlbEnt) (ch : List Nat) (val : Nat → Nat → Word) (mark : Nat → Bool) (s : State) : Act :=
  let ps := laneSpots rs
  let u := ents.foldl (fun s x => tlbPut x s) (loadEffects false false t.fmt.bytes ps (readMore e cd nc s))
  let u := wrVec e d ch.length act (fun l => some (packWords (ch.map (val l)))) mark u
  .ok (seqNext e (pendOn (pendKeys e d ch.length s.g.runPos) u))

/-- A texture that any sampler fits. -/
def Tex.plain : Tex := ⟨0, ⟨.unorm, 1, 8, 1⟩, false, 0, 1, 1, 1, 1, 0⟩

/-- The specifiers of `smp` whose descriptors break R223 or R226 (R35): SA, SC. -/
def descrOpf (t : Option Tex) (sd : Nat) : BitVec 4 :=
  (if t.isNone then 2 else 0) ||| (if (Samp.parse sd (t.getD Tex.plain)).isNone then 8 else 0)

/-- The texels that a lane's taps name, with the causes of each (R187, R228). -/
def tapSpots (s : State) (t : Tex) (l : Nat) (r : Nat × List Tap) : List (Nat × Nat × Except (List Nat) Spot) :=
  texSpots s t l (r.2.filterMap (·.at_))

/-- Channel k of a lane's sample: the weighted sum of its taps, rounded once (R225, R228); a filtered integer is open. -/
def tapsVal (s : State) (t : Tex) (sm : Samp) (r : Nat × List Tap) (l k : Nat) : Word :=
  let int := decide (t.fmt.kind = .uint) || decide (t.fmt.kind = .sint)
  let vs := r.2.map fun z => TexVal.times z.w r.1 (match z.at_ with
    | some p => t.value (texBytes s t p).1 p k
    | none => borderVal sm.border k int)
  if int && decide (1 < r.2.length) then Config.bits .unstated 32 [228, s.fresh, l, k]
  else (vs.foldl TexVal.add (vs.headD .nan |> fun v => match v with
    | .int w => .int w
    | _ => .real 0 1)).pattern

/-- Is a texel that a lane's taps read marked (R189)? -/
def tapsMark (s : State) (t : Tex) (r : Nat × List Tap) : Bool :=
  r.2.any fun z => match z.at_ with
    | some p => (texBytes s t p).2
    | none => false

/-- `smp` (R222–R230). -/
def execSmp (h : Hdr) (mask : BitVec 4) (mode : SmpMode) (d a b c : Opnd) (ou ov ow : BitVec 4) (s : State) :
    Host.Outcome State Fault Refusal :=
  issue (.smp h mask mode d a b c ou ov ow) s fun e s =>
    let x := s.g
    let act := x.active h.toGuard
    let ch := channels mask
    if act = 0 then .ok (seqNext e (wrVec e d ch.length 0 (fun _ => none) (fun _ => false) s))
    else
      let ta := (srcU x true a).toNat % 2 ^ 56
      let sa := (srcU x true c).toNat % 2 ^ 56
      if ta % 32 ≠ 0 ∨ sa % 16 ≠ 0 then .fault { cause := cMISALIGN }
      else match readDescr s ta 32, readDescr s sa 16 with
        | .error f, .error g => .fault (firstFault f g)
        | .error f, _ => .fault f
        | _, .error f => .fault f
        | .ok td, .ok sd =>
          match Tex.parse td.1 with
          | none => .fault { cause := cILLOPERAND, opf := descrOpf none sd.1 }
          | some t => match Samp.parse sd.1 t with
            | none => .fault { cause := cILLOPERAND, opf := descrOpf (some t) sd.1 }
            | some sm =>
              let nc := t.coords + (if mode = .implicit then 0 else 1)
              if !inWindow s.t x b nc then .fault { cause := cILLOPERAND, opf := 4 }
              else match coordMark x b nc (if mode = .lod then act else quadLanes act) with
                | some l => .fault { cause := cECC, lane := l }
                | none =>
                  let tap (l : Nat) : Nat × List Tap :=
                    laneTaps t sm mode (coordAt x b) [ou.toInt, ov.toInt, ow.toInt] l (64 * s.fresh)
                  let rs := (lanesOf act).flatMap fun l => tapSpots s t l (tap l)
                  match laneFault false rs with
                  | some f => .fault f
                  | none => sampleDone e d b nc act t rs [td.2, sd.2] ch (fun l k => tapsVal s t sm (tap l) l k)
                      (fun l => tapsMark s t (tap l)) s

/-- `tld` (R222, R231): coordinates and level are signed integers; outside its level a texel reads 0. -/
def execTld (h : Hdr) (mask : BitVec 4) (d a b : Opnd) (s : State) : Host.Outcome State Fault Refusal :=
  issue (.tld h mask d a b) s fun e s =>
    let x := s.g
    let act := x.active h.toGuard
    let ch := channels mask
    if act = 0 then .ok (seqNext e (wrVec e d ch.length 0 (fun _ => none) (fun _ => false) s))
    else
      let ta := (srcU x true a).toNat % 2 ^ 56
      if ta % 32 ≠ 0 then .fault { cause := cMISALIGN }
      else match readDescr s ta 32 with
        | .error f => .fault f
        | .ok td =>
          match Tex.parse td.1 with
          | none => .fault { cause := cILLOPERAND, opf := 2 }
          | some t =>
            let nc := t.coords + 1
            if !inWindow s.t x b nc then .fault { cause := cILLOPERAND, opf := 4 }
            else match coordMark x b nc act with
              | some l => .fault { cause := cECC, lane := l }
              | none =>
                let texel (l : Nat) : Option Texel :=
                  let i (k : Nat) : Nat := coordAt x b k l
                  let lv := i t.coords
                  let p : Texel := ⟨lv, i 0, if 2 ≤ t.coords then i 1 else 0, if 3 ≤ t.coords then i 2 else 0⟩
                  if lv < t.levels ∧ p.x < t.size lv 0 ∧ p.y < t.size lv 1 ∧ p.z < t.slices lv then some p else none
                let rs := (lanesOf act).flatMap fun l => texSpots s t l (texel l).toList
                match laneFault false rs with
                | some f => .fault f
                | none =>
                  let val (l k : Nat) : Word := match texel l with
                    | some p => (t.value (texBytes s t p).1 p k).pattern
                    | none => 0
                  let mark (l : Nat) : Bool := match texel l with
                    | some p => (texBytes s t p).2
                    | none => false
                  sampleDone e d b nc act t rs [td.2] ch val mark s

end Sys2Proof.Machine
end

