-- ==== Sys2Proof/Machine/Dispatch.lean ====
section
/-!
DEFINITION. The dispatch from an instruction to its meaning: one direct call for each constructor of Instr.
-/
namespace Sys2Proof.Machine

/-- The meaning of every row of spec/opcode_table.json. -/
def exec (i : Instr) (s : State) : Host.Outcome State Fault Refusal :=
  match i with
  | .nop stay => Sys2Proof.Machine.execNop stay s
  | .bra ch join target => Sys2Proof.Machine.execBra ch join target s
  | .brx ch a join => Sys2Proof.Machine.execBrx ch a join s
  | .call ch d target => Sys2Proof.Machine.execCall ch d target s
  | .callx ch d a => Sys2Proof.Machine.execCallx ch d a s
  | .ret gd a => Sys2Proof.Machine.execRet gd a s
  | .exit gd => Sys2Proof.Machine.execExit gd s
  | .trap gd a => Sys2Proof.Machine.execTrap gd a s
  | .brk h => Sys2Proof.Machine.execBrk h s
  | .sysrd h w64 d a => Sys2Proof.Machine.execSysrd h w64 d a s
  | .syswr h w64 a b => Sys2Proof.Machine.execSyswr h w64 a b s
  | .emrd h d => Sys2Proof.Machine.execEmrd h d s
  | .emwr gd a => Sys2Proof.Machine.execEmwr gd a s
  | .gmov h ty d a => Sys2Proof.Machine.execGmov h ty d a s
  | .gadd h ty sat d a b => Sys2Proof.Machine.execGadd h ty sat d a b s
  | .gsub h ty sat d a b => Sys2Proof.Machine.execGsub h ty sat d a b s
  | .gmul h ty d a b => Sys2Proof.Machine.execGmul h ty d a b s
  | .gmulh h ty d a b => Sys2Proof.Machine.execGmulh h ty d a b s
  | .gmad h ty sat d a b c => Sys2Proof.Machine.execGmad h ty sat d a b c s
  | .gand h ty d a b => Sys2Proof.Machine.execGand h ty d a b s
  | .gor h ty d a b => Sys2Proof.Machine.execGor h ty d a b s
  | .gxor h ty d a b => Sys2Proof.Machine.execGxor h ty d a b s
  | .gshl h ty d a b => Sys2Proof.Machine.execGshl h ty d a b s
  | .gshr h ty d a b => Sys2Proof.Machine.execGshr h ty d a b s
  | .gsar h ty d a b => Sys2Proof.Machine.execGsar h ty d a b s
  | .gmin h ty d a b => Sys2Proof.Machine.execGmin h ty d a b s
  | .gmax h ty d a b => Sys2Proof.Machine.execGmax h ty d a b s
  | .gcmp h ty cond d a b => Sys2Proof.Machine.execGcmp h ty cond d a b s
  | .gsel h ty d a b c => Sys2Proof.Machine.execGsel h ty d a b c s
  | .glea h sh d a b => Sys2Proof.Machine.execGlea h sh d a b s
  | .gbfx h ty d a b => Sys2Proof.Machine.execGbfx h ty d a b s
  | .gbfi h d a b c => Sys2Proof.Machine.execGbfi h d a b c s
  | .gclz h ty d a => Sys2Proof.Machine.execGclz h ty d a s
  | .gpopc h ty d a => Sys2Proof.Machine.execGpopc h ty d a s
  | .gld h sp pol sz d a b disp => Sys2Proof.Machine.execGld h sp pol sz d a b disp s
  | .gst h sp pol sz d a b disp => Sys2Proof.Machine.execGst h sp pol sz d a b disp s
  | .add h ty sat d a b => Sys2Proof.Machine.execAdd h ty sat d a b s
  | .sub h ty sat d a b => Sys2Proof.Machine.execSub h ty sat d a b s
  | .mul h ty d a b => Sys2Proof.Machine.execMul h ty d a b s
  | .mulh h ty d a b => Sys2Proof.Machine.execMulh h ty d a b s
  | .mad h ty sat d a b c => Sys2Proof.Machine.execMad h ty sat d a b c s
  | .and h ty d a b => Sys2Proof.Machine.execAnd h ty d a b s
  | .or h ty d a b => Sys2Proof.Machine.execOr h ty d a b s
  | .xor h ty d a b => Sys2Proof.Machine.execXor h ty d a b s
  | .shl h ty d a b => Sys2Proof.Machine.execShl h ty d a b s
  | .shr h ty d a b => Sys2Proof.Machine.execShr h ty d a b s
  | .sar h ty d a b => Sys2Proof.Machine.execSar h ty d a b s
  | .min h ty d a b => Sys2Proof.Machine.execMin h ty d a b s
  | .max h ty d a b => Sys2Proof.Machine.execMax h ty d a b s
  | .abs h ty sat d a => Sys2Proof.Machine.execAbs h ty sat d a s
  | .sel h ty d a b c => Sys2Proof.Machine.execSel h ty d a b c s
  | .cmp h ty cond d a b => Sys2Proof.Machine.execCmp h ty cond d a b s
  | .bfx h ty d a b => Sys2Proof.Machine.execBfx h ty d a b s
  | .bfi h d a b c => Sys2Proof.Machine.execBfi h d a b c s
  | .clz h ty d a => Sys2Proof.Machine.execClz h ty d a s
  | .popc h ty d a => Sys2Proof.Machine.execPopc h ty d a s
  | .brev h ty d a => Sys2Proof.Machine.execBrev h ty d a s
  | .idp4 h aN bN sat d a b c => Sys2Proof.Machine.execIdp4 h aN bN sat d a b c s
  | .sad h ty d a b c => Sys2Proof.Machine.execSad h ty d a b c s
  | .addc h d a b c => Sys2Proof.Machine.execAddc h d a b c s
  | .pand h d a b => Sys2Proof.Machine.execPand h d a b s
  | .por h d a b => Sys2Proof.Machine.execPor h d a b s
  | .pxor h d a b => Sys2Proof.Machine.execPxor h d a b s
  | .pnot h d a => Sys2Proof.Machine.execPnot h d a s
  | .vany h d a => Sys2Proof.Machine.execVany h d a s
  | .vall h d a => Sys2Proof.Machine.execVall h d a s
  | .vbal h d a => Sys2Proof.Machine.execVbal h d a s
  | .mbcnt h d a => Sys2Proof.Machine.execMbcnt h d a s
  | .fadd h fty absa rnd na nb d a b => Sys2Proof.Machine.execFadd h fty absa rnd na nb d a b s
  | .fsub h fty absa rnd na nb d a b => Sys2Proof.Machine.execFsub h fty absa rnd na nb d a b s
  | .fmul h fty absa rnd na nb d a b => Sys2Proof.Machine.execFmul h fty absa rnd na nb d a b s
  | .fma h fty absa rnd na nc d a b c => Sys2Proof.Machine.execFma h fty absa rnd na nc d a b c s
  | .fmin h fty absa na nb d a b => Sys2Proof.Machine.execFmin h fty absa na nb d a b s
  | .fmax h fty absa na nb d a b => Sys2Proof.Machine.execFmax h fty absa na nb d a b s
  | .fcmp h fty absa fc d a b => Sys2Proof.Machine.execFcmp h fty absa fc d a b s
  | .frnd h fty rnd d a => Sys2Proof.Machine.execFrnd h fty rnd d a s
  | .fclass h fty d a => Sys2Proof.Machine.execFclass h fty d a s
  | .fscl h fty rnd d a b => Sys2Proof.Machine.execFscl h fty rnd d a b s
  | .fdp2 h fty rnd na nc d a b c => Sys2Proof.Machine.execFdp2 h fty rnd na nc d a b c s
  | .rcp h fty ieee d a => Sys2Proof.Machine.execRcp h fty ieee d a s
  | .rsq h fty d a => Sys2Proof.Machine.execRsq h fty d a s
  | .sqt h fty ieee d a => Sys2Proof.Machine.execSqt h fty ieee d a s
  | .ex2 h fty d a => Sys2Proof.Machine.execEx2 h fty d a s
  | .lg2 h fty d a => Sys2Proof.Machine.execLg2 h fty d a s
  | .sin h fty d a => Sys2Proof.Machine.execSin h fty d a s
  | .cos h fty d a => Sys2Proof.Machine.execCos h fty d a s
  | .tnh h fty d a => Sys2Proof.Machine.execTnh h fty d a s
  | .cvt h dt st rnd sat d a => Sys2Proof.Machine.execCvt h dt st rnd sat d a s
  | .cvtp h fty rnd sat d a b => Sys2Proof.Machine.execCvtp h fty rnd sat d a b s
  | .cvtq h e5 sat pos d a b => Sys2Proof.Machine.execCvtq h e5 sat pos d a b s
  | .shfl h ty mode d a b => Sys2Proof.Machine.execShfl h ty mode d a b s
  | .rdfl h ty d a => Sys2Proof.Machine.execRdfl h ty d a s
  | .rdln h ty d a b => Sys2Proof.Machine.execRdln h ty d a b s
  | .lred h ty op d a => Sys2Proof.Machine.execLred h ty op d a s
  | .scan h ty op exc d a => Sys2Proof.Machine.execScan h ty op exc d a s
  | .cmpk h ty d a b c => Sys2Proof.Machine.execCmpk h ty d a b c s
  | .expd h ty d a b => Sys2Proof.Machine.execExpd h ty d a b s
  | .bperm h byte d a b => Sys2Proof.Machine.execBperm h byte d a b s
  | .ld h sp pol sz d a b disp => Sys2Proof.Machine.execLd h sp pol sz d a b disp s
  | .st h sp pol sz d a b disp => Sys2Proof.Machine.execSt h sp pol sz d a b disp s
  | .prf h l1 a b disp => Sys2Proof.Machine.execPrf h l1 a b disp s
  | .smp h mask mode d a b c ou ov ow => Sys2Proof.Machine.execSmp h mask mode d a b c ou ov ow s
  | .tld h mask d a b => Sys2Proof.Machine.execTld h mask d a b s
  | .atm h op sc w64 d a b c ad => Sys2Proof.Machine.execAtm h op sc w64 d a b c ad s
  | .ared h op sc w64 a b c ad => Sys2Proof.Machine.execAred h op sc w64 a b c ad s
  | .atmc h sc w64 d a b c tmpl => Sys2Proof.Machine.execAtmc h sc w64 d a b c tmpl s
  | .fence h kind sc => Sys2Proof.Machine.execFence h kind sc s
  | .bini h a b c => Sys2Proof.Machine.execBini h a b c s
  | .arv h sc d a => Sys2Proof.Machine.execArv h sc d a s
  | .xpct h a b => Sys2Proof.Machine.execXpct h a b s
  | .waitp h sc a b => Sys2Proof.Machine.execWaitp h sc a b s
  | .watch h a b => Sys2Proof.Machine.execWatch h a b s
  | .bcls h d => Sys2Proof.Machine.execBcls h d s
  | .acp h out twoD d a b c len rows gs ps => Sys2Proof.Machine.execAcp h out twoD d a b c len rows gs ps s
  | .amc h d a b c len => Sys2Proof.Machine.execAmc h d a b c len s
  | .gang stay k a => Sys2Proof.Machine.execGang stay k a s
  | .eset stay e a => Sys2Proof.Machine.execEset stay e a s
  | .mma ls k a b c er ec kc fbpd => Sys2Proof.Machine.execMma ls k a b c er ec kc fbpd s
  | .zclr h a b => Sys2Proof.Machine.execZclr h a b s
  | .zld h a b => Sys2Proof.Machine.execZld h a b s
  | .zdrn h acc cv a b c pd row0 rows cols shift col0 stride => Sys2Proof.Machine.execZdrn h acc cv a b c pd row0 rows cols shift col0 stride s
  | .zprg h d a => Sys2Proof.Machine.execZprg h d a s
  | .zgrow h d a => Sys2Proof.Machine.execZgrow h d a s
  | .zfree h a b => Sys2Proof.Machine.execZfree h a b s
  | .talc h d a => Sys2Proof.Machine.execTalc h d a s
  | .tsub h node sc a b => Sys2Proof.Machine.execTsub h node sc a b s
  | .tsig h sc a => Sys2Proof.Machine.execTsig h sc a s
  | .role a => Sys2Proof.Machine.execRole a s
  | .covr h a b c obj => Sys2Proof.Machine.execCovr h a b c obj s
  | .bqry h d a b c node => Sys2Proof.Machine.execBqry h d a b c node s
  | .bres h d a => Sys2Proof.Machine.execBres h d a s
  | .ctrd h d a => Sys2Proof.Machine.execCtrd h d a s
  | .mark h a b => Sys2Proof.Machine.execMark h a b s
  | .loadRetire grp idx => Sys2Proof.Machine.execLoadRetire grp idx s
  | .sfuRetire grp => Sys2Proof.Machine.execSfuRetire grp s
  | .portAnswer grp => Sys2Proof.Machine.execPortAnswer grp s
  | .waitpWake grp => Sys2Proof.Machine.execWaitpWake grp s
  | .watchMonitorComplete core mon => Sys2Proof.Machine.execWatchMonitorComplete core mon s
  | .acpCompletion op => Sys2Proof.Machine.execAcpCompletion op s
  | .amcCompletion op => Sys2Proof.Machine.execAmcCompletion op s
  | .mmaOperationComplete op => Sys2Proof.Machine.execMmaOperationComplete op s
  | .zldCompletion op => Sys2Proof.Machine.execZldCompletion op s
  | .zdrnCompletion op => Sys2Proof.Machine.execZdrnCompletion op s
  | .rangeLockEntryFree grp => Sys2Proof.Machine.execRangeLockEntryFree grp s
  | .covrTileEmit op => Sys2Proof.Machine.execCovrTileEmit op s
  | .covrCompletion op => Sys2Proof.Machine.execCovrCompletion op s
  | .beamSplit q beam child => Sys2Proof.Machine.execBeamSplit q beam child s
  | .beamSpawn q beam child tri => Sys2Proof.Machine.execBeamSpawn q beam child tri s
  | .beamQueryEnd q => Sys2Proof.Machine.execBeamQueryEnd q s
  | .beamTraversalFault q => Sys2Proof.Machine.execBeamTraversalFault q s
  | .stationLaunch st idx => Sys2Proof.Machine.execStationLaunch st idx s
  | .nodeBatchTimeout tag node => Sys2Proof.Machine.execNodeBatchTimeout tag node s
  | .taskPlacement item core => Sys2Proof.Machine.execTaskPlacement item core s
  | .taskSlotsReturn team => Sys2Proof.Machine.execTaskSlotsReturn team s
  | .teamTilesReturn team => Sys2Proof.Machine.execTeamTilesReturn team s
  | .dispatcherVisit tag => Sys2Proof.Machine.execDispatcherVisit tag s
  | .asyncStopLands grp => Sys2Proof.Machine.execAsyncStopLands grp s
  | .finePreemption team => Sys2Proof.Machine.execFinePreemption team s
  | .remapEntryInstall slice team => Sys2Proof.Machine.execRemapEntryInstall slice team s
  | .remapEntryFree slice team => Sys2Proof.Machine.execRemapEntryFree slice team s
  | .timeSliceEnd slice => Sys2Proof.Machine.execTimeSliceEnd slice s
  | .barrierPointSave team => Sys2Proof.Machine.execBarrierPointSave team s
  | .barrierPointLimit team => Sys2Proof.Machine.execBarrierPointLimit team s
  | .teamResume team => Sys2Proof.Machine.execTeamResume team s
  | .watchdogFire slice tag => Sys2Proof.Machine.execWatchdogFire slice tag s
  | .externalWaitAdvisory slice tag => Sys2Proof.Machine.execExternalWaitAdvisory slice tag s
  | .pcMatchFire grp => Sys2Proof.Machine.execPcMatchFire grp s
  | .watchpointDelivery grp => Sys2Proof.Machine.execWatchpointDelivery grp s
  | .clusterHaltLands core => Sys2Proof.Machine.execClusterHaltLands core s
  | .traceSample cluster => Sys2Proof.Machine.execTraceSample cluster s
  | .dbgHalt fn slice cl => Sys2Proof.Machine.execDbgHalt fn slice cl s
  | .dbgResume fn slice cl => Sys2Proof.Machine.execDbgResume fn slice cl s
  | .dbgStep fn slice cl core slot => Sys2Proof.Machine.execDbgStep fn slice cl core slot s
  | .trEnable fn slice cl val => Sys2Proof.Machine.execTrEnable fn slice cl val s
  | .trRptrWrite fn slice cl val => Sys2Proof.Machine.execTrRptrWrite fn slice cl val s
  | .cbClear fn slice bank val => Sys2Proof.Machine.execCbClear fn slice bank val s
  | .halfWordLatchRead fn off => Sys2Proof.Machine.execHalfWordLatchRead fn off s
  | .cxLoad fn => Sys2Proof.Machine.execCxLoad fn s
  | .tiInvalidateRange fn ctl => Sys2Proof.Machine.execTiInvalidateRange fn ctl s
  | .tiInvalidateAll fn ctl => Sys2Proof.Machine.execTiInvalidateAll fn ctl s
  | .invalidationComplete fn => Sys2Proof.Machine.execInvalidationComplete fn s
  | .elasticHandover cl => Sys2Proof.Machine.execElasticHandover cl s
  | .leaseDurationExpiry handle => Sys2Proof.Machine.execLeaseDurationExpiry handle s
  | .shedNotify fn ring => Sys2Proof.Machine.execShedNotify fn ring s
  | .shedLeaseEnd fn ring => Sys2Proof.Machine.execShedLeaseEnd fn ring s
  | .shedEntryComplete fn ring => Sys2Proof.Machine.execShedEntryComplete fn ring s
  | .collectiveComplete fn ring peers => Sys2Proof.Machine.execCollectiveComplete fn ring peers s
  | .abortFlit coll dev => Sys2Proof.Machine.execAbortFlit coll dev s
  | .encodeFrameStart slice => Sys2Proof.Machine.execEncodeFrameStart slice s
  | .superblockRowEncode slice => Sys2Proof.Machine.execSuperblockRowEncode slice s
  | .frameAbandon slice => Sys2Proof.Machine.execFrameAbandon slice s
  | .packetWrite slice => Sys2Proof.Machine.execPacketWrite slice s
  | .hbmUeDetected pa gid => Sys2Proof.Machine.execHbmUeDetected pa gid s
  | .correctedEventSummary tag slice struct count => Sys2Proof.Machine.execCorrectedEventSummary tag slice struct count s
  | .pfReplay fn gid => Sys2Proof.Machine.execPfReplay fn gid s
  | .pfCancel fn gid => Sys2Proof.Machine.execPfCancel fn gid s
  | .sliceReset mask => Sys2Proof.Machine.execSliceReset mask s
  | .vfReset tag => Sys2Proof.Machine.execVfReset tag s
  | .functionLevelReset fn => Sys2Proof.Machine.execFunctionLevelReset fn s
  | .deviceFatal cause => Sys2Proof.Machine.execDeviceFatal cause s
  | .sliceBringup slice ok => Sys2Proof.Machine.execSliceBringup slice ok s
  | .fwErase port => Sys2Proof.Machine.execFwErase port s
  | .fwWritePage port => Sys2Proof.Machine.execFwWritePage port s
  | .fwVerify port => Sys2Proof.Machine.execFwVerify port s
  | .fwSelect port => Sys2Proof.Machine.execFwSelect port s
  | .fwRaiseSvn port => Sys2Proof.Machine.execFwRaiseSvn port s
  | .spdmGetCertificate fn => Sys2Proof.Machine.execSpdmGetCertificate fn s
  | .spdmChallenge fn nonce => Sys2Proof.Machine.execSpdmChallenge fn nonce s
  | .spdmGetMeasurements fn nonce => Sys2Proof.Machine.execSpdmGetMeasurements fn nonce s
  | .ownClaim port prio => Sys2Proof.Machine.execOwnClaim port prio s
  | .ownWithdraw port => Sys2Proof.Machine.execOwnWithdraw port s
  | .ownRenew port => Sys2Proof.Machine.execOwnRenew port s
  | .ownHand port target => Sys2Proof.Machine.execOwnHand port target s
  | .sqEnable fn q ctl => Sys2Proof.Machine.execSqEnable fn q ctl s
  | .sqDoorbell fn q tail => Sys2Proof.Machine.execSqDoorbell fn q tail s
  | .entryRead fn q => Sys2Proof.Machine.execEntryRead fn q s
  | .launch sub => Sys2Proof.Machine.execLaunch sub s
  | .fenceWait sub => Sys2Proof.Machine.execFenceWait sub s
  | .fenceWaitReread sub => Sys2Proof.Machine.execFenceWaitReread sub s
  | .fenceSignal sub => Sys2Proof.Machine.execFenceSignal sub s
  | .noOperation sub => Sys2Proof.Machine.execNoOperation sub s
  | .submissionComplete sub => Sys2Proof.Machine.execSubmissionComplete sub s
  | .apertureWrite fn off data => Sys2Proof.Machine.execApertureWrite fn off data s
  | .apertureRead fn off len => Sys2Proof.Machine.execApertureRead fn off len s
  | .flitReceived port seq ack nak crcOk => Sys2Proof.Machine.execFlitReceived port seq ack nak crcOk s
  | .linkRetrain port => Sys2Proof.Machine.execLinkRetrain port s
  | .portDown port => Sys2Proof.Machine.execPortDown port s
  | .portRetry port => Sys2Proof.Machine.execPortRetry port s
  | .peerRequest dev tag write addr data => Sys2Proof.Machine.execPeerRequest dev tag write addr data s
  | .telemetrySample x => Sys2Proof.Machine.execTelemetrySample x s
  | .thermalTrip cause => Sys2Proof.Machine.execThermalTrip cause s
  | .registerWrite fn off val wide => Sys2Proof.Machine.execRegisterWrite fn off val wide s
  | .unassignedOpc w => Sys2Proof.Machine.execUnassignedOpc w s
  | .storeAcknowledge grp => Sys2Proof.Machine.execStoreAcknowledge grp s
  | .engineBytesLand op n => Sys2Proof.Machine.execEngineBytesLand op n s
  | .beamEnds q beam => Sys2Proof.Machine.execBeamEnds q beam s
  | .externalInterrupt grp => Sys2Proof.Machine.execExternalInterrupt grp s
  | .arithmeticClock sched => Sys2Proof.Machine.execArithmeticClock sched s
  | .tokenCharge tag amount => Sys2Proof.Machine.execTokenCharge tag amount s
  | .linkRetrained port => Sys2Proof.Machine.execLinkRetrained port s
  | .yield => Sys2Proof.Machine.execYield s
  | .eret => Sys2Proof.Machine.execEret s
  | .mhret => Sys2Proof.Machine.execMhret s
  | .tend => Sys2Proof.Machine.execTend s
  | .watchpointHit => Sys2Proof.Machine.execWatchpointHit s
  | .assign => Sys2Proof.Machine.execAssign s
  | .assignShared => Sys2Proof.Machine.execAssignShared s
  | .fuse => Sys2Proof.Machine.execFuse s
  | .split => Sys2Proof.Machine.execSplit s
  | .splitTimeout => Sys2Proof.Machine.execSplitTimeout s
  | .release => Sys2Proof.Machine.execRelease s
  | .keyAssign => Sys2Proof.Machine.execKeyAssign s
  | .keyShare => Sys2Proof.Machine.execKeyShare s
  | .keyReturn => Sys2Proof.Machine.execKeyReturn s
  | .window => Sys2Proof.Machine.execWindow s
  | .elastic => Sys2Proof.Machine.execElastic s
  | .elasticRelease => Sys2Proof.Machine.execElasticRelease s
  | .lease => Sys2Proof.Machine.execLease s
  | .revoke => Sys2Proof.Machine.execRevoke s
  | .tokens => Sys2Proof.Machine.execTokens s
  | .ways => Sys2Proof.Machine.execWays s
  | .limits => Sys2Proof.Machine.execLimits s
  | .claim => Sys2Proof.Machine.execClaim s
  | .claimRelease => Sys2Proof.Machine.execClaimRelease s
  | .tokenPeriodBoundary => Sys2Proof.Machine.execTokenPeriodBoundary s
  | .resetEscalation => Sys2Proof.Machine.execResetEscalation s
  | .powerGood => Sys2Proof.Machine.execPowerGood s
  | .stageS2 => Sys2Proof.Machine.execStageS2 s
  | .packageColdReset => Sys2Proof.Machine.execPackageColdReset s
  | .electionClose => Sys2Proof.Machine.execElectionClose s
  | .ownerLeaseExpiry => Sys2Proof.Machine.execOwnerLeaseExpiry s
  | .lifeCounterFlush => Sys2Proof.Machine.execLifeCounterFlush s
  | .orderlyPowerDown => Sys2Proof.Machine.execOrderlyPowerDown s
  | .lcSnapshot => Sys2Proof.Machine.execLcSnapshot s
  | .abruptLossOfPower => Sys2Proof.Machine.execAbruptLossOfPower s

end Sys2Proof.Machine
end

