-- ==== Sys2Proof/Machine/Run.lean ====
section
/-!
DEFINITION. One step (log 1): the agenda names what moves; with none, the group in focus does. And the placing of one
instruction where a group fetches next (log 10).
-/
namespace Sys2Proof.Machine

/-- Ticks pass; a node's batch closes at the first tick of its TIMEOUT (R357). -/
def passTime (n : Nat) (s : State) : State := closeExpired { s with tick := s.tick + n }

/-- Time passes: nothing else can move. -/
def idle (s : State) : Host.Outcome State Fault Refusal := .next (passTime 1 s)

/-- May the group in focus move at all: it lives, is resident, is not halted, is not stopped for its save (R336), and
the device runs (R476, R495, R514)? -/
def mayMove (s : State) : Bool :=
  let x := s.g
  x.uid != 0 && !x.halted && s.t.resid == .resident && s.dump.fatal == none && s.boot.stage != 3 && !(x.runPos == 0 && x.stop == some .preempt)

/-! ### The scheduler's choice (R283, R285, R286) -/

/-- The scheduler of the group in focus: 4 × core + q (R145). -/
def mySched (s : State) : Nat := 4 * coreOf s.t s.g + s.g.slot % 64 / 16

/-- The other groups of the scheduler. -/
def mates (s : State) : List (Group × Team) := (schedGroups s (mySched s)).filter (·.1.uid != s.g.uid)

/-- Is a group inside a run, which keeps the scheduler (R283, R286)? -/
def midRun (p : Group × Team) : Bool :=
  p.1.runPos != 0 && p.1.stat == .running && !p.1.halted && p.2.resid == .resident

/-- Does the first come before the second in the order of R286: class background last, deadline, class, age, slot? -/
def comesFirst (p q : Group × Team) : Bool :=
  let bg (r : Group × Team) : Bool := r.2.cls == 2
  if bg p != bg q then bg q
  else if !bg p && p.2.deadline != q.2.deadline then decide (p.2.deadline < q.2.deadline)
  else if p.2.cls != q.2.cls then decide (p.2.cls < q.2.cls)
  else if p.1.start != q.1.start then decide (p.1.start < q.1.start)
  else decide (p.1.slot < q.1.slot)

/-- Is it the turn of the group in focus: it is inside its run, or at a run boundary with no other group of the scheduler
inside one and no eligible one that comes first? -/
def myTurn (s : State) : Bool :=
  s.g.runPos != 0 || (mates s).all fun p => !midRun p && !(eligible s p.1 p.2 && comesFirst p (s.g, s.t))

/-- The scheduler has decided for the group in focus: the others of it that yielded are eligible again (R133, R285). -/
def takeTurn (s : State) : State :=
  if s.g.runPos != 0 || (mates s).all fun p => !p.1.yielded then s
  else { s with gs := s.gs.map fun x => if (mates s).any (·.1.uid == x.uid) then { x with yielded := false } else x }

/-- The group in focus issues: fetch, decode, execute. -/
def fetchExec (s : State) : Host.Outcome State Fault Refusal :=
  match fetch s with
  | .instr i => exec i s
  | .fault f => .next (takeFault f s)

/-- The run of the group in focus that is its scheduler's choice: a lock entry that its save released is taken again first
(R210); a hit is delivered, an entry fires, or an instruction issues. -/
def runStep (s : State) : Host.Outcome State Fault Refusal :=
  if s.g.lockLost then (if (relock s.g.uid s).g.lockLost then idle s else .next (relock s.g.uid s))
  else if hitReady s.g then .next (deliverHit s)
  else match pcMatch s with
    | some e => .next (fireMatch e s)
    | none => fetchExec (takeTurn s)

/-- The move of the group in focus: a stop lands, a waiting path resumes, or it runs where the scheduler chooses it; the one
decision that `yield` makes it miss goes by (R133). -/
def issueStep (s : State) : Host.Outcome State Fault Refusal :=
  if !mayMove s then idle s
  else if stopReady s.g then .next (landStop s)
  else match s.g.stat with
    | .running =>
      if s.g.yielded && s.g.runPos == 0 then .next (onG (fun x => { x with yielded := false }) s)
      else if !myTurn s then idle s
      else runStep s
    | .waiting _ =>
      match wake s with
      | some s' => .next s'
      | none => idle s
    | _ => idle s

/-- Is a row of the table a device event, which the agenda may name? -/
def isEvent (i : Instr) : Bool :=
  match i with
  | .unassignedOpc _ => false
  | i => toEnc i == none

/-- Does an event come about in a device that has stopped for good: after a device-wide fatal error (R476), or halted
(R495, R514)? -/
def outlasts (fatal : Bool) (i : Instr) : Bool :=
  match i with
  | .packageColdReset => true
  | .orderlyPowerDown => true
  | .abruptLossOfPower => true
  | .lifeCounterFlush => true
  | .lcSnapshot => !fatal
  | .registerWrite _ _ _ _ => true
  | .spdmGetCertificate _ => fatal
  | .spdmChallenge _ _ => fatal
  | .spdmGetMeasurements _ _ => fatal
  | .flitReceived _ _ _ _ _ => fatal
  | .linkRetrain _ => fatal
  | .linkRetrained _ => fatal
  | .portDown _ => fatal
  | .portRetry _ => fatal
  | .telemetrySample _ => fatal
  | .thermalTrip _ => fatal
  | _ => false

/-- Does the device take an event now? -/
def takes (s : State) (i : Instr) : Bool :=
  if s.boot.stage == 3 then outlasts false i
  else if s.dump.fatal.isSome then outlasts true i
  else true

/-- One move. -/
def move (m : Move) (s : State) : Host.Outcome State Fault Refusal :=
  match m with
  | .issue u =>
    match findGroup s u with
    | some _ => issueStep (focus u s)
    | none => .fault .badAgenda
  | .event i => if !isEvent i then .fault .badAgenda else if takes s i then exec i s else .next s
  | .elapse n => .next (passTime n s)

/-- The agenda's next move; with an empty agenda the group in focus moves. -/
def stepOf (s : State) : Host.Outcome State Fault Refusal :=
  match s.agenda with
  | m :: rest => move m { s with agenda := rest }
  | [] => issueStep s

/-! ### Placing an instruction -/

/-- Is the group in focus about to fetch: it may move, no stop or hit comes before, and it is the scheduler's choice? -/
def ready (s : State) : Bool :=
  mayMove s && !stopReady s.g && s.g.stat == .running && !(s.g.yielded && s.g.runPos == 0) && myTurn s && !s.g.lockLost &&
    !hitReady s.g && (pcMatch s).isNone

/-- Does the group in focus fetch its next instruction at a PC that translates, whatever stands there? -/
def fetches (s : State) : Bool :=
  s.agenda == [] && ready s && (mates s).isEmpty && !nullEntry s && s.g.pc.toNat % 32 ≤ 16 &&
    (match xlate s s.t.tag (coreOf s.t s.g) s.g.pc.toNat needX with
     | .ok x => x.target == 0 && !gPoison s x 0
     | .error _ => false)

/-- The address at which a program is loaded into an idle device. -/
def loadVa : VA := 0x10000

/-- The launch of a group on slice 0 for tag 2: what a loaded context, a submission and a placement leave (R287, R329,
R445), with one 1 GB page of key 1 mapped at address 0; its scheduler serves no other group. -/
def withGroup (s : State) : State :=
  let u := s.nextUid
  let d : Desc := { Desc.blank with ofile := true, ngrp := 1, roles := ⟨256, loadVa⟩ :: List.replicate 7 ⟨0, 0⟩ }
  let t : Team := { Team.blank with uid := u + 1, tag := 2, desc := d, resid := .resident, placedAt := s.tick }
  let x : Group := { Group.blank with uid := u, team := u + 1, pc := loadVa, em := laneMask 32, live := laneMask 32,
                                      stat := .running, start := s.tick }
  let c : Ctx := { ptroot := 0x1000, fallback := false, extOn := false, wdint := 100000000, extint := 0,
                   err := ⟨0x20000, 6, 0x21000, 0x21004⟩, pools := [], queues := [], nodes := [], rings := [],
                   frames := [] }
  let s := { s with agenda := [], nextUid := u + 2, tlb := [],
                    gs := (if s.g.uid = 0 then s.gs else s.g :: s.gs).filter (fun y => !(schedGroups s 0).any (·.1.uid == y.uid)), g := x,
                    ts := if s.t.uid = 0 then s.ts else s.t :: s.ts, t := t,
                    keyOwner := poke s.keyOwner 1 2, dump := { s.dump with fatal := none },
                    boot := { s.boot with stage := 2, ready := true },
                    mem := { s.mem with hbm := pokeBytes (pokeBytes s.mem.hbm 0x1000 8 0x2001) 0x2000 8 (2 ^ 52 + 0x1F) } }
  let s := updSlice 0 (fun z => { z with st := 1, owner := 2, up := true }) s
  updFn 2 (fun f => { f with ctx := some c }) s

/-- The submission of the team in focus begins with memory as it is, so that a fetch finds it so (R48). -/
def beginNow (s : State) : State := { s with t := { s.t with cn := s.snapshot } }

/-- Store the words of an instruction at the PC of the group in focus. -/
def placeAt (nbits w : Nat) (s : State) : State :=
  match xlate s s.t.tag (coreOf s.t s.g) s.g.pc.toNat needX with
  | .ok x => beginNow (gWrite x (w % 2 ^ nbits) 16 s)
  | .error _ => s

end Sys2Proof.Machine
end

