-- ==== Sys2Proof/Machine/Step.lean ====
section
/-!
DEFINITION. The step of the machine, and the state with one instruction placed where it fetches next.
-/
namespace Sys2Proof.Machine

/-- One step (log 1). -/
def step (s : State) : Host.Outcome State Fault Refusal := stepOf s

/-- The state with an instruction of the given bits, zeros above them, where `step` fetches next: at the PC of the group
in focus when it is about to fetch, else in a group that a launch left there (log 10). -/
def State.withFetchWord (s : State) (nbits w : Nat) : State :=
  if fetches s then placeAt nbits w s else placeAt nbits w (withGroup s)

end Sys2Proof.Machine
end

