-- ==== Sys2Proof/WellFormed.lean ====
section
/-!
DEFINITION. Well-formed instructions: those whose encoding passes the checks of spec/03 R73 and whose literal operands
name one literal (spec/02 R54).
-/
namespace Sys2Proof

/-- The operands that can name the literal of the 96-bit form (R54), where an instruction has more than one. -/
def litOps (i : Instr) : List Opnd :=
  match i with
  | .syswr _ _ a b => [a, b]
  | .gadd _ _ _ _ a b => [a, b]
  | .gsub _ _ _ _ a b => [a, b]
  | .gmul _ _ _ a b => [a, b]
  | .gmulh _ _ _ a b => [a, b]
  | .gmad _ _ _ _ a b c => [a, b, c]
  | .gand _ _ _ a b => [a, b]
  | .gor _ _ _ a b => [a, b]
  | .gxor _ _ _ a b => [a, b]
  | .gshl _ _ _ a b => [a, b]
  | .gshr _ _ _ a b => [a, b]
  | .gsar _ _ _ a b => [a, b]
  | .gmin _ _ _ a b => [a, b]
  | .gmax _ _ _ a b => [a, b]
  | .gcmp _ _ _ _ a b => [a, b]
  | .gsel _ _ _ a b c => [a, b, c]
  | .glea _ _ _ a b => [a, b]
  | .gbfx _ _ _ a b => [a, b]
  | .gbfi _ _ a b c => [a, b, c]
  | .add _ _ _ _ a b => [a, b]
  | .sub _ _ _ _ a b => [a, b]
  | .mul _ _ _ a b => [a, b]
  | .mulh _ _ _ a b => [a, b]
  | .mad _ _ _ _ a b c => [a, b, c]
  | .and _ _ _ a b => [a, b]
  | .or _ _ _ a b => [a, b]
  | .xor _ _ _ a b => [a, b]
  | .shl _ _ _ a b => [a, b]
  | .shr _ _ _ a b => [a, b]
  | .sar _ _ _ a b => [a, b]
  | .min _ _ _ a b => [a, b]
  | .max _ _ _ a b => [a, b]
  | .sel _ _ _ a b _ => [a, b]
  | .cmp _ _ _ _ a b => [a, b]
  | .bfx _ _ _ a b => [a, b]
  | .bfi _ _ a b c => [a, b, c]
  | .idp4 _ _ _ _ _ a b c => [a, b, c]
  | .sad _ _ _ a b c => [a, b, c]
  | .addc _ _ a b _ => [a, b]
  | .pand _ _ a b => [a, b]
  | .por _ _ a b => [a, b]
  | .pxor _ _ a b => [a, b]
  | .fadd _ _ _ _ _ _ _ a b => [a, b]
  | .fsub _ _ _ _ _ _ _ a b => [a, b]
  | .fmul _ _ _ _ _ _ _ a b => [a, b]
  | .fma _ _ _ _ _ _ _ a b c => [a, b, c]
  | .fmin _ _ _ _ _ _ a b => [a, b]
  | .fmax _ _ _ _ _ _ a b => [a, b]
  | .fcmp _ _ _ _ _ a b => [a, b]
  | .fscl _ _ _ _ a b => [a, b]
  | .fdp2 _ _ _ _ _ _ a b c => [a, b, c]
  | .cvtp _ _ _ _ _ a b => [a, b]
  | .cvtq _ _ _ _ _ a b => [a, b]
  | .shfl _ _ _ _ a b => [a, b]
  | .rdln _ _ _ a b => [a, b]
  | .bperm _ _ _ a b => [a, b]
  | .bini _ a b c => [a, b, c]
  | .xpct _ a b => [a, b]
  | .waitp _ _ a b => [a, b]
  | .zclr _ a b => [a, b]
  | .zld _ a b => [a, b]
  | .zfree _ a b => [a, b]
  | .mark _ a b => [a, b]
  | _ => []

/-- Do all the literal operands carry the literal of the encoding? -/
def litsAgree (l : Word) (os : List Opnd) : Bool :=
  os.all fun o => match o with
    | .lit x => x == l
    | _ => true

/-- Is the instruction one that an encoding stands for (R73, R54)? A device event has no encoding. -/
def wellFormed (i : Instr) : Bool :=
  match toEnc i with
  | none => false
  | some e => e.check == none && litsAgree e.f.lit (litOps i)

end Sys2Proof
end

