-- ==== Sys2Proof/Safety.lean ====
section
/-!
DEFINITION. What counts as a safe run, in the terms the statements use: an instruction that passes the checks at issue,
what it may change besides its results, where its results stand, and the invariant of the machine.
-/
namespace Sys2Proof.Machine

/-! ### Issue -/

/-- Instruction i, whose encoding is e, passes every check at issue in s (R73, R189): it raises nothing before it acts. -/
def Issues (i : Instr) (s : State) (e : Enc) : Prop := toEnc i = some e ∧ issueFault e s = none

/-! ### What stays -/

/-- Value and mark of a register of the group, by the key that R28 counts registers with: vN is N, gN 256 + N, oN 320 + N,
pN 328 + N. -/
def regVal (x : Group) (k l : Nat) : Word × Bool :=
  if k < 256 then (x.vAt k l, x.vMark k l)
  else if k < 320 then (x.gAt (k - 256), x.gMark (k - 256))
  else if k < 328 then (x.oAt (k - 320) l, x.oMark (k - 320) l)
  else (if (x.pAt (k - 328)).getLsbD l then 1 else 0, false)

/-- Is the key that of a uniform register, which has one value for the whole group (R11)? -/
def uniformKey (k : Nat) : Bool := decide (256 ≤ k) && decide (k < 320)

/-- Everything of a group but its registers, SR_FFLAGS, and what fetch, runs, holds and path switching keep (PC, EM, state, run,
latches, pending results) is the same. -/
def SameRest (x y : Group) : Prop :=
  y = { x with stat := y.stat, yielded := y.yielded, pc := y.pc, em := y.em, regs := y.regs, sh := y.sh, o := y.o,
               om := y.om, runPos := y.runPos, runStart := y.runStart, runReads := y.runReads,
               lat := y.lat, latm := y.latm, fflags := y.fflags, pend := y.pend, stop := y.stop, skid := y.skid,
               noMatch := y.noMatch, again := y.again }

/-- Everything of the device but the group in focus, its tenant's counters, the watchdogs its progress restarts, the translations
its fetch caches, the hits that note its runs (R420) and the counter of open values is the same: memory, scratchpads, tiles,
every other group, team and unit. -/
def SameDevice (s t : State) : Prop :=
  t = { s with g := t.g, wdog := t.wdog, wext := t.wext, evc := t.evc, obs := t.obs, fresh := t.fresh, tlb := t.tlb, wpq := t.wpq }

/-- The watchpoint hits to be reported are the same but for the runs that they note (R420). -/
def SameHits (s t : State) : Prop := t.wpq.map (fun h => { h with runs := [] }) = s.wpq.map (fun h => { h with runs := [] })

/-- Every byte of memory reads as before: local and host memory with key, poison and the lines of other keys, and every
scratchpad. -/
def SameBytes (s t : State) : Prop :=
  (∀ a, peek t.mem.hbm a = peek s.mem.hbm a ∧ peek t.mem.key a = peek s.mem.key a ∧ peek t.mem.pois a = peek s.mem.pois a
    ∧ peek t.mem.host a = peek s.mem.host a ∧ peek t.mem.under a = peek s.mem.under a) ∧
  ∀ team off, (findTeam t team).map (fun p => peek p.pad off) = (findTeam s team).map (fun p => peek p.pad off)

/-- Registers change only where keys and lanes say: those of `ks`, and of them lane registers only in the lanes of `act`. -/
def SameRegs (x y : Group) (ks : List Nat) (act : Mask) : Prop :=
  (x.shadowed = true → y.regs = x.regs) ∧ y.sh.map (·.kind) = x.sh.map (·.kind) ∧
  ∀ k l, k < 335 → l < 64 → l < x.gw → (k ∈ ks → uniformKey k = false ∧ act.getLsbD l = false) → regVal y k l = regVal x k l

/-- The frame of an instruction that writes the registers of `ks` in the lanes of `act`, raises the flags `fl` and stores
nothing. -/
structure RegFrame (s t : State) (ks : List Nat) (act : Mask) (fl : Flags) : Prop where
  device : SameDevice s t
  hits : SameHits s t
  bytes : SameBytes s t
  rest : SameRest s.g t.g
  flags : t.g.fflags = s.g.fflags ||| fl
  regs : SameRegs s.g t.g ks act

/-! ### Results -/

/-- The keys of the registers that an instruction writes with its D operand (R26, R28). -/
def destKeys (e : Enc) (d : Opnd) (n : Nat) (act : Mask) : List Nat := if nwb e || act == 0 then [] else opKeys d n

/-- With D written, its lane values are f in the lanes of `act` (R17). -/
def LaneResult (e : Enc) (t : State) (d : Opnd) (wide : Bool) (act : Mask) (f : Nat → DWord) : Prop :=
  nwb e = false → ∀ l, l < 64 → l < t.g.gw → act.getLsbD l = true →
    (match d with
     | .v r => if wide then t.g.vPair r.toNat l = f l else t.g.vAt r.toNat l = (f l).setWidth 32
     | .o r => wide = false ∧ t.g.oAt r.toNat l = (f l).setWidth 32
     | _ => False)

/-- With D written and a lane active, the uniform D holds v (R17); the zero register takes nothing (R208). -/
def UniResult (e : Enc) (t : State) (d : Opnd) (wide : Bool) (act : Mask) (v : DWord) : Prop :=
  nwb e = false → act ≠ 0 →
    (match d with
     | .g r => if wide then t.g.gPair r.toNat = v else t.g.gAt r.toNat = v.setWidth 32
     | .zero => True
     | _ => False)

/-- With D written, the predicate D is f in the lanes of `act`, and p7 stays all true (R14, R17). -/
def PredResult (e : Enc) (t : State) (d : Opnd) (act : Mask) (f : Nat → Bool) : Prop :=
  nwb e = false → ∀ l, l < 64 → l < t.g.gw → act.getLsbD l = true →
    (match d with
     | .p n => (t.g.pAt n.toNat).getLsbD l = (n == 7 || f l)
     | _ => False)

/-- i completes with the lane values f of the operands in D, and changes nothing else. -/
def LaneSpec (i : Instr) (h : Hdr) (wide : Bool) (d : Opnd) (f : Group → Nat → DWord) : Prop :=
  ∀ s e, Issues i s e → ∃ t, exec i s = .next t ∧ LaneResult e t d wide (s.g.active h.toGuard) (f s.g) ∧
    RegFrame s t (destKeys e d (regsOf wide) (s.g.active h.toGuard)) (s.g.active h.toGuard) 0

/-- i completes with the uniform value v of the operands in D, and changes nothing else. -/
def UniSpec (i : Instr) (h : Hdr) (wide : Bool) (d : Opnd) (v : Group → DWord) : Prop :=
  ∀ s e, Issues i s e → ∃ t, exec i s = .next t ∧ UniResult e t d wide (s.g.active h.toGuard) (v s.g) ∧
    RegFrame s t (destKeys e d (regsOf wide) (s.g.active h.toGuard)) (s.g.active h.toGuard) 0

/-- i completes with the predicate f of the operands in D, and changes nothing else. -/
def PredSpec (i : Instr) (h : Hdr) (d : Opnd) (f : Group → Nat → Bool) : Prop :=
  ∀ s e, Issues i s e → ∃ t, exec i s = .next t ∧ PredResult e t d (s.g.active h.toGuard) (f s.g) ∧
    RegFrame s t (destKeys e d 1 (s.g.active h.toGuard)) (s.g.active h.toGuard) 0

/-- i completes with the floating-point lane results f, whose flags the active lanes raise (R103), and changes nothing
else. -/
def FpSpec (i : Instr) (h : Hdr) (wide : Bool) (d : Opnd) (f : Group → Nat → FR) : Prop :=
  ∀ s e, Issues i s e → ∃ t, exec i s = .next t ∧
    LaneResult e t d wide (s.g.active h.toGuard) (fun l => BitVec.ofNat 64 (f s.g l).x) ∧
    RegFrame s t (destKeys e d (regsOf wide) (s.g.active h.toGuard)) (s.g.active h.toGuard)
      (lanesFlags (s.g.active h.toGuard) (fun l => (f s.g l).fl) s.g.gw)

/-- i completes with the lane results f of the special-function queue: they stand in D, and a result waits in the queue that
holds the uses of D (R155); it changes nothing else. -/
def QueueSpec (i : Instr) (h : Hdr) (wide : Bool) (d : Opnd) (f : Group → Nat → FR) : Prop :=
  ∀ s e, Issues i s e → ∃ t, exec i s = .next t ∧
    LaneResult e t d wide (s.g.active h.toGuard) (fun l => BitVec.ofNat 64 (f s.g l).x) ∧
    RegFrame s t (destKeys e d (regsOf wide) (s.g.active h.toGuard)) (s.g.active h.toGuard)
      (lanesFlags (s.g.active h.toGuard) (fun l => (f s.g l).fl) s.g.gw) ∧
    (s.g.active h.toGuard ≠ 0 → t.g.pend.getLast? = some ⟨true, pendKeys e d (regsOf wide) s.g.runPos⟩)

/-- With D written, its lane values are those of f in the lanes of `act` that f gives one, and the lane keeps its value where
f gives none (R175). -/
def LaneResultOpt (e : Enc) (s t : State) (d : Opnd) (wide : Bool) (act : Mask) (f : Nat → Option DWord) : Prop :=
  nwb e = false → ∀ l, l < 64 → l < t.g.gw → act.getLsbD l = true →
    (match d with
     | .v r => if wide then t.g.vPair r.toNat l = (f l).getD (s.g.vPair r.toNat l)
         else t.g.vAt r.toNat l = ((f l).map (·.setWidth 32)).getD (s.g.vAt r.toNat l)
     | .o r => wide = false ∧ t.g.oAt r.toNat l = ((f l).map (·.setWidth 32)).getD (s.g.oAt r.toNat l)
     | _ => False)

/-- i completes with the lane values that f gives, keeps the lanes that it gives none, and changes nothing else. -/
def LaneOptSpec (i : Instr) (h : Hdr) (wide : Bool) (d : Opnd) (f : Group → Nat → Option DWord) : Prop :=
  ∀ s e, Issues i s e → ∃ t, exec i s = .next t ∧ LaneResultOpt e s t d wide (s.g.active h.toGuard) (f s.g) ∧
    RegFrame s t (destKeys e d (regsOf wide) (s.g.active h.toGuard)) (s.g.active h.toGuard) 0

/-- i completes with the predicate (f l).1 in D and the flags (f l).2 of the active lanes (R103), and changes nothing else. -/
def PredFlagSpec (i : Instr) (h : Hdr) (d : Opnd) (f : Group → Nat → Bool × Flags) : Prop :=
  ∀ s e, Issues i s e → ∃ t, exec i s = .next t ∧ PredResult e t d (s.g.active h.toGuard) (fun l => (f s.g l).1) ∧
    RegFrame s t (destKeys e d 1 (s.g.active h.toGuard)) (s.g.active h.toGuard)
      (lanesFlags (s.g.active h.toGuard) (fun l => (f s.g l).2) s.g.gw)

/-! ### The loops of R178 and R179 -/

/-- One turn of the reduction loop with distance d: neighbours combine where l is a multiple of 2d (R178). -/
def redTurn (c : RNode → RNode → RNode) (gw : Nat) (xs : List RNode) (d : Nat) : List RNode :=
  if d < gw then
    (List.range gw).map fun i => if i % (2 * d) = 0 then c (xs.getD i none) (xs.getD (i + d) none) else xs.getD i none
  else xs

/-- The reduction loop: distances 1, 2, 4, … below GW (R178). -/
def redLoop (c : RNode → RNode → RNode) (gw : Nat) (xs : List RNode) : List RNode :=
  [1, 2, 4, 8, 16, 32].foldl (redTurn c gw) xs

/-- One turn of the prefix loop with distance d, from the values before it (R179). -/
def scanTurn (c : RNode → RNode → RNode) (gw : Nat) (ys : List RNode) (d : Nat) : List RNode :=
  (List.range gw).map fun l => if d ≤ l then c (ys.getD (l - d) none) (ys.getD l none) else ys.getD l none

/-- The prefix loop (R179). -/
def scanLoop (c : RNode → RNode → RNode) (gw : Nat) (ys : List RNode) : List RNode :=
  [1, 2, 4, 8, 16, 32].foldl (scanTurn c gw) ys

/-! ### Places in memory -/

/-- One byte of memory: local by physical address, host by DMA address, or of a team's scratchpad. -/
inductive Loc where
  | hbm (a : Nat)
  | host (a : Nat)
  | pad (team off : Nat)
  deriving DecidableEq, Repr

/-- The byte that stands there. -/
def locByte (s : State) : Loc → Byte
  | .hbm a => peek s.mem.hbm a
  | .host a => peek s.mem.host a
  | .pad u off => match (allTeams s).find? (·.uid == u) with
    | some p => peek p.pad off
    | none => 0

/-- The byte of memory that byte i of a place is; a peer's and a lost host's are not here (R482, R502), and the snapshot of
`.cn` and the copy in an L1 are no memory (R184, R298). -/
def placeLoc (s : State) (p : Spot) (i : Nat) : Option Loc :=
  match p with
  | .glob x => match x.target with
    | 0 => some (.hbm (x.addr + i))
    | 1 => none
    | _ => if hostUp s then some (.host (x.addr + i)) else none
  | .snap _ => none
  | .copy _ _ => none
  | .pad u off => some (.pad u (off + i))

/-- Byte i of a place as an access reads it (R184, R298, R303). -/
def placeByte (s : State) (p : Spot) (i : Nat) : Byte :=
  match p with
  | .glob x => gByte s x i
  | .snap x => gByte (s.asOf s.t.cn) x i
  | .copy x line => line.getD (x.addr % 128 + i) 0
  | .pad u off => match findTeam s u with
    | some q => peek q.pad (off + i)
    | none => 0

/-- The bytes that accesses of a size to places write. -/
def StoredAt (s : State) (size : Nat) (ps : List (Nat × Nat × Spot)) (loc : Loc) : Prop :=
  ∃ p ∈ ps, ∃ i, i < size ∧ placeLoc s p.2.2 i = some loc

/-- No place lies behind a link whose transfer comes back poisoned, which is reported in memory (R482, R502). -/
def LinksSound (s : State) (ps : List (Nat × Nat × Spot)) : Prop :=
  ∀ p ∈ ps, ∀ x, p.2.2.xl = some x → ∀ n, x.linkDead { s with fresh := n } = false

/-- No watchpoint hit of a tag is recorded in memory: no trace unit writes records of type 2 for it (R407, R410). -/
def UntracedFor (s : State) (tag : Nat) : Prop := ∀ cl, trEnabled s (trTag s tag cl) cl 2 = false

/-- No watchpoint hit of the context in focus is recorded in memory. -/
def Untraced (s : State) : Prop := UntracedFor s s.t.tag

/-- The teams are the same but for the bytes of their scratchpads and the signatures their barrier objects carry (R320). -/
def SameTeams (s t : State) : Prop :=
  (allTeams t).map (fun p => { p with pad := [], padm := [], carr := [] }) =
    (allTeams s).map (fun p => { p with pad := [], padm := [], carr := [] })

/-- The frame of a memory access: registers change by `ks` and `act`, bytes of memory only where stored, their keys with them,
and the poison of no sector that is not written whole (R472); of the rest, the hits that a port is to report (R415), cached
translations and lines (R298, R301), signatures (R319, R320), the credits of the links (R480) and counters. -/
structure AccessFrame (s t : State) (ks : List Nat) (act : Mask) (stored : Loc → Prop) : Prop where
  device : SameDevice { s with t := t.t, ts := t.ts, mem := t.mem, wpq := t.wpq, tlb := t.tlb, fresh := t.fresh,
                               lineSig := t.lineSig, l1 := t.l1, l2 := t.l2, ports := t.ports } t
  teams : SameTeams s t
  bytes : ∀ loc, ¬ stored loc → locByte t loc = locByte s loc
  keys : ∀ a, ¬ stored (.hbm a) → peek t.mem.key a = peek s.mem.key a ∧
    ∀ k, k < 4096 → peek t.mem.under (4096 * a + k) = peek s.mem.under (4096 * a + k)
  poison : ∀ k i, i < 128 → ¬ stored (.hbm (128 * k + i)) → peek t.mem.pois k = peek s.mem.pois k
  rest : SameRest { s.g with sig := t.g.sig, unack := t.g.unack } t.g
  flags : t.g.fflags = s.g.fflags
  regs : SameRegs s.g t.g ks act

/-- With D written, register i of D holds the i-th 32 bits of the lane's value, with its mark (R189, R192). -/
def LoadedIn (e : Enc) (t : State) (d : Opnd) (n : Nat) (act : Mask) (f : Nat → Nat × Bool) : Prop :=
  nwb e = false → ∀ i k, (opKeys d n)[i]? = some k → ∀ l, l < 64 → l < t.g.gw → act.getLsbD l = true →
    regVal t.g k l = (BitVec.ofNat 32 ((f l).1 / 2 ^ (32 * i)), (f l).2)

/-- What a load gives from a place: its bytes, the lowest first, extended as R96 has it, and whether they are poisoned. -/
def loadFrom (s : State) (sz : Size) (p : Spot) : Nat × Bool :=
  (Size.extend sz (bytesNat ((List.range (Size.bytes sz)).map (placeByte s p))), (spotRead s (Size.bytes sz) p).2)

/-- The place that the accesses give a lane. -/
def placeOf (ps : List (Nat × Nat × Spot)) (l : Nat) : Spot :=
  match ps.find? (·.1 == l) with
  | some p => p.2.2
  | none => .pad 0 0

/-! ### Control -/

/-- The address behind an instruction, past pad words (R44, R122). -/
def afterPc (e : Enc) (s : State) : VA := normPc (beginIssue e s) (s.g.pc + BitVec.ofNat 56 e.f.bytes)

/-- Setting the PC to va asks for no path switch: the top entry of the divergence stack joins elsewhere (R19, R123). -/
def NoJoin (e : Enc) (s : State) (va : VA) : Prop := ∀ d, s.g.bank.stk.head? = some d →
  normPc (beginIssue e s) va ≠ d.join ∧ normPc (beginIssue e s) va ≠ normPc (beginIssue e s) d.join

/-- The group goes to va: a new run starts there, on the same path, with the same stack (R124). -/
def GoneTo (e : Enc) (s t : State) (va : VA) : Prop :=
  t.g.pc = normPc (beginIssue e s) va ∧ t.g.runPos = 0 ∧ t.g.lat = [] ∧ t.g.em = s.g.em ∧ t.g.stat = s.g.stat ∧ t.g.bank.stk = s.g.bank.stk

/-- A guarded transfer to `target`: taken by every active lane of the path, by some, by none, or at fault (R18, R120, R121,
R128). `ks` are the registers a taken one writes, `next` is where the other path goes on, `join` where they meet. -/
structure Transfer (i : Instr) (s : State) (e : Enc) (gd : Guard) (hint : Hint) (target join next : VA) (ks : List Nat) : Prop where
  none_ : s.g.active gd = 0 → ∃ t, exec i s = .next t ∧ RegFrame s t [] 0 0 ∧
    (NoJoin e s (s.g.pc + BitVec.ofNat 56 e.f.bytes) → t.g.pc = afterPc e s)
  misaligned : s.g.active gd ≠ 0 → target &&& 3 ≠ 0 → exec i s = .next (takeFault { cause := cMISALIGN } s)
  all : s.g.active gd ≠ 0 → target &&& 3 = 0 → s.g.inactive gd = 0 → ∃ t, exec i s = .next t ∧
    RegFrame s t ks (s.g.active gd) 0 ∧ (NoJoin e s target → GoneTo e s t target)
  full : s.g.active gd ≠ 0 → target &&& 3 = 0 → s.g.inactive gd ≠ 0 → stackFull s.g = true →
    exec i s = .next (takeFault { cause := cDIV } s)
  some_ : s.g.active gd ≠ 0 → target &&& 3 = 0 → s.g.inactive gd ≠ 0 → stackFull s.g = false → ∃ t, exec i s = .next t ∧
    RegFrame s t ks (s.g.active gd) 0 ∧
    (normPc (beginIssue e s) (if hint = .unlikely then next else target) ∉ [join, normPc (beginIssue e s) join] →
      t.g.pc = normPc (beginIssue e s) (if hint = .unlikely then next else target) ∧
      t.g.em = (if hint = .unlikely then s.g.inactive gd else s.g.active gd) ∧
      t.g.bank.stk = { join := join, merge := s.g.em, taken := s.g.active gd, fall := s.g.inactive gd,
                       onTaken := hint != .unlikely,
                       other := if hint = .unlikely then .fresh target (s.g.active gd) else .fresh next (s.g.inactive gd) }
        :: s.g.bank.stk)

/-! ### Objects, engines and tiles -/

/-- The 16 bytes of a barrier object of the team in focus (R204). -/
def ObjBytes (s : State) (o : Nat) (loc : Loc) : Prop := ∃ i, i < 16 ∧ loc = .pad s.t.uid (o + i)

/-- An object as it stands after a change: its phase ends when it is complete (R205). -/
def settled (o : BObj) : BObj := if o.complete then o.advance else o

/-- i, which names an object by A, does nothing without an active lane, and raises what the address of the object raises
(R206, R214). -/
structure ObjectGuard (i : Instr) (s : State) (h : Hdr) (a : Opnd) : Prop where
  idle_ : s.g.active h.toGuard = 0 → ∃ t, exec i s = .next t ∧ RegFrame s t [] 0 0
  bad : ∀ f, s.g.active h.toGuard ≠ 0 → objFault s.t (objAddr s.g a) false = some f → exec i s = .next (takeFault f s)

/-- The frame of an instruction that puts one operation of an engine in flight: no register and no byte changes yet. -/
def EngineFrame (s t : State) : Prop :=
  AccessFrame { s with ops := t.ops, nextUid := t.nextUid, g := { s.g with lockRes := t.g.lockRes, zprog := t.g.zprog } }
    t [] 0 (fun _ => False)

/-- The frame of an instruction on tiles: no byte changes, registers by `ks` and `act`; tiles, the progress of row transfers
and the operations of the engines may. -/
structure TileFrame (s t : State) (ks : List Nat) (act : Mask) : Prop where
  device : SameDevice { s with t := t.t, ts := t.ts, gs := t.gs, leases := t.leases, ops := t.ops } t
  bytes : SameBytes s t
  teams : (allTeams t).map (fun p => { p with tiles := [] }) = (allTeams s).map (fun p => { p with tiles := [] })
  groups : t.gs.map (fun x => { x with zprog := [] }) = s.gs.map (fun x => { x with zprog := [] })
  rest : SameRest { s.g with zprog := t.g.zprog } t.g
  flags : t.g.fflags = s.g.fflags
  regs : SameRegs s.g t.g ks act

/-! ### Engines and tasks -/

/-- The 16 bytes of the completion record of an operation, as a number (R219): STATUS, CAUSE, bytes landed, bytes done, dropped. -/
def recordOf (o : EngOp) : Nat :=
  ((if o.cause ≠ 0 then 2 else if o.dropped ≠ 0 then 3 else 1) + 2 ^ 8 * o.cause + 2 ^ 32 * (o.landed % 2 ^ 32) +
    2 ^ 64 * (o.progress % 2 ^ 32) + 2 ^ 96 * (o.dropped % 2 ^ 32)) % 2 ^ 128

/-- A barrier object after a credit of n bytes, which may end its phase (R205, R208). -/
def creditedObj (x : BObj) (n : Nat) : BObj := settled { x with cb := (x.cb + n) % 2 ^ 32 }

/-- The completion of operation o, whose team was p: it is gone, its record stands, and the object it names has been credited
with n bytes (R219, R220). -/
def Completes (s t : State) (o : EngOp) (p : Team) (n : Nat) : Prop :=
  t.ops = s.ops.filter (·.uid != o.uid) ∧
  ((∀ b r, o.bar = some b → o.crec = some r → b + 16 ≤ r ∨ r + 16 ≤ b) →
    (∀ r, o.crec = some r → ∃ q, findTeam t o.team = some q ∧ padRead q r 16 = recordOf o) ∧
    (∀ b, o.bar = some b → creditable p b = true →
      ∃ q, findTeam t o.team = some q ∧ getObj q b = creditedObj (getObj p b) n))

/-- A record in the slot at va waits at a node: it is gathered there, or in a batch of it (R357). -/
def AtNode (t : State) (tag node va : Nat) : Prop :=
  (∃ c n, (getFn t tag).ctx = some c ∧ c.nodes[node]? = some n ∧ n.gather.any (·.slot == va) = true) ∨
  ∃ w ∈ t.ready, w.tag = tag ∧ w.node = true ∧ w.idx = node ∧ w.recs.any (·.slot == va) = true

/-- A team with its number, context, core and seat has been placed (R329). -/
def Placed (t : State) (uid tag core seat : Nat) : Prop :=
  ∃ p ∈ allTeams t, p.uid = uid ∧ p.tag = tag ∧ p.core = core ∧ p.seat = seat ∧ p.slice = core / 12 ∧ p.resid = .resident

/-! ### Commands and completions -/

/-- The submission entry of x has completed with a status, from s (R491): its slot is free, DONE advances, and START, END, STATUS
and INFO stand in the entry where it still translates. -/
def CompletedAs (s t : State) (x : Sub) (start status : Nat) : Prop :=
  findSub t x.uid = none ∧
  (x.tag < s.fns.length → x.q < (getFn s x.tag).sqs.length → (getSq t x.tag x.q).done = (getSq s x.tag x.q).done + 1) ∧
  t.mem = ((vWriteAll x.tag (x.slotVa + 0x20)
    (natBytes start 8 ++ natBytes s.tick 8 ++ natBytes status 4 ++ natBytes x.info 4) s).getD s).mem

/-- The partition manager runs a command of a code (R440). -/
def PmRuns (s : State) (op : Nat) : Prop := s.pm.busy = true ∧ cmdOp s = op ∧ s.dump.fatal = none

/-- Its command has ended with a status, in LAST and in the block (R440). -/
def PmDone (s t : State) (status : Nat) : Prop :=
  t.pm.busy = false ∧ t.pm.last = status ∧ peek t.mem.hbm (s.pm.addr + 4) = BitVec.ofNat 8 status

/-- A team is gone. -/
def Gone (t : State) (uid : Nat) : Prop := ∃ q, findTeam t uid = some q ∧ q.resid = .gone

/-- What is left of a tag whose function has been reset (R475): no context, no submission, no team. -/
def ResetTag (s t : State) (tag : Nat) : Prop :=
  (getFn t tag).ctx = none ∧ (∀ x ∈ t.subs, x.tag ≠ tag) ∧
  ∀ p ∈ allTeams s, p.uid ≠ 0 → p.tag = tag → p.resid ≠ .gone → Gone t p.uid

/-! ### The invariant -/

/-- What every step keeps: memory is in canonical form, and the machine has its 18 functions (tags 0 to 17, R464), 16 slices (R437)
and 14 ports (R482). -/
structure DeviceInv (s : State) : Prop where
  mem : Memory.wf s.mem = true
  fns : s.fns.length = 18
  slices : s.slices.length = 16
  ports : s.ports.length = 14

end Sys2Proof.Machine
end

