-- ==== Sys2Proof/Certificates/Slice0/Obligations.lean ====
section
/-!
DEFINITION. The statements for the provers. Each docstring names the rule of the spec it formalises; a statement is about
every state, also those no run reaches.
-/
section Statements
open Sys2Proof Sys2Proof.Machine

/-! ### Uniform instructions (spec/05 R147–R151, spec/06 R161, R177) -/

/-- R149: the uniform integer instructions. Each completes with the value of its row, in the lanes' stead once, or writes
nothing with an empty active set, and leaves every other register, every flag, the system registers and memory alone. -/
def Claims.UniformIntegerResults : Prop :=
  (∀ h ty d a, UniSpec (.gmov h ty d a) h (IType.wide ty) d fun x => patInt (uInt x ty a)) ∧
  (∀ h ty sat d a b, UniSpec (.gadd h ty sat d a b) h (IType.wide ty) d fun x =>
    finalInt ty sat (uInt x ty a + uInt x ty b)) ∧
  (∀ h ty sat d a b, UniSpec (.gsub h ty sat d a b) h (IType.wide ty) d fun x =>
    finalInt ty sat (uInt x ty a - uInt x ty b)) ∧
  (∀ h ty d a b, UniSpec (.gmul h ty d a b) h (IType.wide ty) d fun x => wrapInt ty (uInt x ty a * uInt x ty b)) ∧
  (∀ h ty d a b, UniSpec (.gmulh h ty d a b) h (IType.wide ty) d fun x =>
    patInt (uInt x ty a * uInt x ty b / 2 ^ IType.width ty)) ∧
  (∀ h ty sat d a b c, UniSpec (.gmad h ty sat d a b c) h (IType.wide ty) d fun x =>
    finalInt ty sat (uInt x ty a * uInt x ty b + uInt x ty c)) ∧
  (∀ h ty d a b, UniSpec (.gand h ty d a b) h (IType.wide ty) d fun x =>
    srcU x (IType.wide ty) a &&& srcU x (IType.wide ty) b) ∧
  (∀ h ty d a b, UniSpec (.gor h ty d a b) h (IType.wide ty) d fun x =>
    srcU x (IType.wide ty) a ||| srcU x (IType.wide ty) b) ∧
  (∀ h ty d a b, UniSpec (.gxor h ty d a b) h (IType.wide ty) d fun x =>
    srcU x (IType.wide ty) a ^^^ srcU x (IType.wide ty) b) ∧
  (∀ h ty d a b, UniSpec (.gshl h ty d a b) h (IType.wide ty) d fun x =>
    if IType.width ty ≤ (u32 x b).toNat then 0
    else BitVec.ofNat 64 (iPat ty (uInt x ty a) * 2 ^ (u32 x b).toNat % 2 ^ IType.width ty)) ∧
  (∀ h ty d a b, UniSpec (.gshr h ty d a b) h (IType.wide ty) d fun x =>
    if IType.width ty ≤ (u32 x b).toNat then 0
    else BitVec.ofNat 64 (iPat ty (uInt x ty a) / 2 ^ (u32 x b).toNat)) ∧
  (∀ h ty d a b, UniSpec (.gsar h ty d a b) h (IType.wide ty) d fun x =>
    patInt (sextNat (iPat ty (uInt x ty a)) (IType.width ty) / 2 ^ Nat.min (u32 x b).toNat (IType.width ty))) ∧
  (∀ h ty d a b, UniSpec (.gmin h ty d a b) h (IType.wide ty) d fun x =>
    patInt (if uInt x ty a ≤ uInt x ty b then uInt x ty a else uInt x ty b)) ∧
  (∀ h ty d a b, UniSpec (.gmax h ty d a b) h (IType.wide ty) d fun x =>
    patInt (if uInt x ty a ≤ uInt x ty b then uInt x ty b else uInt x ty a)) ∧
  (∀ h ty cond d a b, UniSpec (.gcmp h ty cond d a b) h false d fun x =>
    if condHolds cond (uInt x ty a) (uInt x ty b) then 1 else 0) ∧
  (∀ h ty d a b c, UniSpec (.gsel h ty d a b c) h (IType.wide ty) d fun x =>
    patInt (uInt x ty (if u32 x c ≠ 0 then a else b))) ∧
  (∀ h ty d a, UniSpec (.gclz h ty d a) h false d fun x =>
    BitVec.ofNat 64 (if iPat ty (uInt x ty a) = 0 then IType.width ty
      else IType.width ty - 1 - Nat.log2 (iPat ty (uInt x ty a)))) ∧
  (∀ h ty d a, UniSpec (.gpopc h ty d a) h false d fun x =>
    BitVec.ofNat 64 (popCount (BitVec.ofNat 64 (iPat ty (uInt x ty a)))))

/-- R150, R151, R137, R161, R177: `gbfx`, `gbfi`, `glea`, `emrd`, `vbal` and `rdfl` complete with their value, and leave
everything else alone. With wd = 0 the extracted field is 0. -/
def Claims.UniformFieldAndMaskResults : Prop :=
  (∀ h ty d a b, UniSpec (.gbfx h ty d a b) h false d fun x =>
    (let off := (u32 x b).toNat % 32
     let wd := Nat.min ((u32 x b).toNat / 256 % 64) (32 - off)
     let f := (u32 x a).toNat / 2 ^ off % 2 ^ wd
     if ty = .i32 ∧ wd ≠ 0 then ((BitVec.ofInt 32 (sextNat f wd) : Word).zeroExtend 64 : DWord) else BitVec.ofNat 64 f)) ∧
  (∀ h d a b c, UniSpec (.gbfi h d a b c) h false d fun x =>
    (let off := (u32 x c).toNat % 32
     let m : Word := BitVec.ofNat 32 (2 ^ Nat.min ((u32 x c).toNat / 256 % 64) (32 - off) - 1)
     ((u32 x a &&& ~~~(m <<< off)) ||| ((u32 x b &&& m) <<< off)).zeroExtend 64)) ∧
  (∀ h sh d a b, UniSpec (.glea h sh d a b) h true d fun x =>
    srcU x true a + ((u32 x b).signExtend 64 <<< sh.toNat)) ∧
  (∀ h d, UniSpec (.emrd h d) h true d fun x => x.em) ∧
  (∀ h d a, UniSpec (.vbal h d a) h true d fun x => x.active h.toGuard &&& srcP x a) ∧
  (∀ h ty d a, UniSpec (.rdfl h ty d a) h (IType.wide ty) d fun x =>
    patInt (srcInt x ty a (lowLane (x.active h.toGuard))))

/-- Together: uniform integer; uniform field and mask. -/
def Obligations.UniformResults : Prop := Claims.UniformIntegerResults ∧ Claims.UniformFieldAndMaskResults

/-! ### Vector integer and predicate instructions (spec/06 R156–R161, R522) -/

/-- R156: the vector integer instructions but `cmp`. In every active lane D takes the value of its row; every other
lane, register, flag and byte keeps its value. -/
def Claims.VectorIntegerResults : Prop :=
  (∀ h ty sat d a b, LaneSpec (.add h ty sat d a b) h (IType.wide ty) d fun x l =>
    finalInt ty sat (srcInt x ty a l + srcInt x ty b l)) ∧
  (∀ h ty sat d a b, LaneSpec (.sub h ty sat d a b) h (IType.wide ty) d fun x l =>
    finalInt ty sat (srcInt x ty a l - srcInt x ty b l)) ∧
  (∀ h ty d a b, LaneSpec (.mul h ty d a b) h (IType.wide ty) d fun x l =>
    wrapInt ty (srcInt x ty a l * srcInt x ty b l)) ∧
  (∀ h ty d a b, LaneSpec (.mulh h ty d a b) h (IType.wide ty) d fun x l =>
    patInt (srcInt x ty a l * srcInt x ty b l / 2 ^ IType.width ty)) ∧
  (∀ h ty sat d a b c, LaneSpec (.mad h ty sat d a b c) h (IType.wide ty) d fun x l =>
    finalInt ty sat (srcInt x ty a l * srcInt x ty b l + srcInt x ty c l)) ∧
  (∀ h ty d a b, LaneSpec (.and h ty d a b) h (IType.wide ty) d fun x l =>
    patInt (srcInt x ty a l) &&& patInt (srcInt x ty b l)) ∧
  (∀ h ty d a b, LaneSpec (.or h ty d a b) h (IType.wide ty) d fun x l =>
    patInt (srcInt x ty a l) ||| patInt (srcInt x ty b l)) ∧
  (∀ h ty d a b, LaneSpec (.xor h ty d a b) h (IType.wide ty) d fun x l =>
    patInt (srcInt x ty a l) ^^^ patInt (srcInt x ty b l)) ∧
  (∀ h ty d a b, LaneSpec (.shl h ty d a b) h (IType.wide ty) d fun x l =>
    if IType.width ty ≤ (src32 x b l).toNat then 0
    else BitVec.ofNat 64 (iPat ty (srcInt x ty a l) * 2 ^ (src32 x b l).toNat % 2 ^ IType.width ty)) ∧
  (∀ h ty d a b, LaneSpec (.shr h ty d a b) h (IType.wide ty) d fun x l =>
    if IType.width ty ≤ (src32 x b l).toNat then 0
    else BitVec.ofNat 64 (iPat ty (srcInt x ty a l) / 2 ^ (src32 x b l).toNat)) ∧
  (∀ h ty d a b, LaneSpec (.sar h ty d a b) h (IType.wide ty) d fun x l =>
    patInt (sextNat (iPat ty (srcInt x ty a l)) (IType.width ty) / 2 ^ Nat.min (src32 x b l).toNat (IType.width ty))) ∧
  (∀ h ty d a b, LaneSpec (.min h ty d a b) h (IType.wide ty) d fun x l =>
    patInt (if srcInt x ty a l ≤ srcInt x ty b l then srcInt x ty a l else srcInt x ty b l)) ∧
  (∀ h ty d a b, LaneSpec (.max h ty d a b) h (IType.wide ty) d fun x l =>
    patInt (if srcInt x ty a l ≤ srcInt x ty b l then srcInt x ty b l else srcInt x ty a l)) ∧
  (∀ h ty sat d a, LaneSpec (.abs h ty sat d a) h (IType.wide ty) d fun x l =>
    finalInt ty sat (srcInt x ty a l).natAbs) ∧
  (∀ h ty d a b c, LaneSpec (.sel h ty d a b c) h (IType.wide ty) d fun x l =>
    patInt (srcInt x ty (if (srcP x c).getLsbD l then a else b) l))

/-- R157, R161, R522: `bfx`, `bfi`, `clz`, `popc`, `brev`, `idp4`, `sad` and `mbcnt`, the same way. -/
def Claims.VectorBitAndSumResults : Prop :=
  (∀ h ty d a b, LaneSpec (.bfx h ty d a b) h false d fun x l =>
    (let off := (src32 x b l).toNat % 32
     let wd := Nat.min ((src32 x b l).toNat / 256 % 64) (32 - off)
     let f := (src32 x a l).toNat / 2 ^ off % 2 ^ wd
     if ty = .i32 ∧ wd ≠ 0 then ((BitVec.ofInt 32 (sextNat f wd) : Word).zeroExtend 64 : DWord) else BitVec.ofNat 64 f)) ∧
  (∀ h d a b c, LaneSpec (.bfi h d a b c) h false d fun x l =>
    (let off := (src32 x c l).toNat % 32
     let m : Word := BitVec.ofNat 32 (2 ^ Nat.min ((src32 x c l).toNat / 256 % 64) (32 - off) - 1)
     ((src32 x a l &&& ~~~(m <<< off)) ||| ((src32 x b l &&& m) <<< off)).zeroExtend 64)) ∧
  (∀ h ty d a, LaneSpec (.clz h ty d a) h false d fun x l =>
    BitVec.ofNat 64 (if iPat ty (srcInt x ty a l) = 0 then IType.width ty
      else IType.width ty - 1 - Nat.log2 (iPat ty (srcInt x ty a l)))) ∧
  (∀ h ty d a, LaneSpec (.popc h ty d a) h false d fun x l =>
    BitVec.ofNat 64 (popCount (BitVec.ofNat 64 (iPat ty (srcInt x ty a l))))) ∧
  (∀ h ty d a, LaneSpec (.brev h ty d a) h (IType.wide ty) d fun x l =>
    maskUpTo (fun i => (patInt (srcInt x ty a l)).getLsbD (IType.width ty - 1 - i)) (IType.width ty)) ∧
  (∀ h aN bN sat d a b c, LaneSpec (.idp4 h aN bN sat d a b c) h false d fun x l =>
    finalInt .i32 sat ((src32 x c l).toInt
      + byteInt aN (src32 x a l) 0 * byteInt bN (src32 x b l) 0 + byteInt aN (src32 x a l) 1 * byteInt bN (src32 x b l) 1
      + byteInt aN (src32 x a l) 2 * byteInt bN (src32 x b l) 2 + byteInt aN (src32 x a l) 3 * byteInt bN (src32 x b l) 3)) ∧
  (∀ h ty d a b c, LaneSpec (.sad h ty d a b c) h false d fun x l =>
    ((src32 x c l + BitVec.ofNat 32 ((List.range (32 / IType.width ty)).map fun j =>
      ((bits (src32 x a l).toNat (IType.width ty * j) (IType.width ty) : Int)
        - (bits (src32 x b l).toNat (IType.width ty * j) (IType.width ty) : Int)).natAbs).sum).zeroExtend 64 : DWord)) ∧
  (∀ h d a, LaneSpec (.mbcnt h d a) h false d fun x l => BitVec.ofNat 64 (popCount (srcU x true a &&& BitVec.ofNat 64 (2 ^ l - 1))))

/-- Together: vector integer; vector bit and sum. -/
def Obligations.VectorResults : Prop := Claims.VectorIntegerResults ∧ Claims.VectorBitAndSumResults

/-- R156 (`cmp`), R159, R160: the predicate instructions. In the active lanes the bits of D take the value of the row; the
others keep theirs; p7 stays all true. -/
def Claims.PredicateResults : Prop :=
  (∀ h ty cond d a b, PredSpec (.cmp h ty cond d a b) h d fun x l =>
    condHolds cond (srcInt x ty a l) (srcInt x ty b l)) ∧
  (∀ h d a b, PredSpec (.pand h d a b) h d fun x l => (srcP x a).getLsbD l && (srcP x b).getLsbD l) ∧
  (∀ h d a b, PredSpec (.por h d a b) h d fun x l => (srcP x a).getLsbD l || (srcP x b).getLsbD l) ∧
  (∀ h d a b, PredSpec (.pxor h d a b) h d fun x l => (srcP x a).getLsbD l != (srcP x b).getLsbD l) ∧
  (∀ h d a, PredSpec (.pnot h d a) h d fun x l => !(srcP x a).getLsbD l) ∧
  (∀ h d a, PredSpec (.vany h d a) h d fun x _ => (lanesOf (x.active h.toGuard)).any fun m => (srcP x a).getLsbD m) ∧
  (∀ h d a, PredSpec (.vall h d a) h d fun x _ => (lanesOf (x.active h.toGuard)).all fun m => (srcP x a).getLsbD m)

/-- R157, R158: `addc`. In every active lane D takes the low 32 bits of A + B + c and the carry stands in the bits of C; with
C = p7 the carry in is 1 and the carry out is dropped; in the other lanes D and C keep their values. -/
def Claims.AddWithCarryResult : Prop :=
  ∀ h d a b n s e, Issues (.addc h d a b (.p n)) s e → ∃ t, exec (.addc h d a b (.p n)) s = .next t ∧
    LaneResult e t d false (s.g.active h.toGuard) (fun l => BitVec.ofNat 64
      (((src32 s.g a l).toNat + (src32 s.g b l).toNat + if (s.g.pAt n.toNat).getLsbD l then 1 else 0) % 2 ^ 32)) ∧
    (∀ l, l < 64 → l < s.g.gw → (s.g.active h.toGuard).getLsbD l = true → (t.g.pAt n.toNat).getLsbD l = (n == 7 ||
      decide (2 ^ 32 ≤ (src32 s.g a l).toNat + (src32 s.g b l).toNat + if (s.g.pAt n.toNat).getLsbD l then 1 else 0))) ∧
    RegFrame s t (destKeys e d 1 (s.g.active h.toGuard) ++ opKeys (.p n) 1) (s.g.active h.toGuard) 0

/-- Together: predicate; add with carry. -/
def Obligations.PredicateAndCarryResults : Prop := Claims.PredicateResults ∧ Claims.AddWithCarryResult

/-! ### Vector floating point (spec/06 R155, R162–R174) -/

/-- R162, R163, R165, R167: the floating-point arithmetic instructions, each half of a packed format on its own, with the
source modifiers applied first; flags are raised by the active lanes alone. -/
def Claims.FloatArithmeticResults : Prop :=
  (∀ h ty absa rnd na nb d a b, FpSpec (.fadd h ty absa rnd na nb d a b) h (FType.wide ty) d fun x l =>
    perHalf (FType.packed ty) fun i => fAdd (FType.fmt ty) (fz x ty) rnd (fpIn x ty absa na a l i) (fpIn x ty false nb b l i)) ∧
  (∀ h ty absa rnd na nb d a b, FpSpec (.fsub h ty absa rnd na nb d a b) h (FType.wide ty) d fun x l =>
    perHalf (FType.packed ty) fun i =>
      fAdd (FType.fmt ty) (fz x ty) rnd (fpIn x ty absa na a l i) (fpIn x ty false (!nb) b l i)) ∧
  (∀ h ty absa rnd na nb d a b, FpSpec (.fmul h ty absa rnd na nb d a b) h (FType.wide ty) d fun x l =>
    perHalf (FType.packed ty) fun i => fMul (FType.fmt ty) (fz x ty) rnd (fpIn x ty absa na a l i) (fpIn x ty false nb b l i)) ∧
  (∀ h ty absa rnd na nc d a b c, FpSpec (.fma h ty absa rnd na nc d a b c) h (FType.wide ty) d fun x l =>
    perHalf (FType.packed ty) fun i => fFma (FType.fmt ty) (fz x ty) rnd (fpIn x ty absa na a l i)
      (fpIn x ty false false b l i) (fpIn x ty false nc c l i)) ∧
  (∀ h ty absa na nb d a b, FpSpec (.fmin h ty absa na nb d a b) h (FType.wide ty) d fun x l =>
    perHalf (FType.packed ty) fun i =>
      fMinMax (FType.fmt ty) (fz x ty) false (fpIn x ty absa na a l i) (fpIn x ty false nb b l i)) ∧
  (∀ h ty absa na nb d a b, FpSpec (.fmax h ty absa na nb d a b) h (FType.wide ty) d fun x l =>
    perHalf (FType.packed ty) fun i =>
      fMinMax (FType.fmt ty) (fz x ty) true (fpIn x ty absa na a l i) (fpIn x ty false nb b l i)) ∧
  (∀ h ty rnd d a, FpSpec (.frnd h ty rnd d a) h (FType.wide ty) d fun x l =>
    perHalf (FType.packed ty) fun i => fRnd (FType.fmt ty) (fz x ty) rnd (fpIn x ty false false a l i)) ∧
  (∀ h ty rnd d a b, FpSpec (.fscl h ty rnd d a b) h (FType.wide ty) d fun x l =>
    perHalf (FType.packed ty) fun i => fScl (FType.fmt ty) (fz x ty) rnd (fpIn x ty false false a l i)
      (let n := (src32 x b l).toInt; if n < -5000 then -5000 else if 5000 < n then 5000 else n)) ∧
  (∀ h ty rnd na nc d a b c, FpSpec (.fdp2 h ty rnd na nc d a b c) h false d fun x l =>
    fDp2 (FType.fmt ty) (x.fmode.getLsbD 0) rnd (fpIn x ty false na a l 0) (fpIn x ty false false b l 0)
      (fpIn x ty false na a l 1) (fpIn x ty false false b l 1) (signMods fmtF32 false nc (srcFp x .f32 c l)))

/-- R164, R166, R172–R174: `fcmp`, `fclass` (which raises no flag), `cvt`, `cvtp` and `cvtq`, which changes one byte of D. -/
def Claims.FloatCompareAndConvertResults : Prop :=
  (∀ h ty absa fc d a b, PredFlagSpec (.fcmp h ty absa fc d a b) h d fun x l =>
    fCmp (FType.fmt ty) (fz x ty) fc (fpIn x ty absa false a l 0) (fpIn x ty false false b l 0)) ∧
  (∀ h ty d a, LaneSpec (.fclass h ty d a) h false d fun x l => BitVec.ofNat 64 (fClass (FType.fmt ty) (srcFp x ty a l))) ∧
  (∀ h dt st rnd sat d a, FpSpec (.cvt h dt st rnd sat d a) h (CType.wide dt) d fun x l =>
    let r := convert dt st rnd sat x.fmode (cvtIn x st a l); ⟨r.1.toNat, r.2⟩) ∧
  (∀ h ty rnd sat d a b, FpSpec (.cvtp h ty rnd sat d a b) h false d fun x l =>
    perHalf true fun i => convertF32 (FType.fmt ty) rnd sat (x.fmode.getLsbD 0) (srcFp x .f32 (if i = 0 then a else b) l)) ∧
  (∀ h e5 sat pos d a b, FpSpec (.cvtq h e5 sat pos d a b) h false d fun x l =>
    let r := convertScaled (if e5 then fmtE5m2 else fmtE4m3) sat (x.fmode.getLsbD 0) (srcFp x .f32 a l) (srcFp x .f32 b l)
    let old := (x.curReg d l).toNat
    ⟨old - bits old (8 * pos.toNat) 8 * 2 ^ (8 * pos.toNat) + r.x * 2 ^ (8 * pos.toNat), r.fl⟩)

/-- Together: float arithmetic; float compare and convert. -/
def Obligations.FloatResults : Prop := Claims.FloatArithmeticResults ∧ Claims.FloatCompareAndConvertResults

/-- R155, R169–R171: the special functions. The value and the flags of `sfu`, whose approximations are open values within
R169, and one more result in the queue, on which the uses of D are held. -/
def Obligations.SpecialFunctionResults : Prop :=
  (∀ h ty ieee d a, QueueSpec (.rcp h ty ieee d a) h (FType.wide ty) d fun x l =>
    sfu .rcp (FType.fmt ty) ieee (fz x ty) (fpIn x ty false false a l 0)) ∧
  (∀ h ty d a, QueueSpec (.rsq h ty d a) h (FType.wide ty) d fun x l =>
    sfu .rsq (FType.fmt ty) false (fz x ty) (fpIn x ty false false a l 0)) ∧
  (∀ h ty ieee d a, QueueSpec (.sqt h ty ieee d a) h (FType.wide ty) d fun x l =>
    sfu .sqt (FType.fmt ty) ieee (fz x ty) (fpIn x ty false false a l 0)) ∧
  (∀ h ty d a, QueueSpec (.ex2 h ty d a) h (FType.wide ty) d fun x l =>
    sfu .ex2 (FType.fmt ty) false (fz x ty) (fpIn x ty false false a l 0)) ∧
  (∀ h ty d a, QueueSpec (.lg2 h ty d a) h (FType.wide ty) d fun x l =>
    sfu .lg2 (FType.fmt ty) false (fz x ty) (fpIn x ty false false a l 0)) ∧
  (∀ h ty d a, QueueSpec (.sin h ty d a) h (FType.wide ty) d fun x l =>
    sfu .sin (FType.fmt ty) false (fz x ty) (fpIn x ty false false a l 0)) ∧
  (∀ h ty d a, QueueSpec (.cos h ty d a) h (FType.wide ty) d fun x l =>
    sfu .cos (FType.fmt ty) false (fz x ty) (fpIn x ty false false a l 0)) ∧
  (∀ h ty d a, QueueSpec (.tnh h ty d a) h (FType.wide ty) d fun x l =>
    sfu .tnh (FType.fmt ty) false (fz x ty) (fpIn x ty false false a l 0))

/-! ### Cross-lane instructions (spec/06 R175–R183) -/

/-- R175, R176, R181, R182: `shfl`, `expd` and `bperm`. A lane whose source is not valid keeps its value. -/
def Claims.LaneExchangeResults : Prop :=
  (∀ h ty mode d a b, LaneOptSpec (.shfl h ty mode d a b) h (IType.wide ty) d fun x l =>
    let n := (src32 x b l).toNat
    let f : Int := match mode with
      | .idx => n
      | .up => (l : Int) - n
      | .dn => (l : Int) + n
      | .xor => (Nat.xor l n : Nat)
    if 0 ≤ f ∧ f < x.gw ∧ (x.active h.toGuard).getLsbD f.toNat then some (patInt (srcInt x ty a f.toNat)) else none) ∧
  (∀ h ty d a b, LaneOptSpec (.expd h ty d a b) h (IType.wide ty) d fun x l =>
    if (x.active h.toGuard &&& srcP x b).getLsbD l ∧ l < 64 then
      some (patInt (srcInt x ty a (popUpTo (x.active h.toGuard &&& srcP x b) l))) else none) ∧
  (∀ h d a b, LaneOptSpec (.bperm h false d a b) h false d fun x l =>
    ((lanesOf (x.active h.toGuard)).filter fun m => (src32 x b m).toNat == l).getLast?.map fun m => patInt (srcInt x .i32 a m)) ∧
  (∀ h d a b, LaneSpec (.bperm h true d a b) h false d fun x l =>
    let one (i : Nat) : Nat :=
      let k := bits (src32 x b l).toNat (8 * i) 8
      if k < 4 * x.gw ∧ (x.active h.toGuard).getLsbD (k / 4) then bits (src32 x a (k / 4)).toNat (8 * (k % 4)) 8
      else bits (x.curReg d l).toNat (8 * i) 8
    BitVec.ofNat 64 (one 0 + 2 ^ 8 * one 1 + 2 ^ 16 * one 2 + 2 ^ 24 * one 3))

/-- R177: `rdln`. With the lane that B names valid, a vector D takes A of that lane in every active lane and a uniform D
takes it once; with that lane not valid nothing is written. -/
def Claims.ReadLaneResult : Prop :=
  ∀ h ty d a b s e, Issues (.rdln h ty d a b) s e → ∃ t, exec (.rdln h ty d a b) s = .next t ∧
    (let act := s.g.active h.toGuard
     let n := (u32 s.g b).toNat
     let ok := n < s.g.gw ∧ act.getLsbD n = true
     let v := patInt (srcInt s.g ty a n)
     (ok → match d with
       | .g _ => UniResult e t d (IType.wide ty) act v
       | _ => LaneResult e t d (IType.wide ty) act fun _ => v) ∧
     (ok → RegFrame s t (destKeys e d (regsOf (IType.wide ty)) act) act 0) ∧
     (¬ ok → RegFrame s t [] 0 0))

/-- R178: `lred`, over the reduction loop of the spec. -/
def Claims.ReductionResult : Prop :=
  ∀ h ty op d a s e, s.g.gw ≤ 64 → Issues (.lred h ty op d a) s e → ∃ t, exec (.lred h ty op d a) s = .next t ∧
    (match (redLoop (redNode ty op (s.g.fmode.getLsbD 0)) s.g.gw (redLeaves s.g ty op a (s.g.active h.toGuard))).getD 0 none with
     | some (v, fl) => UniResult e t d (IType.wide ty) (s.g.active h.toGuard) v ∧
         RegFrame s t (destKeys e d (regsOf (IType.wide ty)) (s.g.active h.toGuard)) (s.g.active h.toGuard) fl
     | none => RegFrame s t [] 0 0)

/-- R179: `scan`, over the prefix loop of the spec; with `.exc` a lane takes the prefix of the highest active lane below it,
or the identity of the operation. -/
def Claims.PrefixScanResult : Prop :=
  ∀ h ty op exc d a, FpSpec (.scan h ty op exc d a) h (IType.wide ty) d fun x l =>
    let act := x.active h.toGuard
    let ys := scanLoop (redNode ty op (x.fmode.getLsbD 0)) x.gw (redLeaves x ty op a act)
    let below := ((List.range l).filter fun m => act.getLsbD m).getLast?
    let ident : DWord := match op with
      | .min => patInt (IType.maxVal ty)
      | .max => patInt (IType.minVal ty)
      | .and => BitVec.allOnes 64
      | _ => 0
    let v : DWord := if exc then (match below with | some m => ((ys.getD m none).getD (0, 0)).1 | none => ident)
      else ((ys.getD l none).getD (0, 0)).1
    ⟨v.toNat, ((ys.getD l none).getD (0, 0)).2⟩

/-- Together: reduction; prefix scan. -/
def Obligations.ReductionAndScanResults : Prop := Claims.ReductionResult ∧ Claims.PrefixScanResult

/-- R180: `cmpk`. The elements of the active lanes with their bit of B set stand packed in the low lanes of D, whether these
lanes are active or not; C, a gN, takes their number; the lanes of D above keep their values; an empty active set writes
nothing. -/
def Claims.CompactResult : Prop :=
  ∀ h ty d a b k s e, s.g.gw ≤ 64 → Issues (.cmpk h ty d a b (.g k)) s e →
    ∃ t, exec (.cmpk h ty d a b (.g k)) s = .next t ∧
    (let ls := lanesOf (s.g.active h.toGuard &&& srcP s.g b)
     let act := s.g.active h.toGuard
     (act ≠ 0 → t.g.gAt k.toNat = BitVec.ofNat 32 ls.length) ∧
     (act ≠ 0 → LaneResult e t d (IType.wide ty) (laneMask ls.length) fun n => patInt (srcInt s.g ty a (ls.getD n 0))) ∧
     RegFrame s t (if act = 0 then [] else opKeys d (regsOf (IType.wide ty)) ++ opKeys (.g k) 1) (laneMask ls.length) 0)

/-- Together: lane exchange; read lane; compact. -/
def Obligations.LaneMovementResults : Prop := Claims.LaneExchangeResults ∧ Claims.ReadLaneResult ∧ Claims.CompactResult

/-! ### Memory (spec/07 R184–R203, R214) -/

/-- R184, R186, R190, R192: `ld` and `gld` that meet no fault complete. D takes the bytes of the lane's place, or of the copy of
its line that the L1 of the core holds (R298), the lowest first, extended as R96 has it, with the poison mark of R189; the
registers of D, and the latch, wait in the scoreboard; no byte of memory changes, unless a transfer came back poisoned or a
watchpoint is recorded, which is reported. -/
def Claims.LoadResults : Prop :=
  (∀ h sp pol sz d a b disp s e, Issues (.ld h sp pol sz d a b disp) s e →
    let x := beginIssue e s
    let act := s.g.active h.toGuard
    let rs := resolveLanes x sp .rd (Size.bytes sz) (effAddr s.g sp a b (Disp.val disp)) (lanesOf act)
    laneFault false rs = none →
    ∃ t, exec (.ld h sp pol sz d a b disp) s = .next t ∧
      LoadedIn e t d (Size.regs sz) act (fun l => loadFrom x sz (placeOf (loadSpots pol disp rs x) l)) ∧
      (act ≠ 0 → t.g.pend.getLast? = some ⟨false, pendKeys e d (Size.regs sz) s.g.runPos⟩) ∧
      (LinksSound s (laneSpots rs) → Untraced s →
        AccessFrame s t (destKeys e d (Size.regs sz) act) act fun _ => False)) ∧
  (∀ h sp pol sz d a b disp s e, Issues (.gld h sp pol sz d a b disp) s e →
    let x := beginIssue e s
    let act := s.g.active h.toGuard
    let rs := resolveLanes x sp .rd (Size.bytes sz) (effAddr s.g sp a b (Disp.val disp)) (if act = 0 then [] else [0])
    laneFault false rs = none →
    ∃ t, exec (.gld h sp pol sz d a b disp) s = .next t ∧
      LoadedIn e t d (Size.regs sz) act (fun _ => loadFrom x sz (placeOf (loadSpots pol disp rs x) 0)) ∧
      (act ≠ 0 → t.g.pend.getLast? = some ⟨false, pendKeys e d (Size.regs sz) s.g.runPos⟩) ∧
      (LinksSound s (laneSpots rs) → Untraced s →
        AccessFrame s t (destKeys e d (Size.regs sz) act) act fun _ => False))

/-- R192, R193, R303, R318: `st` and `gst` that meet no fault complete, with one more store to be acknowledged. Of the accesses, one
per active lane in ascending order (one in all for `gst`), the last that writes a byte of memory gives it its value, the bytes
of S lowest first; a local byte takes the key of the page; every other byte, every register and every flag stays, unless a
watchpoint is recorded in memory. -/
def Claims.StoreResults : Prop :=
  (∀ h sp pol sz d a b disp s e, Issues (.st h sp pol sz d a b disp) s e →
    let rs := resolveLanes (beginIssue e s) sp .wr (Size.bytes sz) (effAddr s.g sp a b (Disp.val disp))
      (lanesOf (s.g.active h.toGuard))
    laneFault true rs = none →
    ∃ t, exec (.st h sp pol sz d a b disp) s = .next t ∧ (laneSpots rs ≠ [] → t.g.unack ≠ 0) ∧
      (Untraced s →
       (∀ pre p post i loc, laneSpots rs = pre ++ p :: post → i < Size.bytes sz → placeLoc s p.2.2 i = some loc →
          ¬ StoredAt s (Size.bytes sz) post loc → locByte t loc = BitVec.ofNat 8 (storeData s.g d sz p.1 / 256 ^ i)) ∧
       (∀ pre p post i x, laneSpots rs = pre ++ p :: post → i < Size.bytes sz → p.2.2 = .glob x → x.target = 0 →
          ¬ StoredAt s (Size.bytes sz) post (.hbm (x.addr + i)) → peek t.mem.key (x.addr + i) = keyTag s x.kid) ∧
       AccessFrame s t [] 0 (StoredAt s (Size.bytes sz) (laneSpots rs)))) ∧
  (∀ h sp pol sz d a b disp s e, Issues (.gst h sp pol sz d a b disp) s e →
    let rs := resolveLanes (beginIssue e s) sp .wr (Size.bytes sz) (effAddr s.g sp a b (Disp.val disp))
      (if s.g.active h.toGuard = 0 then [] else [0])
    laneFault true rs = none →
    ∃ t, exec (.gst h sp pol sz d a b disp) s = .next t ∧ (laneSpots rs ≠ [] → t.g.unack ≠ 0) ∧
      (Untraced s →
       (∀ p ∈ laneSpots rs, ∀ i loc, i < Size.bytes sz → placeLoc s p.2.2 i = some loc →
          locByte t loc = BitVec.ofNat 8 (storeData s.g d sz 0 / 256 ^ i)) ∧
       (∀ p ∈ laneSpots rs, ∀ i x, i < Size.bytes sz → p.2.2 = .glob x → x.target = 0 →
          peek t.mem.key (x.addr + i) = keyTag s x.kid) ∧
       AccessFrame s t [] 0 (StoredAt s (Size.bytes sz) (laneSpots rs))))

/-- Together: load; store. -/
def Obligations.LoadAndStoreResults : Prop := Claims.LoadResults ∧ Claims.StoreResults

/-- R187, R188, R214, R299: with a fault among the accesses no access is performed, and the exception is taken with the first
cause of the order, at the lowest lane that meets it. -/
def Obligations.AccessFaults : Prop :=
  (∀ h sp pol sz d a b disp s e f, Issues (.ld h sp pol sz d a b disp) s e →
    laneFault false (resolveLanes (beginIssue e s) sp .rd (Size.bytes sz) (effAddr s.g sp a b (Disp.val disp))
      (lanesOf (s.g.active h.toGuard))) = some f →
    exec (.ld h sp pol sz d a b disp) s = .next (takeFault f s)) ∧
  (∀ h sp pol sz d a b disp s e f, Issues (.st h sp pol sz d a b disp) s e →
    laneFault true (resolveLanes (beginIssue e s) sp .wr (Size.bytes sz) (effAddr s.g sp a b (Disp.val disp))
      (lanesOf (s.g.active h.toGuard))) = some f →
    exec (.st h sp pol sz d a b disp) s = .next (takeFault f s)) ∧
  (∀ h op sc w64 d a b c ad s e f, Issues (.atm h op sc w64 d a b c ad) s e →
    laneFault true (resolveLanes (beginIssue e s) (ADisp.space ad) .rmw (if w64 then 8 else 4)
      (effAddr s.g (ADisp.space ad) a b (ADisp.val ad)) (lanesOf (s.g.active h.toGuard))) = some f →
    exec (.atm h op sc w64 d a b c ad) s = .next (takeFault f s)) ∧
  (∀ wr rs f, laneFault wr rs = some f →
    f.cause ∈ causeOrder ∧ (∃ r ∈ rs, ∃ cs, r.2.2 = .error cs ∧ f.cause ∈ cs ∧ f.lane = r.1 ∧ f.va = r.2.1) ∧
    (∀ c ∈ causeOrder.takeWhile (· != f.cause), ∀ r ∈ rs, ∀ cs, r.2.2 = .error cs → c ∉ cs) ∧
    ((rs.map (·.1)).Pairwise (· < ·) → ∀ r ∈ rs, ∀ cs, r.2.2 = .error cs → f.cause ∈ cs → f.lane ≤ r.1))

/-- R197, R198, R201's swap left aside: `atm` and `ared` that meet no fault, on places that do not touch one another and hold
no poison. Every lane's place takes u ⊕ v of its old value u and the lane's data v, with `.xchg` v, with `.cas` v where u
equals the compare value in D; `atm` gives the lane u; every other byte and register stays. -/
def Obligations.AtomicResults : Prop :=
  (∀ h op sc w64 d a b c ad s e, Issues (.atm h op sc w64 d a b c ad) s e →
    let x := beginIssue e s
    let act := s.g.active h.toGuard
    let n := if w64 then 8 else 4
    let rs := resolveLanes x (ADisp.space ad) .rmw n (effAddr s.g (ADisp.space ad) a b (ADisp.val ad)) (lanesOf act)
    laneFault true rs = none →
    ∃ t, exec (.atm h op sc w64 d a b c ad) s = .next t ∧
      (LinksSound s (laneSpots rs) → Untraced s →
        AccessFrame s t (opKeys d (regsOf w64)) act (StoredAt s n (laneSpots rs))) ∧
      ((∀ p ∈ laneSpots rs, (spotRead x n p.2.2).2 = false) →
       (laneSpots rs).Pairwise (fun p q => p.2.1 ≠ q.2.1 ∧ ∀ i j loc, i < n → j < n → placeLoc s p.2.2 i = some loc →
          placeLoc s q.2.2 j ≠ some loc) →
       ∀ p ∈ laneSpots rs,
        let u := bytesNat ((List.range n).map (placeByte x p.2.2))
        let v := atomData s.g op w64 c p.1
        let w := if op = .cas ∧ u ≠ cmpOf s.g w64 d p.1 then u else aopVal op w64 u v
        (∀ i loc, i < n → placeLoc s p.2.2 i = some loc → LinksSound s (laneSpots rs) → Untraced s →
          (op = .cas ∧ u ≠ cmpOf s.g w64 d p.1 → locByte t loc = locByte s loc) ∧
          (¬ (op = .cas ∧ u ≠ cmpOf s.g w64 d p.1) → locByte t loc = BitVec.ofNat 8 (w / 256 ^ i))) ∧
        LoadedIn e t d (regsOf w64) (BitVec.twoPow 64 p.1) (fun _ => (u, false)))) ∧
  (∀ h op sc w64 a b c ad s e, Issues (.ared h op sc w64 a b c ad) s e →
    let x := beginIssue e s
    let n := if w64 then 8 else 4
    let rs := resolveLanes x (ADisp.space ad) .rmw n (effAddr s.g (ADisp.space ad) a b (ADisp.val ad))
      (lanesOf (s.g.active h.toGuard))
    laneFault true rs = none →
    ∃ t, exec (.ared h op sc w64 a b c ad) s = .next t ∧
      (LinksSound s (laneSpots rs) → Untraced s → (∀ p ∈ laneSpots rs, (spotRead x n p.2.2).2 = false) →
       AccessFrame s t [] 0 (StoredAt s n (laneSpots rs)) ∧
       (op ≠ .cas →
        (laneSpots rs).Pairwise (fun p q => p.2.1 ≠ q.2.1 ∧ ∀ i j loc, i < n → j < n → placeLoc s p.2.2 i = some loc →
          placeLoc s q.2.2 j ≠ some loc) →
        ∀ p ∈ laneSpots rs, ∀ i loc, i < n → placeLoc s p.2.2 i = some loc →
          locByte t loc = BitVec.ofNat 8 (aopVal op w64 (bytesNat ((List.range n).map (placeByte x p.2.2)))
            (atomData s.g op w64 c p.1) / 256 ^ i))))

/-- R200, R201, R202: `atmc` that meets no fault writes its status, and the old value where there is one, in the registers
from D on, and launches at most as many tasks as it has lanes. For one active lane: status 3 with a template that fails its
checks, 2 with no room at the station, 0 with an old value that differs from the compare value, and 1 with the swap made
and its task launched at the station of the place; nothing but status 1 stores, or launches. -/
def Obligations.ConditionalLaunchResults : Prop :=
  ∀ h sc w64 dk a b c tmpl s e, Issues (.atmc h sc w64 (.v dk) a b c tmpl) s e →
    let act := s.g.active h.toGuard
    let n := if w64 then 8 else 4
    let rs := resolveLanes (beginIssue e s) .global .rmw n (effAddr s.g .global a b 0) (lanesOf act)
    laneFault true rs = none →
    ∃ t, exec (.atmc h sc w64 (.v dk) a b c tmpl) s = .next t ∧
      SameRegs s.g t.g (opKeys (.v dk) (regsOf w64 + 1)) act ∧ t.g.fflags = s.g.fflags ∧
      SameRest { s.g with sig := t.g.sig, unack := t.g.unack } t.g ∧
      t.launches.length ≤ s.launches.length + (laneSpots rs).length ∧
      ∀ p, laneSpots rs = [p] →
        let b := signLines (linesOf [p]) (acquireAt [p] (beginIssue e s))
        let u := bytesNat ((List.range n).map (placeByte b p.2.2))
        let bad := (spotRead b n p.2.2).2
        let status (k : Nat) : Prop := regVal t.g (dk.toNat + regsOf w64) p.1 = (BitVec.ofNat 32 k, false)
        let old : Prop := LoadedIn e t (.v dk) (regsOf w64) (BitVec.twoPow 64 p.1) fun _ => (u, bad)
        let kept : Prop := ∀ i, i < regsOf w64 → regVal t.g (dk.toNat + i) p.1 = regVal s.g (dk.toNat + i) p.1
        (templateOf b tmpl.toNat = none → status 3 ∧ kept ∧ t.launches = s.launches) ∧
        (∀ raw, templateOf b tmpl.toNat = some raw →
          (launchRoom b (stationOf b p.2.2) = false → status 2 ∧ kept ∧ t.launches = s.launches ∧
            (LinksSound s [p] → Untraced s → ∀ loc, locByte t loc = locByte s loc)) ∧
          (launchRoom b (stationOf b p.2.2) = true → bad = true ∨ u ≠ cmpOf s.g w64 (.v dk) p.1 →
            status 0 ∧ old ∧ t.launches = s.launches ∧
            (LinksSound s [p] → Untraced s → ∀ loc, locByte t loc = locByte s loc)) ∧
          (launchRoom b (stationOf b p.2.2) = true → bad = false → u = cmpOf s.g w64 (.v dk) p.1 →
            status 1 ∧ old ∧
            (∃ q, t.launches = s.launches ++ [q] ∧ q.station = stationOf b p.2.2 ∧ q.tag = s.t.tag ∧
              (q.recd.bytes.drop 0x28).take 8 = natBytes u 8) ∧
            (LinksSound s [p] → Untraced s → ∀ loc,
              (∀ i, i < n → placeLoc s p.2.2 i = some loc →
                locByte t loc = BitVec.ofNat 8 (atomData s.g .xchg w64 c p.1 / 256 ^ i)) ∧
              (¬ StoredAt s n [p] loc → locByte t loc = locByte s loc))))

/-- R44, R127, R195, R203, R313: `nop`, `prf` and `fence` change no register and no byte. A release fence leaves no store
unacknowledged and no load outstanding, and publishes the signature of the group (outside the fall-back); an acquire fence
leaves both as they are, and no line in the L1 of the core (log 95). -/
def Claims.NoEffectResults : Prop :=
  (∀ stay s e, Issues (.nop stay) s e → ∃ t, exec (.nop stay) s = .next t ∧ RegFrame s t [] 0 0) ∧
  (∀ h l1 a b disp s e, Issues (.prf h l1 a b disp) s e → ∃ t, exec (.prf h l1 a b disp) s = .next t ∧ RegFrame s t [] 0 0) ∧
  (∀ h kind sc s e, Issues (.fence h kind sc) s e → ∃ t, exec (.fence h kind sc) s = .next t ∧
    AccessFrame s t [] 0 (fun _ => False) ∧ (kind = .rel → t.g.sig = s.g.sig) ∧ (s.g.active h.toGuard = 0 → RegFrame s t [] 0 0) ∧
    (kind ≠ .acq → s.g.active h.toGuard ≠ 0 → t.g.unack = 0 ∧ (∀ p ∈ t.g.pend, p.sfu = true) ∧
      (fallback s s.t.tag = false → carrierOf t.t (fenceKey s.g.uid) = carrierOf s.t (fenceKey s.g.uid) ||| s.g.sig)) ∧
    (kind ≠ .rel → s.g.active h.toGuard ≠ 0 → ∀ l ∈ t.l1, l ∈ s.l1 ∧ l.core ≠ coreOf s.t s.g) ∧
    (kind = .acq ∨ s.g.active h.toGuard = 0 → t.g.unack = s.g.unack))

/-- R25, R27, R29, R44: sequential fetch, here for `nop`, with no divergence. The PC goes to the first address behind the
instruction that holds no pad word; with STAY the run goes on at the next position, without it the run ends and its latches
are discarded. -/
def Claims.SequentialFetch : Prop :=
  ∀ stay s e, Issues (.nop stay) s e → s.g.bank.stk = [] → ∃ t, exec (.nop stay) s = .next t ∧
    (∀ k : Nat, k < 2 ^ 54 →
      (∀ j : Nat, j < k → fetchWord (beginIssue e s) (s.g.pc + 8 + BitVec.ofNat 56 (4 * j)) = .ok (padWord, false)) →
      fetchWord (beginIssue e s) (s.g.pc + 8 + BitVec.ofNat 56 (4 * k)) ≠ .ok (padWord, false) →
      t.g.pc = s.g.pc + 8 + BitVec.ofNat 56 (4 * k)) ∧
    t.g.em = s.g.em ∧ t.g.stat = s.g.stat ∧
    (if stay then t.g.runPos = s.g.runPos + 1 ∧ t.g.lat = s.g.lat else t.g.runPos = 0 ∧ t.g.lat = [])

/-- Together: no effect; sequential fetch. -/
def Obligations.FetchOnlyResults : Prop := Claims.NoEffectResults ∧ Claims.SequentialFetch

/-! ### Control and system instructions (spec/01 R17–R24, R31–R41, spec/05 R120–R146) -/

/-- R18, R120, R121, R124, R128, R129, R131: `bra`, `brx` and `ret`. -/
def Claims.BranchResults : Prop :=
  (∀ ch join target s e, Issues (.bra ch join target) s e →
    Transfer (.bra ch join target) s e ch.toGuard ch.hint (offset s.g.pc target) (normPc (beginIssue e s) (offset s.g.pc join)) (afterPc e s) []) ∧
  (∀ ch a join s e, Issues (.brx ch a join) s e →
    Transfer (.brx ch a join) s e ch.toGuard ch.hint (pairVa s a) (normPc (beginIssue e s) (offset s.g.pc join)) (afterPc e s) []) ∧
  (∀ gd a s e, Issues (.ret gd a) s e →
    Transfer (.ret gd a) s e gd .none (pairVa s a) (normPc (beginIssue e s) (pairVa s a)) (afterPc e s) [])

/-- R130: `call` and `callx`. A taken one writes the address behind it to the pair D; a call that diverges joins there. -/
def Claims.CallResults : Prop :=
  (∀ ch r target s e, Issues (.call ch (.g r) target) s e →
    Transfer (.call ch (.g r) target) s e ch.toGuard ch.hint (offset s.g.pc target) (afterPc e s) (afterPc e s)
      (opKeys (.g r) 2) ∧
    (s.g.active ch.toGuard ≠ 0 → offset s.g.pc target &&& 3 = 0 → (s.g.inactive ch.toGuard = 0 ∨ stackFull s.g = false) →
      ∃ t, exec (.call ch (.g r) target) s = .next t ∧ t.g.gPair r.toNat = (afterPc e s).zeroExtend 64)) ∧
  (∀ ch r a s e, Issues (.callx ch (.g r) a) s e →
    Transfer (.callx ch (.g r) a) s e ch.toGuard ch.hint (pairVa s a) (afterPc e s) (afterPc e s) (opKeys (.g r) 2) ∧
    (s.g.active ch.toGuard ≠ 0 → pairVa s a &&& 3 = 0 → (s.g.inactive ch.toGuard = 0 ∨ stackFull s.g = false) →
      ∃ t, exec (.callx ch (.g r) a) s = .next t ∧ t.g.gPair r.toNat = (afterPc e s).zeroExtend 64))

/-- Together: branch; call. -/
def Obligations.BranchAndCallResults : Prop := Claims.BranchResults ∧ Claims.CallResults

/-- R23, R132, R268: `exit` takes the active lanes out of the live set and goes on behind it while a lane is left; with none
left the group ends, as it does with `tend`, which a group of a launch may not use. -/
def Claims.GroupEndResults : Prop :=
  (∀ gd s e, Issues (.exit gd) s e →
    (s.g.active gd = 0 → ∃ t, exec (.exit gd) s = .next t ∧ RegFrame s t [] 0 0) ∧
    (s.g.active gd ≠ 0 → s.g.live &&& ~~~(s.g.active gd) ≠ 0 → ∃ t, exec (.exit gd) s = .next t ∧
      t.g.live = s.g.live &&& ~~~(s.g.active gd) ∧ t.g.em &&& s.g.active gd = 0 ∧ SameBytes s t ∧ SameDevice s t ∧
      SameRest { s.g with live := t.g.live } t.g ∧ t.g.fflags = s.g.fflags ∧
      ∀ k l, k < 335 → l < 64 → regVal t.g k l = regVal s.g k l) ∧
    (s.g.active gd ≠ 0 → s.g.live &&& ~~~(s.g.active gd) = 0 → s.t.latches = [] → ∃ t, exec (.exit gd) s = .next t ∧
      t.g.uid = s.g.uid ∧ t.g.stat = .ended ∧ t.g.live = 0)) ∧
  (∀ s e, Issues .tend s e →
    (s.t.origin = .launch → exec .tend s = .next (takeFault { cause := cTASK } s)) ∧
    (s.t.origin ≠ .launch → s.t.latches = [] → ∃ t, exec .tend s = .next t ∧
      t.g.uid = s.g.uid ∧ t.g.stat = .ended ∧ t.g.live = 0))

/-- R21, R133: `yield` with no other path to run goes on behind it, for others of the core to issue first. -/
def Claims.YieldResult : Prop :=
  ∀ s e, Issues .yield s e → ∃ t, exec .yield s = .next t ∧
    t.g.yielded = true ∧
    ((∀ d, s.g.bank.stk.head? = some d → d.other.complete = true ∨ afterPc e s = d.join ∨ afterPc e s = normPc (beginIssue e s) d.join) →
      RegFrame { s with g := { s.g with yielded := true } } t [] 0 0 ∧
      (s.g.bank.stk = [] → t.g.pc = afterPc e s ∧ t.g.em = s.g.em))

/-- R71, R134, R135: with a lane active `trap` raises SW_TRAP with the low 16 bits of A as its code, recorded at the address
behind it, and `brk` raises BREAKPOINT; with none they do nothing. A word that is no instruction raises ILLEGAL_OPC, and a
pad word with other bits set ILLEGAL_ENC; a pad word is skipped (R43). -/
def Obligations.TrapResults : Prop :=
  (∀ gd a s e, Issues (.trap gd a) s e →
    (s.g.active gd = 0 → ∃ t, exec (.trap gd a) s = .next t ∧ RegFrame s t [] 0 0) ∧
    (s.g.active gd ≠ 0 → exec (.trap gd a) s = .next (takeFault
      { cause := cSWTRAP, code := (src32 s.g a 0).toNat % 2 ^ 16, land := some (afterPc e s, s.g.runPos) } s))) ∧
  (∀ h s e, Issues (.brk h) s e →
    (s.g.active h.toGuard = 0 → ∃ t, exec (.brk h) s = .next t ∧ RegFrame s t [] 0 0) ∧
    (s.g.active h.toGuard ≠ 0 → exec (.brk h) s = .next (takeFault { cause := cBRK } s))) ∧
  (∀ w s, w ≠ padWord →
    exec (.unassignedOpc w) s = .next (takeFault { cause := if isPadLen w then cILLENC else cILLOPC } s)) ∧
  (∀ s, ∃ t, exec (.unassignedOpc padWord) s = .next t ∧ RegFrame s t [] 0 0 ∧
    (s.g.bank.stk = [] → t.g.pc = normPc s (s.g.pc + 4) ∧ t.g.em = s.g.em))

/-- R39, R40, R136: `eret` and `mhret` leave a shadow context of their own kind: EM is SR_TEM in the live lanes, the PC is
SR_TPC, the registers are those the context hid; anywhere else they are illegal. -/
def Obligations.HandlerReturnResults : Prop :=
  ∀ i k, (i = .eret ∧ k = Handler.trap) ∨ (i = .mhret ∧ k = Handler.pcMatch) → ∀ s e, Issues i s e →
    (inHandler s.g k = true → ∃ t, exec i s = .next t ∧ t.g.sh = none ∧
      (∀ j l, regVal t.g j l = regVal { s.g with sh := none } j l) ∧
      (s.g.regs.stk = [] → t.g.em = s.g.tem &&& s.g.live ∧ t.g.pc = normPc (beginIssue e s) s.g.tpc ∧ t.g.runPos = 0) ∧
      t.g.noMatch = (k == Handler.pcMatch) ∧ t.g.tpc = s.g.tpc ∧ t.g.tem = s.g.tem ∧ t.g.tcause = s.g.tcause ∧
      t.g.tinfo = s.g.tinfo ∧ t.g.fmode = s.g.fmode ∧ t.g.fflags = s.g.fflags ∧ t.g.live = s.g.live ∧ SameBytes s t) ∧
    (inHandler s.g k = false → exec i s = .next (takeFault { cause := cILLOPC } s))

/-- R139, R141, R142–R146: `sysrd` gives D the register that A names; a number the map does not list, or a width the register
does not have, is an illegal operand with the SA bit. -/
def Claims.SystemReadResults : Prop :=
  ∀ h w64 d a s e, Issues (.sysrd h w64 d a) s e →
    let act := s.g.active h.toGuard
    (act = 0 → ∃ t, exec (.sysrd h w64 d a) s = .next t ∧ RegFrame s t [] 0 0) ∧
    (act ≠ 0 → sysPick s.g a w64 true = none →
      exec (.sysrd h w64 d a) s = .next (takeFault { cause := cILLOPERAND, opf := 2 } s)) ∧
    (∀ r, act ≠ 0 → sysPick s.g a w64 true = some r → ∃ t, exec (.sysrd h w64 d a) s = .next t ∧
      UniResult e t d w64 act (sysRead s r) ∧ RegFrame s t (destKeys e d (regsOf w64) act) act 0)

/-- R34, R102, R103, R139: `syswr` writes the register that A names, where it is writable: SR_FMODE, SR_FFLAGS, and inside a
shadow context SR_TPC and SR_TEM; every other register and byte stays. -/
def Claims.SystemWriteResults : Prop :=
  ∀ h w64 a b s e, Issues (.syswr h w64 a b) s e →
    (s.g.active h.toGuard = 0 → ∃ t, exec (.syswr h w64 a b) s = .next t ∧ RegFrame s t [] 0 0) ∧
    (s.g.active h.toGuard ≠ 0 → sysPick s.g a w64 false = none →
      exec (.syswr h w64 a b) s = .next (takeFault { cause := cILLOPERAND, opf := 2 } s)) ∧
    (∀ r, s.g.active h.toGuard ≠ 0 → sysPick s.g a w64 false = some r → ∃ t, exec (.syswr h w64 a b) s = .next t ∧
      t.g.fmode = (if r = .fmode then (srcU s.g w64 b).setWidth 2 else s.g.fmode) ∧
      t.g.fflags = (if r = .fflags then (srcU s.g w64 b).setWidth 6 else s.g.fflags) ∧
      t.g.tpc = (if r = .tpc ∧ s.g.shadowed = true then (srcU s.g w64 b).setWidth 56 &&& ~~~3 else s.g.tpc) ∧
      t.g.tem = (if r = .tem ∧ s.g.shadowed = true then srcU s.g w64 b &&& s.g.all else s.g.tem) ∧
      SameRest { s.g with fmode := t.g.fmode, tpc := t.g.tpc, tem := t.g.tem } t.g ∧
      SameRegs s.g t.g [] 0 ∧ SameDevice s t ∧ SameBytes s t)

/-- Together: system read; system write. -/
def Obligations.SystemRegisterResults : Prop := Claims.SystemReadResults ∧ Claims.SystemWriteResults

/-- R24, R138, R247: `emwr` sets EM to the bits of A in the mask of the current path, unless that leaves no lane; `eset` and
`gang` write an edge register and a gang register; a gang value that is not well formed is an illegal operand (R233). -/
def Obligations.MaskAndGangRegisterResults : Prop :=
  (∀ gd a s e, Issues (.emwr gd a) s e → ∃ t, exec (.emwr gd a) s = .next t ∧ RegFrame s t [] 0 0 ∧
    (NoJoin e s (s.g.pc + BitVec.ofNat 56 e.f.bytes) →
      t.g.em = (if s.g.active gd = 0 ∨ srcU s.g true a &&& s.g.pathMask = 0 then s.g.em else srcU s.g true a &&& s.g.pathMask))) ∧
  (∀ stay k a s e, Issues (.eset stay k a) s e → ∃ t, exec (.eset stay k a) s = .next t ∧
    (∀ j, peek t.g.e j = if j = k.toNat then srcU s.g true a else peek s.g.e j) ∧
    RegFrame { s with g := { s.g with e := t.g.e } } t [] 0 0) ∧
  (∀ stay k a s e, Issues (.gang stay k a) s e →
    (gangOk s (src32 s.g a 0).toNat = true → ∃ t, exec (.gang stay k a) s = .next t ∧
      (∀ j, t.g.k[j]? = if j = k.toNat ∧ j < s.g.k.length then some ⟨true, src32 s.g a 0⟩ else s.g.k[j]?) ∧
      RegFrame { s with g := { s.g with k := t.g.k } } t [] 0 0) ∧
    (gangOk s (src32 s.g a 0).toNat = false →
      exec (.gang stay k a) s = .next (takeFault { cause := cILLOPERAND, opf := 2 } s)))

/-! ### Barrier objects, waits and batches (spec/07 R204–R214, spec/09 R269, R270) -/

/-- R204, R207, R214: `bini` makes the object: no bytes expected or credited, the arrivals of B expected, none counted, the phase
of C, valid. A count outside 1 to 65535, or a group that waits on the object, is BARRIER_MISUSE. -/
def Claims.BarrierInitResult : Prop :=
  ∀ h a b c s e, Issues (.bini h a b c) s e →
    let o := objAddr s.g a
    let n := (src32 s.g b 0).toNat
    let waited := (groupsOf s s.t.uid).any (waitsOn · o)
    ObjectGuard (.bini h a b c) s h a ∧
    (s.g.active h.toGuard ≠ 0 → objFault s.t o false = none →
      ((n = 0 ∨ 65535 < n ∨ waited = true) → exec (.bini h a b c) s = .next (takeFault { cause := cBARRIER } s)) ∧
      (1 ≤ n → n ≤ 65535 → waited = false → ∃ t, exec (.bini h a b c) s = .next t ∧
        getObj t.t o = { xb := 0, cb := 0, xarr := n, carr := 0, phase := (src32 s.g c 0).toNat % 2 ^ 16, flags := 0x8000 } ∧
        AccessFrame s t [] 0 (ObjBytes s o)))

/-- R205, R206, R208, R318: `arv` counts one arrival, with the stores and loads of the group done, and gives D the phase it counted
in; the arrival that completes the phase ends it. `xpct` adds B to the bytes expected. On an object that is not valid, a full
phase, or past 2^32 bytes, BARRIER_MISUSE. -/
def Claims.ArriveAndExpectResults : Prop :=
  (∀ h sc d a s e, Issues (.arv h sc d a) s e →
    let o := objAddr s.g a
    let ob := getObj s.t o
    let act := s.g.active h.toGuard
    ObjectGuard (.arv h sc d a) s h a ∧
    (act ≠ 0 → objFault s.t o false = none →
      ((ob.valid = false ∨ ob.carr = ob.xarr) → exec (.arv h sc d a) s = .next (takeFault { cause := cBARRIER } s)) ∧
      (ob.valid = true → ob.carr ≠ ob.xarr → ∃ t, exec (.arv h sc d a) s = .next t ∧
        (let q := settled { ob with carr := ob.carr + 1 }
         getObj t.t o = { q with carr := q.carr % 2 ^ 16 }) ∧
        UniResult e t d false act (BitVec.ofNat 64 ob.phase) ∧ t.g.unack = 0 ∧ (∀ p ∈ t.g.pend, p.sfu = true) ∧
        AccessFrame s t (destKeys e d 1 act) act (ObjBytes s o)))) ∧
  (∀ h a b s e, Issues (.xpct h a b) s e →
    let o := objAddr s.g a
    let ob := getObj s.t o
    let n := ob.xb + (src32 s.g b 0).toNat
    ObjectGuard (.xpct h a b) s h a ∧
    (s.g.active h.toGuard ≠ 0 → objFault s.t o false = none →
      ((ob.valid = false ∨ 2 ^ 32 ≤ n) → exec (.xpct h a b) s = .next (takeFault { cause := cBARRIER } s)) ∧
      (ob.valid = true → n < 2 ^ 32 → ∃ t, exec (.xpct h a b) s = .next t ∧
        getObj t.t o = settled { ob with xb := n } ∧ AccessFrame s t [] 0 (ObjBytes s o))))

/-- Together: barrier init; arrive and expect. -/
def Obligations.BarrierResults : Prop := Claims.BarrierInitResult ∧ Claims.ArriveAndExpectResults

/-- R205, R209, R210: `waitp` on an object, `obj_batch` or `obj_lock`. With the phase passed it goes on, and holds the
reservation of the lock table after `obj_lock`; without it, and with no other path to run, the group is suspended there. -/
def Claims.WaitResults : Prop :=
  ∀ h sc a b s e, Issues (.waitp h sc a b) s e →
    let o := objAddr s.g a
    let w : Wait := newWait s o ((src32 s.g b 0).toNat % 2 ^ 16) sc none e.f.bytes
    let ok := isSpecial o = true ∨ (getObj s.t o).valid = true
    (s.g.active h.toGuard = 0 → ∃ t, exec (.waitp h sc a b) s = .next t ∧ RegFrame s t [] 0 0) ∧
    (s.g.active h.toGuard ≠ 0 →
      (∀ f, objFault s.t o true = some f → exec (.waitp h sc a b) s = .next (takeFault f s)) ∧
      (objFault s.t o true = none → ¬ ok → exec (.waitp h sc a b) s = .next (takeFault { cause := cBARRIER } s)) ∧
      (objFault s.t o true = none → ok →
        (waitPassed s s.g w = true → ∃ t, exec (.waitp h sc a b) s = .next t ∧
          t.g.lockRes = (s.g.lockRes || o == objLock) ∧
          (NoJoin e s (s.g.pc + BitVec.ofNat 56 e.f.bytes) → t.g.pc = afterPc e s ∧ t.g.stat = s.g.stat) ∧
          AccessFrame { s with g := { s.g with lockRes := t.g.lockRes } } t [] 0 fun _ => False) ∧
        (waitPassed s s.g w = false → ∃ t, exec (.waitp h sc a b) s = .next t ∧
          (s.g.bank.stk = [] → t.g.stat = .waiting w ∧ t.g.pc = s.g.pc ∧ t.g.em = s.g.em ∧ RegFrame s t [] 0 0))))

/-- R205, R211: `bcls` closes the open batch, gives D its number, and opens the next; with the oldest incomplete batch more than 32768
back it is BARRIER_MISUSE. -/
def Claims.BatchCloseResult : Prop :=
  ∀ h d s e, Issues (.bcls h d) s e →
    let act := s.g.active h.toGuard
    (act = 0 → ∃ t, exec (.bcls h d) s = .next t ∧ RegFrame s t [] 0 0) ∧
    (act ≠ 0 → 32768 < s.g.closed + 1 - firstBusy s s.g.uid (s.g.closed + 1) →
      exec (.bcls h d) s = .next (takeFault { cause := cBARRIER } s)) ∧
    (act ≠ 0 → s.g.closed + 1 - firstBusy s s.g.uid (s.g.closed + 1) ≤ 32768 → ∃ t, exec (.bcls h d) s = .next t ∧
      UniResult e t d false act (BitVec.ofNat 64 (s.g.closed % 2 ^ 16)) ∧ t.g.closed = s.g.closed + 1 ∧
      t.g.batch = BitVec.ofNat 16 s.g.closed ∧
      RegFrame { s with g := { s.g with closed := t.g.closed, batch := t.g.batch } } t (destKeys e d 1 act) act 0)

/-- Together: wait; batch close. -/
def Obligations.WaitAndBatchResults : Prop := Claims.WaitResults ∧ Claims.BatchCloseResult

/-- R206, R212, R213, R263: `watch` on a valid object and a readable line arms a monitor of the core for the line, which merges into
one the object has; with none and all 16 in use, it ends the phase of the object at once. -/
def Claims.WatchResults : Prop :=
  ∀ h a b s e, Issues (.watch h a b) s e →
    let o := objAddr s.g a
    let ob := getObj s.t o
    let va := (srcU s.g true b).toNat % 2 ^ 56 / 2 * 2
    let m : Mon := ⟨coreOf s.t s.g, s.t.uid, o, some (va / 128), none⟩
    ObjectGuard (.watch h a b) s h a ∧
    (s.g.active h.toGuard ≠ 0 → objFault s.t o false = none →
      (ob.valid = false → exec (.watch h a b) s = .next (takeFault { cause := cBARRIER } s)) ∧
      (∀ c, ob.valid = true → xlate (beginIssue e s) s.t.tag (coreOf s.t s.g) va needR = .error c →
        exec (.watch h a b) s = .next (takeFault { cause := if c = cPAGE then cPAGE else cPERM, va := va } s)) ∧
      (∀ x, ob.valid = true → xlate (beginIssue e s) s.t.tag (coreOf s.t s.g) va needR = .ok x → ∃ t, exec (.watch h a b) s = .next t ∧
        (m ∉ s.mons → s.mons.any m.same = true ∨ monsUsed s m.core < 16 →
          t.mons = s.mons ++ [m] ∧ (getObj t.t o).phase = ob.phase) ∧
        (m ∉ s.mons → s.mons.any m.same = false → 16 ≤ monsUsed s m.core → t.mons = s.mons ∧ (getObj t.t o).phase = (ob.phase + 1) % 2 ^ 16) ∧
        AccessFrame { s with mons := t.mons } t [] 0 (ObjBytes s o)))

/-- R269, R270: `role` with the batch of the group complete takes the role: its entry is the new PC, registers inside both
windows stay and the others of the new window read zero. An absent role, a path that has diverged or lanes switched off are
ROLE_MISUSE. -/
def Claims.RoleResults : Prop :=
  ∀ a s e, Issues (.role a) s e →
    let n := (src32 s.g a 0).toNat
    let r := s.t.desc.roles.getD n ⟨0, 0⟩
    let w := Nat.min (windowOf s.t s.g) r.win
    let first := firstBusy s s.g.uid (s.g.closed + 1)
    ((r.win = 0 ∨ s.g.bank.stk ≠ [] ∨ s.g.em ≠ s.g.live) → exec (.role a) s = .next (takeFault { cause := cROLE } s)) ∧
    (r.win ≠ 0 → s.g.bank.stk = [] → s.g.em = s.g.live → s.g.closed + 1 - first ≤ 32768 → ∃ t, exec (.role a) s = .next t ∧
      t.g.closed = s.g.closed + 1 ∧ t.g.batch = BitVec.ofNat 16 s.g.closed ∧ SameBytes s t ∧
      (passed first (s.g.closed % 2 ^ 16) = false → t.g.role = s.g.role ∧ t.g.pc = s.g.pc ∧
        t.g.stat = .waiting (newWait s objBatch (s.g.closed % 2 ^ 16) .grp (some n) e.f.bytes) ∧ t.g.regs = s.g.regs) ∧
      (passed first (s.g.closed % 2 ^ 16) = true → t.g.role = n ∧ t.g.pc = normPc (beginIssue e s) r.entry ∧ t.g.em = s.g.em ∧
        t.g.stat = .running ∧ (s.g.sh = none → ∀ k l, l < 64 →
          (k < w → regVal t.g k l = regVal s.g k l) ∧ (w ≤ k → k < 256 → regVal t.g k l = (0, false)) ∧
          (256 ≤ k → k < 335 → regVal t.g k l = regVal s.g k l))))

/-- Together: watch; role. -/
def Obligations.WatchAndRoleResults : Prop := Claims.WatchResults ∧ Claims.RoleResults

/-! ### Copy engines and tiles (spec/07 R215–R220, spec/08 R232–R258) -/

/-- R188, R210, R211, R215–R218: `acp` and `amc` that meet no fault put one operation in flight, with its ranges in the lock table,
in the open batch of the group; the entry that was reserved is used; nothing is copied yet. -/
def Obligations.CopyIssueResults : Prop :=
  (∀ h out twoD d a b c len rows gs ps s e, Issues (.acp h out twoD d a b c len rows gs ps) s e →
    let p := (src32 s.g d 0).toNat
    let gl := (srcU s.g true a).toNat % 2 ^ 56
    let k := if twoD then rows.toNat + 1 else 1
    let pst := 16 * ps.toNat
    let span := globSpan gl (16 * gs.toInt) k len.toNat
    let lock : List Rng := [⟨out, true, 0, span.1, span.2⟩, ⟨!out, false, s.t.uid, p, p + (k - 1) * pst + len.toNat - 1⟩]
    let bad := firstCause ((if p % 4 ≠ 0 ∨ gl % 4 ≠ 0 then [cMISALIGN] else []) ++ padCauses s.t p ((k - 1) * pst + len.toNat) ++
      nameCauses s.t (nameOf s.g b) (nameOf s.g c) true ++ lockCauses s lock)
    (s.g.active h.toGuard = 0 → ∃ t, exec (.acp h out twoD d a b c len rows gs ps) s = .next t ∧ RegFrame s t [] 0 0) ∧
    (s.g.active h.toGuard ≠ 0 →
      (∀ f, bad = some f → exec (.acp h out twoD d a b c len rows gs ps) s = .next (takeFault f s)) ∧
      (bad = none → ∃ t o, exec (.acp h out twoD d a b c len rows gs ps) s = .next t ∧ t.ops = s.ops ++ [o] ∧
        o.uid = s.nextUid ∧ o.grp = s.g.uid ∧ o.kind = .acp out p gl len.toNat k (16 * gs.toInt) pst ∧
        o.batches = [(s.g.uid, s.g.closed)] ∧ o.bar = nameOf s.g b ∧ o.crec = nameOf s.g c ∧ o.lock = lock ∧ o.progress = 0 ∧
        t.g.lockRes = false ∧ EngineFrame s t))) ∧
  (∀ h d a b c len s e, Issues (.amc h d a b c len) s e →
    let p := (src32 s.g d 0).toNat
    let mask := (src32 s.g a 0).toNat
    let ts := amcTargets s mask
    let lock : List Rng := ⟨false, false, s.t.uid, p, p + len.toNat - 1⟩ ::
      (ts.filter (·.2.1 != 0)).map fun t => ⟨true, false, t.2.1, p, p + len.toNat - 1⟩
    let bad := firstCause ((if p % 4 ≠ 0 then [cMISALIGN] else []) ++ padCauses s.t p len.toNat ++
      nameCauses s.t (nameOf s.g b) (nameOf s.g c) false ++ lockCauses s lock)
    (s.g.active h.toGuard = 0 → ∃ t, exec (.amc h d a b c len) s = .next t ∧ RegFrame s t [] 0 0) ∧
    (s.g.active h.toGuard ≠ 0 →
      (16 ≤ mask → exec (.amc h d a b c len) s = .next (takeFault { cause := cILLOPERAND, opf := 2 } s)) ∧
      (∀ f, mask < 16 → bad = some f → exec (.amc h d a b c len) s = .next (takeFault f s)) ∧
      (mask < 16 → bad = none → ∃ t o, exec (.amc h d a b c len) s = .next t ∧ t.ops = s.ops ++ [o] ∧
        o.uid = s.nextUid ∧ o.grp = s.g.uid ∧ o.kind = .amc p len.toNat ts ∧ o.batches = [(s.g.uid, s.g.closed)] ∧
        o.bar = nameOf s.g b ∧ o.crec = nameOf s.g c ∧ o.lock = lock ∧ o.progress = 0 ∧ t.g.lockRes = false ∧
        EngineFrame s t)))

/-- R242–R244, R251, R252: `zclr` leaves zeros in every tile of its range, `zfree` returns them, and `zgrow` adds N tiles
under the lowest run of free names and gives D the first of them, or 0xFFFFFFFF and nothing. -/
def Obligations.TileResults : Prop :=
  (∀ h a b s e, Issues (.zclr h a b) s e →
    let n := (src32 s.g b 0).toNat
    (s.g.active h.toGuard = 0 ∨ n = 0 → ∃ t, exec (.zclr h a b) s = .next t ∧ RegFrame s t [] 0 0) ∧
    (s.g.active h.toGuard ≠ 0 → n ≠ 0 →
      (∀ c, tileRange s (tileWord s.g a) n = .error c → exec (.zclr h a b) s = .next (takeFault { cause := c } s)) ∧
      (∀ rs, tileRange s (tileWord s.g a) n = .ok rs → leaseHeld s s.t.tag (tileWord s.g a) = true →
        exec (.zclr h a b) s = .next s) ∧
      (∀ rs, tileRange s (tileWord s.g a) n = .ok rs → leaseHeld s s.t.tag (tileWord s.g a) = false →
        ∃ t, exec (.zclr h a b) s = .next t ∧ (∀ r ∈ rs, ∀ z, getTile t r = some z → z.z = [] ∧ z.zm = []) ∧
          TileFrame s t [] 0))) ∧
  (∀ h a b s e, Issues (.zfree h a b) s e →
    let n := (src32 s.g b 0).toNat
    (s.g.active h.toGuard = 0 ∨ n = 0 → ∃ t, exec (.zfree h a b) s = .next t ∧ RegFrame s t [] 0 0) ∧
    (s.g.active h.toGuard ≠ 0 → n ≠ 0 →
      (∀ c, tileRange s (tileWord s.g a) n = .error c → exec (.zfree h a b) s = .next (takeFault { cause := c } s)) ∧
      (∀ rs, tileRange s (tileWord s.g a) n = .ok rs →
        (bits (tileWord s.g a).toNat 16 16 ≠ 0 → exec (.zfree h a b) s = .next (takeFault { cause := cZTILE } s)) ∧
        (bits (tileWord s.g a).toNat 16 16 = 0 → ∃ t, exec (.zfree h a b) s = .next t ∧ (∀ r ∈ rs, getTile t r = none) ∧
          TileFrame s t [] 0)))) ∧
  (∀ h d a s e, Issues (.zgrow h d a) s e →
    let act := s.g.active h.toGuard
    let n := (src32 s.g a 0).toNat
    let core := coreOf s.t s.g
    let new (k : Nat) : List Tile := (List.range n).map fun i => ⟨core, k + i, [], []⟩
    let fits (k : Nat) : Prop := 1 ≤ n ∧ n ≤ 512 ∧ freeNames s.t core n = some k ∧ tilesUsed s core + n ≤ 512 ∧
      tilesBeyond { s with t := { s.t with tiles := s.t.tiles ++ new k } } core ≤ 64
    (act = 0 → ∃ t, exec (.zgrow h d a) s = .next t ∧ RegFrame s t [] 0 0) ∧
    (∀ k, act ≠ 0 → fits k → ∃ t, exec (.zgrow h d a) s = .next t ∧ UniResult e t d false act (BitVec.ofNat 64 k) ∧
      t.t.tiles = s.t.tiles ++ new k ∧ TileFrame s t (destKeys e d 1 act) act) ∧
    (act ≠ 0 → (∀ k, ¬ fits k) → ∃ t, exec (.zgrow h d a) s = .next t ∧ UniResult e t d false act 0xFFFFFFFF ∧
      t.t.tiles = s.t.tiles ∧ TileFrame s t (destKeys e d 1 act) act))

/-- R253–R255, R258: `zld` and `zdrn` that meet no fault put one row transfer in flight, with its range locked; `zdrn` with the
tile as it stands then. `zprg` gives D the progress of the last transfer of the group on the tile: its state, its cause where
it stopped, its rows done. -/
def Obligations.RowTransferResults : Prop :=
  (∀ h a b s e, Issues (.zld h a b) s e →
    let v := tileWord s.g a
    let pd := (src32 s.g b 0).toNat
    let lock : List Rng := [⟨false, false, s.t.uid, pd, pd + 16383⟩]
    let bad := firstCause ((if pd % 16 = 0 then [] else [cMISALIGN]) ++ padCauses s.t pd 16384 ++ lockCauses s lock)
    (s.g.active h.toGuard = 0 → ∃ t, exec (.zld h a b) s = .next t ∧ RegFrame s t [] 0 0) ∧
    (s.g.active h.toGuard ≠ 0 →
      (∀ c, tileOf s v = .error c → exec (.zld h a b) s = .next (takeFault { cause := c } s)) ∧
      (∀ r f, tileOf s v = .ok r → bad = some f → exec (.zld h a b) s = .next (takeFault f s)) ∧
      (∀ r, tileOf s v = .ok r → bad = none → leaseHeld s s.t.tag v = true → exec (.zld h a b) s = .next s) ∧
      (∀ r, tileOf s v = .ok r → bad = none → leaseHeld s s.t.tag v = false → ∃ t o, exec (.zld h a b) s = .next t ∧
        t.ops.getLast? = some o ∧ t.ops.length = s.ops.length + 1 ∧ o.uid = s.nextUid ∧ o.kind = .zld v pd ∧ o.lock = lock ∧
        o.progress = 0 ∧ t.g.zprog.head? = some ⟨v, s.nextUid, 1, 0, 0⟩ ∧ t.g.lockRes = false ∧ SameBytes s t ∧
        SameRegs s.g t.g [] 0 ∧ t.g.fflags = s.g.fflags))) ∧
  (∀ h acc cv a b c pd row0 rows cols shift col0 stride s e,
    Issues (.zdrn h acc cv a b c pd row0 rows cols shift col0 stride) s e →
    let v := tileWord s.g a
    let base := if pd then (src32 s.g b 0).toNat else (srcU s.g true b).toNat % 2 ^ 56
    let n := drnSpan (rows.toNat + 1) (cols.toNat + 1) stride.toNat cv
    let lock : List Rng := [⟨true, !pd, if pd then s.t.uid else 0, base, base + n - 1⟩]
    let bad := firstCause ((if base % 16 = 0 then [] else [cMISALIGN]) ++ (if pd then padCauses s.t base n else []) ++
      lockCauses s lock)
    (s.g.active h.toGuard = 0 → ∃ t, exec (.zdrn h acc cv a b c pd row0 rows cols shift col0 stride) s = .next t ∧
      RegFrame s t [] 0 0) ∧
    (s.g.active h.toGuard ≠ 0 →
      (∀ k, tileOf s v = .error k →
        exec (.zdrn h acc cv a b c pd row0 rows cols shift col0 stride) s = .next (takeFault { cause := k } s)) ∧
      (∀ r f, tileOf s v = .ok r → bad = some f →
        exec (.zdrn h acc cv a b c pd row0 rows cols shift col0 stride) s = .next (takeFault f s)) ∧
      (∀ r, tileOf s v = .ok r → bad = none → leaseHeld s s.t.tag v = true →
        exec (.zdrn h acc cv a b c pd row0 rows cols shift col0 stride) s = .next s) ∧
      (∀ r, tileOf s v = .ok r → bad = none → leaseHeld s s.t.tag v = false → ∃ t o,
        exec (.zdrn h acc cv a b c pd row0 rows cols shift col0 stride) s = .next t ∧
        t.ops.getLast? = some o ∧ t.ops.length = s.ops.length + 1 ∧ o.uid = s.nextUid ∧ o.lock = lock ∧ o.progress = 0 ∧
        (∃ scale z zm, o.kind = .zdrn v acc cv pd base row0.toNat (rows.toNat + 1) col0.toNat (cols.toNat + 1) shift.toNat
          stride.toNat scale z zm ∧ ∀ x, getTile t r = some x → z = x.z ∧ zm = x.zm) ∧
        t.g.zprog.head? = some ⟨v, s.nextUid, 1, 0, 0⟩ ∧ t.g.lockRes = false ∧ SameBytes s t ∧ SameRegs s.g t.g [] 0 ∧
        t.g.fflags = s.g.fflags))) ∧
  (∀ h d a s e, Issues (.zprg h d a) s e →
    let act := s.g.active h.toGuard
    let v := tileWord s.g a
    (act = 0 → ∃ t, exec (.zprg h d a) s = .next t ∧ RegFrame s t [] 0 0) ∧
    (∀ c, act ≠ 0 → tileOf s v = .error c → exec (.zprg h d a) s = .next (takeFault { cause := c } s)) ∧
    (∀ r, act ≠ 0 → tileOf s v = .ok r → ∃ t, exec (.zprg h d a) s = .next t ∧
      UniResult e t d false act (BitVec.ofNat 64 (match s.g.zprog.find? (·.tile == v) with
        | some p => p.state * 2 ^ 30 + (if p.state = 2 then p.cause * 2 ^ 16 else 0) + p.rows
        | none => 0)) ∧
      RegFrame s t (destKeys e d 1 act) act 0))

/-- R234–R236, R248, R249, R311: `mma` by a group that its gang register lists. Its arrival breaks the other latches that wait for
it; where its gang then lists a group that has ended, it raises GANG_BROKEN. With every group listed alive and no latch broken,
the run ends, the stores of the group are done, and it is held at the latch until every group listed has arrived. The last
arrival gives the engine one operation when the checks of the rendezvous pass. -/
def Obligations.MatrixArrivalResults : Prop :=
  ∀ ls k a b c er ec kc fbpd s e, Issues (.mma ls k a b c er ec kc fbpd) s e →
    let kr := s.g.k.getD k.toNat ⟨false, 0⟩
    let opf := mmaOpf s ls kr a b c
    let old := s.t.latches.find? (·.gang == kr.val)
    let here := (match old with | some l => l.arrived | none => []) ++ [s.g.gidx]
    let rel := releaseWait (beginIssue e s)
    let freed := withBroken s.g.uid (breakLatches s.g.gidx (some kr.val) rel)
    let arr : MmaArrive :=
      { run := s.g.startOfRun, pos := s.g.runPos, at_ := s.g.pc, gang := kr.val, tile := tileWord s.g a, ls := ls, fbase := (match b with | .v r => r.toNat | _ => 0),
        blk := if fbpd then (src32 s.g c 0).toNat else (srcU s.g true c).toNat % 2 ^ 56,
        er := peek s.g.e er.toNat, ec := peek s.g.e ec.toNat, kc := kc.toNat, fbpd := fbpd }
    (opf ≠ 0 → exec (.mma ls k a b c er ec kc fbpd) s = .next (takeFault { cause := cILLOPERAND, opf := opf } s)) ∧
    (opf = 0 → listsEnded freed kr.val.toNat = true →
      exec (.mma ls k a b c er ec kc fbpd) s = .next (takeFault { cause := cGANG } freed)) ∧
    (opf = 0 → listsEnded s kr.val.toNat = false →
      (∀ l ∈ s.t.latches, gangLists l.gang s.g.gidx = true → l.arrived.contains s.g.gidx = true ∨ l.gang = kr.val) →
      ∃ t, exec (.mma ls k a b c er ec kc fbpd) s = .next t ∧
        ((gangMembers kr.val.toNat).all here.contains = false →
          t.g.stat = .held ∧ t.g.arrive = some arr ∧ t.g.pc = afterPc e s ∧ t.g.runPos = 0 ∧ t.g.unack = 0 ∧ (∃ l ∈ t.t.latches, l.gang = kr.val ∧ l.arrived = here) ∧
          t.ops = s.ops ∧ SameBytes s t ∧ SameRegs s.g t.g [] 0) ∧
        ((gangMembers kr.val.toNat).all here.contains = true → ∀ x a op,
          let held : Group := { rel.g with stat := .held, arrive := some arr, pc := afterPc e s }.endRun
          let b : State := { rel with g := held, t := { s.t with latches := s.t.latches.filter (·.gang != kr.val) } }
          (gangGroups b kr.val.toNat).head? = some x → x.arrive = some a → rendezvous b kr.val a = .ok op →
          ∃ o, t.ops = s.ops ++ [o] ∧ o.kind = .mma op ∧ o.core = coreOf s.t x ∧
            o.batches = (gangGroups b kr.val.toNat).map fun m => (m.uid, m.closed)))

/-! ### Tasks, coverage, beams, texels and observation (spec/07 R221–R231, spec/09 R259–R279) -/

/-- R262, R263: `talc` with a free slot of the pool gives the pair D its address, and the slot, zeroed, is held by the team; with
none it gives 0xFFFFFFFF, and with an object named the phase of it in the high half, and a monitor waits for a free slot, or the
phase ends at once where no monitor is free. A pool or an object that is not there is a fault. -/
def Claims.SlotAllocationResults : Prop :=
  ∀ h d a s e, Issues (.talc h d a) s e →
    let b := beginIssue e s
    let act := s.g.active h.toGuard
    let v := (src32 s.g a 0).toNat
    let pool := bits v 0 16
    let obj := bits v 24 8
    let ob := getObj s.t (16 * obj)
    let m : Mon := ⟨coreOf s.t s.g, s.t.uid, 16 * obj, none, some pool⟩
    (act = 0 → ∃ t, exec (.talc h d a) s = .next t ∧ RegFrame s t [] 0 0) ∧
    (act ≠ 0 → (bits v 16 8 ≠ 0 ∨ (poolsOf s s.t.tag).length ≤ pool) →
      exec (.talc h d a) s = .next (takeFault { cause := cTASK } s)) ∧
    (act ≠ 0 → bits v 16 8 = 0 → pool < (poolsOf s s.t.tag).length →
      (obj ≠ 255 → (s.t.desc.barriers ≤ obj ∨ ob.valid = false) →
        exec (.talc h d a) s = .next (takeFault { cause := cBARRIER } s)) ∧
      (obj = 255 ∨ (obj < s.t.desc.barriers ∧ ob.valid = true) → ∀ p, (poolsOf s s.t.tag)[pool]? = some p →
        (p.free ≠ [] → ∃ t n, exec (.talc h d a) s = .next t ∧ n ∈ p.free ∧
          (let va := p.base + 64 * n
           UniResult e t d true act (BitVec.ofNat 64 va) ∧ t.mem = (zeroSlot s.t.tag va b).mem ∧
           (slotAt s s.t.tag va = some (pool, n) → slotState t s.t.tag va = some (.held s.t.uid)) ∧
           (∀ w, w ≠ va → slotState t s.t.tag w = slotState s s.t.tag w)) ∧
          t.mons = s.mons ∧ t.g.pend.getLast? = some ⟨false, pendKeys e d 2 s.g.runPos⟩ ∧
          SameRegs s.g t.g (opKeys d 2) act ∧ t.g.fflags = s.g.fflags) ∧
        (p.free = [] → ∃ t, exec (.talc h d a) s = .next t ∧
          (obj = 255 → UniResult e t d true act 0xFFFFFFFF ∧ t.mons = s.mons ∧ SameBytes s t) ∧
          (obj ≠ 255 → UniResult e t d true act (BitVec.ofNat 64 (0xFFFFFFFF + 2 ^ 32 * ob.phase)) ∧
            (m ∈ t.mons ∨ (16 ≤ monsUsed s m.core ∧ (getObj t.t (16 * obj)).phase = (ob.phase + 1) % 2 ^ 16))) ∧
          t.fns = s.fns ∧ t.mem = s.mem ∧ t.g.pend.getLast? = some ⟨false, pendKeys e d 2 s.g.runPos⟩ ∧
          SameRegs s.g t.g (opKeys d 2) act ∧ t.g.fflags = s.g.fflags)))

/-- R265, R266, R318: `tsub` of a slot that the team holds, with a record and a handle that pass their checks: the stores and loads of
the group are done and its signature is handed over; with 0xFFFF the slot is parked, with a queue one task joins the ready set,
with a node the record waits there. A slot that the team does not hold, a handle or a record that fails its checks, and a record
that cannot be read are faults. -/
def Claims.TaskSubmitResults : Prop :=
  ∀ h node sc a b s e, Issues (.tsub h node sc a b) s e →
    let x := beginIssue e s
    let va := (srcU s.g true a).toNat % 2 ^ 56
    let hd := (src32 s.g b 0).toNat
    let park := !node && hd == 0xFFFF
    (s.g.active h.toGuard = 0 → ∃ t, exec (.tsub h node sc a b) s = .next t ∧ RegFrame s t [] 0 0) ∧
    (s.g.active h.toGuard ≠ 0 →
      (va % 64 ≠ 0 → exec (.tsub h node sc a b) s = .next (takeFault { cause := cMISALIGN } s)) ∧
      (va % 64 = 0 → slotState s s.t.tag va ≠ some (.held s.t.uid) →
        exec (.tsub h node sc a b) s = .next (takeFault { cause := cTASK } s)) ∧
      (va % 64 = 0 → slotState s s.t.tag va = some (.held s.t.uid) → tsubTarget s node hd va = none →
        exec (.tsub h node sc a b) s = .next (takeFault { cause := cTASK } s)) ∧
      (∀ nd, va % 64 = 0 → slotState s s.t.tag va = some (.held s.t.uid) → tsubTarget s node hd va = some nd →
        (∀ c at_, vBytes x s.t.tag va needR 64 = .error (c, at_) →
          exec (.tsub h node sc a b) s = .next (takeFault { cause := c, va := at_ } s)) ∧
        (∀ raw, vBytes x s.t.tag va needR 64 = .ok raw → vPoison x s.t.tag va 64 = true →
          exec (.tsub h node sc a b) s = .next (takeFault { cause := cECC, va := va } s)) ∧
        (∀ raw, vBytes x s.t.tag va needR 64 = .ok raw → vPoison x s.t.tag va 64 = false →
          (recordOk raw hd park nd = false → exec (.tsub h node sc a b) s = .next (takeFault { cause := cTASK } s)) ∧
          (recordOk raw hd park nd = true → ∃ t, exec (.tsub h node sc a b) s = .next t ∧ t.g.sig = 0 ∧ t.g.unack = 0 ∧
            (∀ p ∈ t.g.pend, p.sfu = true) ∧ SameRegs s.g t.g [] 0 ∧ t.g.fflags = s.g.fflags ∧
            (park = true → slotState t s.t.tag va = some .parked ∧ t.ready = s.ready ∧ SameBytes s t) ∧
            (park = false → slotState t s.t.tag va = some .submitted) ∧
            (park = false → node = false → ∃ w, t.ready = s.ready ++ [w] ∧ w.node = false ∧ w.idx = hd ∧ w.tag = s.t.tag ∧
              w.recs.map (·.slot) = [va]) ∧
            (node = true → AtNode t s.t.tag hd va)))))

/-- R267, R354: `tsig` on a counter takes one from its count at its home station; the group waits for the answer. From 1, the parked
record that the counter names is submitted to its queue, where it passes its checks, and nothing otherwise. A count of 0, a
counter that cannot be read and written, and a poisoned one are faults. -/
def Claims.CounterSignalResults : Prop :=
  ∀ h sc a s e, Issues (.tsig h sc a) s e →
    let va := (srcU s.g true a).toNat % 2 ^ 56
    let b := beginIssue e s
    let bad (c : Nat) : Prop := exec (.tsig h sc a) s = .next (takeFault { cause := c, va := va, write := true } s)
    (s.g.active h.toGuard = 0 → ∃ t, exec (.tsig h sc a) s = .next t ∧ RegFrame s t [] 0 0) ∧
    (s.g.active h.toGuard ≠ 0 → va % 16 ≠ 0 → exec (.tsig h sc a) s = .next (takeFault { cause := cMISALIGN } s)) ∧
    (s.g.active h.toGuard ≠ 0 → va % 16 = 0 →
      (∀ c, xlate b s.t.tag (coreOf s.t s.g) va needRW = .error c → bad c) ∧
      (∀ x, xlate b s.t.tag (coreOf s.t s.g) va needRW = .ok x → gPoison b x 0 = true → bad cECC) ∧
      (∀ x, xlate b s.t.tag (coreOf s.t s.g) va needRW = .ok x → gPoison b x 0 = false → gRead b x 4 = 0 → bad cTASK) ∧
      (∀ x n, xlate b s.t.tag (coreOf s.t s.g) va needRW = .ok x → gPoison b x 0 = false → gRead b x 4 = n + 1 →
        ∃ t, exec (.tsig h sc a) s = .next t ∧ t.g.stat = .port ∧ t.g.unack = 0 ∧ t.g.sig = 0 ∧
        SameRegs s.g t.g [] 0 ∧ t.g.fflags = s.g.fflags ∧
        (n ≠ 0 → t.ready = s.ready ∧ (x.target = 0 → Untraced s → gRead t x 4 = n)) ∧
        (n = 0 →
          let w := counterMerge (gRead b { x with addr := x.addr + 4 } 4) (bindOf s.t (coreOf s.t s.g) sc)
          let u := tlbPut x.ent (gWrite { x with addr := x.addr + 4 } w 4 (gWrite x 0 4 b))
          let r := gRead b { x with addr := x.addr + 8 } 8
          (slotState s s.t.tag r ≠ some .parked → t.ready = s.ready) ∧
          (∀ raw c i, slotState s s.t.tag r = some .parked → poolKindAt s r = some (i, .queue) →
            vBytes u s.t.tag r needR 64 = .ok raw → vPoison u s.t.tag r 64 = false → (getFn s s.t.tag).ctx = some c →
            let q := bits (recQds raw) 0 16
            recordOk raw q true none = true → q < c.queues.length →
            slotState t s.t.tag r = some .submitted ∧ ∃ v, t.ready = s.ready ++ [v] ∧ v.tag = s.t.tag ∧ v.node = false ∧
              v.idx = q ∧ v.recs.map (·.slot) = [r]))))

/-- Together: slot allocation; task submit; counter signal. -/
def Obligations.TaskInstructionResults : Prop := Claims.SlotAllocationResults ∧ Claims.TaskSubmitResults ∧ Claims.CounterSignalResults

/-- R271–R273: `covr` that passes its checks puts one operation of the coverage engine in flight, with its batch of triangles
locked; an empty batch does nothing. -/
def Claims.CoverageIssueResults : Prop :=
  ∀ h a b c obj s e, Issues (.covr h a b c obj) s e →
    let d := (src32 s.g a 0).toNat
    let bt := (src32 s.g b 0).toNat
    let n := (src32 s.g c 0).toNat
    let f (k m : Nat) : Nat := padRead s.t (d + k) m
    let lock : List Rng := [⟨false, false, s.t.uid, bt, bt + 48 * n - 1⟩]
    (s.g.active h.toGuard = 0 → ∃ t, exec (.covr h a b c obj) s = .next t ∧ RegFrame s t [] 0 0) ∧
    (s.g.active h.toGuard ≠ 0 →
      ((d % 32 ≠ 0 ∨ bt % 16 ≠ 0) → exec (.covr h a b c obj) s = .next (takeFault { cause := cMISALIGN } s)) ∧
      (d % 32 = 0 → bt % 16 = 0 → (s.t.desc.pad < d + 32 ∨ (n ≠ 0 ∧ s.t.desc.pad < bt + 48 * n)) →
        exec (.covr h a b c obj) s = .next (takeFault { cause := cPADB } s)) ∧
      (d % 32 = 0 → bt % 16 = 0 → d + 32 ≤ s.t.desc.pad → (n = 0 ∨ bt + 48 * n ≤ s.t.desc.pad) → 16 * s.t.desc.barriers ≤ d →
        (n = 0 ∨ 16 * s.t.desc.barriers ≤ bt) →
        (obj.toNat = 255 ∨ (obj.toNat < s.t.desc.barriers ∧ (getObj s.t (16 * obj.toNat)).valid = true)) →
        covrDescOk s.t d = true → n ≤ 256 → isNode s s.t.tag (f 0 4) = true → (n = 0 ∨ lockCauses s lock = []) →
        padMark s.t d 32 = false → ∃ t, exec (.covr h a b c obj) s = .next t ∧ SameBytes s t ∧ SameRegs s.g t.g [] 0 ∧
          t.g.fflags = s.g.fflags ∧ (n = 0 → RegFrame s t [] 0 0) ∧
          (n ≠ 0 → t.g.lockRes = false ∧ t.g.unack = 0 ∧ ∃ o, t.ops.getLast? = some o ∧ t.ops.length = s.ops.length + 1 ∧
            o.uid = s.nextUid ∧ o.lock = lock ∧ o.bar = (if obj.toNat = 255 then none else some (16 * obj.toNat)) ∧
            o.kind = .covr (f 0 4) (f 4 2) (f 6 2) (f 8 2) (f 0xA 2) (f 0xC 4) (f 0x10 8) (f 0x18 2) (f 0x1A 2) bt n)))

/-- R274–R277: `bqry` that passes its checks starts one query in a free slot of the core and gives D its handle, or 0xFFFFFFFF with
none free. `bres` gives D the status word of the query that the handle names, 1 << 30 where there is none. -/
def Claims.BeamQueryResults : Prop :=
  (∀ h d a b c node s e, Issues (.bqry h d a b c node) s e →
    let x := beginIssue e s
    let act := s.g.active h.toGuard
    let bad := bqryFault x (src32 s.g a 0).toNat ((srcU s.g true b).toNat % 2 ^ 56) (nameOf s.g c) node.toNat
    let core := coreOf s.t s.g
    (act = 0 → ∃ t, exec (.bqry h d a b c node) s = .next t ∧ RegFrame s t [] 0 0) ∧
    (∀ f, act ≠ 0 → bad = some f → exec (.bqry h d a b c node) s = .next (takeFault f s)) ∧
    (act ≠ 0 → bad = none → freeQuerySlot x core = none → ∃ t, exec (.bqry h d a b c node) s = .next t ∧
      UniResult e t d false act 0xFFFFFFFF ∧ RegFrame s t (destKeys e d 1 act) act 0) ∧
    (∀ k, act ≠ 0 → bad = none → freeQuerySlot x core = some k → ∃ t, exec (.bqry h d a b c node) s = .next t ∧
      UniResult e t d false act (BitVec.ofNat 64 (core % 12 * 2 ^ 22 + (peek s.qseq (64 * core + k)).toNat * 2 ^ 6 + k)) ∧
      (∃ q ∈ t.queries, q.uid = s.nextUid ∧ q.core = core ∧ q.slot = k ∧ q.seq = peek s.qseq (64 * core + k) ∧
        q.grp = s.g.uid ∧ q.team = s.t.uid ∧ q.node = node.toNat ∧ q.root = (srcU s.g true b).toNat % 2 ^ 56) ∧
      peek t.qseq (64 * core + k) = peek s.qseq (64 * core + k) + 1 ∧
      SameRegs s.g t.g (destKeys e d 1 act) act ∧ t.g.fflags = s.g.fflags)) ∧
  (∀ h d a s e, Issues (.bres h d a) s e →
    let act := s.g.active h.toGuard
    let hd := (src32 s.g a 0).toNat
    let core := coreOf s.t s.g / 12 * 12 + bits hd 22 4
    (act = 0 → ∃ t, exec (.bres h d a) s = .next t ∧ RegFrame s t [] 0 0) ∧
    (act ≠ 0 → (bits hd 26 6 ≠ 0 ∨ 12 ≤ bits hd 22 4) →
      exec (.bres h d a) s = .next (takeFault { cause := cILLOPERAND, opf := 2 } s)) ∧
    (act ≠ 0 → bits hd 26 6 = 0 → bits hd 22 4 < 12 → ∃ t, exec (.bres h d a) s = .next t ∧
      UniResult e t d false act (BitVec.ofNat 64
        (match s.queries.find? fun q => q.core == core && q.slot == bits hd 0 6 && q.seq.toNat == bits hd 6 16 with
         | some q => q.word
         | none => 2 ^ 30)) ∧
      RegFrame s t (destKeys e d 1 act) act 0))

/-- Together: coverage issue; beam query. -/
def Obligations.CoverageAndBeamIssueResults : Prop := Claims.CoverageIssueResults ∧ Claims.BeamQueryResults

/-- R35, R187, R189, R222–R230: `smp`. An address that is not aligned, a descriptor that cannot be read or breaks its rules,
coordinates outside the window or marked, and a texel that cannot be read are faults. Otherwise it completes: the channels of
MASK stand in the registers of D from the first on, each the weighted sum of the lane's taps; the registers of D wait in the
scoreboard, and no other register and no byte changes. -/
def Claims.SampleResults : Prop :=
  ∀ h mask mode d a b c ou ov ow s e, Issues (.smp h mask mode d a b c ou ov ow) s e →
    let x := beginIssue e s
    let act := s.g.active h.toGuard
    let ta := (srcU s.g true a).toNat % 2 ^ 56
    let sa := (srcU s.g true c).toNat % 2 ^ 56
    let n := (channels mask).length
    let fails (f : FaultInfo) : Prop := exec (.smp h mask mode d a b c ou ov ow) s = .next (takeFault f s)
    (act = 0 → ∃ t, exec (.smp h mask mode d a b c ou ov ow) s = .next t ∧ RegFrame s t [] 0 0) ∧
    (act ≠ 0 → (ta % 32 ≠ 0 ∨ sa % 16 ≠ 0) → fails { cause := cMISALIGN }) ∧
    (act ≠ 0 → ta % 32 = 0 → sa % 16 = 0 →
      (∀ f g, readDescr x ta 32 = .error f → readDescr x sa 16 = .error g → fails (firstFault f g)) ∧
      (∀ f g, readDescr x ta 32 = .error f → readDescr x sa 16 = .ok g → fails f) ∧
      (∀ f g, readDescr x ta 32 = .ok g → readDescr x sa 16 = .error f → fails f) ∧
      (∀ td sd, readDescr x ta 32 = .ok td → readDescr x sa 16 = .ok sd →
        (Tex.parse td.1 = none → fails { cause := cILLOPERAND, opf := descrOpf none sd.1 }) ∧
        (∀ t, Tex.parse td.1 = some t → Samp.parse sd.1 t = none → fails { cause := cILLOPERAND, opf := 8 }) ∧
        (∀ t sm, Tex.parse td.1 = some t → Samp.parse sd.1 t = some sm →
          let nc := t.coords + (if mode = .implicit then 0 else 1)
          let lanes := if mode = .lod then act else quadLanes act
          let tap (l : Nat) := laneTaps t sm mode (coordAt s.g b) [ou.toInt, ov.toInt, ow.toInt] l (64 * x.fresh)
          let rs := (lanesOf act).flatMap fun l => tapSpots x t l (tap l)
          (inWindow s.t s.g b nc = false → fails { cause := cILLOPERAND, opf := 4 }) ∧
          (∀ l, inWindow s.t s.g b nc = true → coordMark s.g b nc lanes = some l → fails { cause := cECC, lane := l }) ∧
          (∀ f, inWindow s.t s.g b nc = true → coordMark s.g b nc lanes = none → laneFault false rs = some f → fails f) ∧
          (inWindow s.t s.g b nc = true → coordMark s.g b nc lanes = none → laneFault false rs = none →
            ∃ u, exec (.smp h mask mode d a b c ou ov ow) s = .next u ∧
              LoadedIn e u d n act (fun l =>
                (packWords ((channels mask).map fun k => tapsVal x t sm (tap l) l k), tapsMark x t (tap l))) ∧
              SameRegs s.g u.g (destKeys e d n act) act ∧ u.g.fflags = s.g.fflags ∧
              u.g.pend.getLast? = some ⟨false, pendKeys e d n s.g.runPos⟩ ∧
              (LinksSound s (laneSpots rs) → Untraced s → SameBytes s u)))))

/-- R35, R187, R189, R222–R225, R231: `tld`, with the faults of `smp` for its one descriptor. It gives the texel that the integer
coordinates name, and 0 outside its level. -/
def Claims.TexelLoadResults : Prop :=
  ∀ h mask d a b s e, Issues (.tld h mask d a b) s e →
    let x := beginIssue e s
    let act := s.g.active h.toGuard
    let ta := (srcU s.g true a).toNat % 2 ^ 56
    let n := (channels mask).length
    let fails (f : FaultInfo) : Prop := exec (.tld h mask d a b) s = .next (takeFault f s)
    (act = 0 → ∃ t, exec (.tld h mask d a b) s = .next t ∧ RegFrame s t [] 0 0) ∧
    (act ≠ 0 → ta % 32 ≠ 0 → fails { cause := cMISALIGN }) ∧
    (∀ f, act ≠ 0 → ta % 32 = 0 → readDescr x ta 32 = .error f → fails f) ∧
    (∀ td, act ≠ 0 → ta % 32 = 0 → readDescr x ta 32 = .ok td → Tex.parse td.1 = none →
      fails { cause := cILLOPERAND, opf := 2 }) ∧
    (∀ td t, act ≠ 0 → ta % 32 = 0 → readDescr x ta 32 = .ok td → Tex.parse td.1 = some t →
      let c (k l : Nat) : Nat := coordAt s.g b k l
      let at_ (l : Nat) : Texel := ⟨c t.coords l, c 0 l, if 2 ≤ t.coords then c 1 l else 0, if 3 ≤ t.coords then c 2 l else 0⟩
      let inside (l : Nat) : Bool := decide ((at_ l).lv < t.levels) && decide ((at_ l).x < t.size (at_ l).lv 0) &&
        decide ((at_ l).y < t.size (at_ l).lv 1) && decide ((at_ l).z < t.slices (at_ l).lv)
      let rs := (lanesOf act).flatMap fun l => texSpots x t l (if inside l then [at_ l] else [])
      let nc := t.coords + 1
      (inWindow s.t s.g b nc = false → fails { cause := cILLOPERAND, opf := 4 }) ∧
      (∀ l, inWindow s.t s.g b nc = true → coordMark s.g b nc act = some l → fails { cause := cECC, lane := l }) ∧
      (∀ f, inWindow s.t s.g b nc = true → coordMark s.g b nc act = none → laneFault false rs = some f → fails f) ∧
      (inWindow s.t s.g b nc = true → coordMark s.g b nc act = none → laneFault false rs = none →
        ∃ u, exec (.tld h mask d a b) s = .next u ∧
          LoadedIn e u d n act (fun l => (packWords ((channels mask).map fun k =>
            if inside l then (t.value (texBytes x t (at_ l)).1 (at_ l) k).pattern else 0),
            inside l && (texBytes x t (at_ l)).2)) ∧
          SameRegs s.g u.g (destKeys e d n act) act ∧ u.g.fflags = s.g.fflags ∧
          u.g.pend.getLast? = some ⟨false, pendKeys e d n s.g.runPos⟩ ∧
          (LinksSound s (laneSpots rs) → Untraced s → SameBytes s u)))

/-- Together: sample; texel load. -/
def Obligations.TexelResults : Prop := Claims.SampleResults ∧ Claims.TexelLoadResults

/-- R278, R279, R408: `ctrd` gives the pair D the counter that the selector in A names, as it stands when the instruction has been
counted. `mark` counts itself, changes no register, and writes its record where the trace unit of the cluster records it. -/
def Obligations.ObservationResults : Prop :=
  (∀ h d a s e, Issues (.ctrd h d a) s e →
    let act := s.g.active h.toGuard
    (act = 0 → ∃ t, exec (.ctrd h d a) s = .next t ∧ RegFrame s t [] 0 0) ∧
    (act ≠ 0 → counterAt (beginIssue e s) (src32 s.g a 0).toNat = none →
      exec (.ctrd h d a) s = .next (takeFault { cause := cILLOPERAND, opf := 2 } s)) ∧
    (∀ v, act ≠ 0 → counterAt (beginIssue e s) (src32 s.g a 0).toNat = some v → ∃ t, exec (.ctrd h d a) s = .next t ∧
      UniResult e t d true act v ∧ RegFrame s t (destKeys e d 2 act) act 0)) ∧
  (∀ h a b s e, Issues (.mark h a b) s e →
    let act := s.g.active h.toGuard
    let x := countMine 15 1 (beginIssue e s)
    let cl := clusterOf (coreOf s.t s.g)
    let u := trTag s s.t.tag cl
    let ty := 0x40 + (src32 s.g a 0).toNat % 16
    (act = 0 → ∃ t, exec (.mark h a b) s = .next t ∧ RegFrame s t [] 0 0) ∧
    (act ≠ 0 → ∃ t, exec (.mark h a b) s = .next t ∧ SameRegs s.g t.g [] 0 ∧ t.g.fflags = s.g.fflags ∧ SameRest s.g t.g ∧
      (trEnabled x u cl ty = false → RegFrame s t [] 0 0) ∧
      (∀ y, trEnabled x u cl ty = true → peek s.trLost (64 * u + cl) = 0 →
        trStore u cl (trBytes ty (markPc s.g) (myGid s) (src32 s.g b 0) act s.tick) x = some y → t.mem = y.mem)))

/-! ### Exceptions (spec/01 R31–R41, spec/05 R143–R146, spec/03 R73) -/

/-- R73, R189: what the checks at issue find, in their order, an instruction raises, whatever it is, and nothing else happens:
ILLEGAL_OPC for OPC and SUB, ILLEGAL_ENC for its fields, ILLEGAL_OPERAND with every failing specifier, then ECC_UE for a
marked element. -/
def Obligations.IssueChecks : Prop :=
  (∀ i e s f, toEnc i = some e → issueFault e s = some f → exec i s = .next (takeFault f s)) ∧
  (∀ e s, rowOf e.w.opc = none → issueFault e s = some { cause := cILLOPC }) ∧
  (∀ e s r, rowOf e.w.opc = some r →
    (e.subOk r = false → issueFault e s = some { cause := cILLOPC }) ∧
    (e.subOk r = true → (e.encOk r = false ∨ (s.g.runPos = 3 ∧ stays e = true)) → issueFault e s = some { cause := cILLENC }) ∧
    (e.subOk r = true → e.encOk r = true → ¬ (s.g.runPos = 3 ∧ stays e = true) → s.g.shadowed = true → r.shadow = false →
      issueFault e s = some { cause := cILLOPERAND }) ∧
    (e.subOk r = true → e.encOk r = true → ¬ (s.g.runPos = 3 ∧ stays e = true) → (s.g.shadowed = true → r.shadow = true) →
      let opf := e.staticOpf r ||| e.roleOpf ||| dynOpf s.t s.g e r
      (opf ≠ 0 → issueFault e s = some { cause := cILLOPERAND, opf := opf }) ∧
      (opf = 0 → ∀ l, markFault s.g e r = some l → issueFault e s = some { cause := cECC, lane := l }) ∧
      (opf = 0 → markFault s.g e r = none → issueFault e s = none)))

/-- R33–R36, R143: a synchronous fault with a trap handler, outside a shadow context. SR_TCAUSE, SR_TINFO, SR_TPC (the start of
the run, or where the fault lands) and SR_TEM are written, EM is SR_TEM, the shadow registers read zero with an empty
divergence stack, the PC is the handler's entry, and the group's own registers, flags, mode and live lanes stay. -/
def Obligations.FaultEntersHandler : Prop :=
  ∀ f s, f.cause ≠ cPAGE → s.t.desc.handler ≠ 0 → s.g.sh = none → ∃ t, takeFault f s = t ∧
    t.g.tcause = BitVec.ofNat 32 ((if f.cause = cSWTRAP then f.code % 2 ^ 16 * 2 ^ 16 else 0) + f.cause) ∧
    t.g.tinfo = BitVec.ofNat 32 (f.opf.toNat * 2 ^ 16 + f.lane % 64 * 2 ^ 8 +
      (match f.land with | some l => l.2 | none => s.g.runPos) % 4) ∧
    t.g.tpc = (match f.land with | some l => l.1 | none => if s.g.runPos = 0 then s.g.pc else s.g.runStart) &&& ~~~3 ∧
    t.g.tem = s.g.em &&& s.g.all ∧ t.g.em = t.g.tem ∧
    t.g.sh = some ⟨.trap, Bank.empty⟩ ∧ t.g.pc = normPc t s.t.desc.handler ∧ t.g.stat = .running ∧ t.g.runPos = 0 ∧
    t.g.lat = [] ∧ t.g.regs = s.g.regs ∧ t.g.o = s.g.o ∧ t.g.fmode = s.g.fmode ∧ t.g.fflags = s.g.fflags ∧
    t.g.live = s.g.live ∧ t.g.uid = s.g.uid ∧ (f.cause ≠ cECC → s.obs = [] → SameBytes s t)

/-- R33, R36, R38, R135: a synchronous fault with no handler, or in a shadow context. The registers record it, with INH in a
shadow context, and the group stops, no lane live; but BREAKPOINT and WATCHPOINT outside one halt the group where a
debugger is attached. -/
def Claims.FaultStopsGroup : Prop :=
  ∀ f s, f.cause ≠ cPAGE → (s.t.desc.handler = 0 ∨ s.g.shadowed = true) →
    let debug := s.g.shadowed = false ∧ (f.cause = cBRK ∨ f.cause = cWATCH) ∧
      attached s s.t.tag (clusterOf (coreOf s.t s.g)) = true
    (¬ debug → s.t.latches = [] → ∃ t, takeFault f s = t ∧ t.g.uid = s.g.uid ∧ t.g.stat = .stopped ∧ t.g.live = 0 ∧
      t.g.tcause = BitVec.ofNat 32 ((if f.cause = cSWTRAP then f.code % 2 ^ 16 * 2 ^ 16 else 0) + f.cause) ∧
      t.g.tinfo = BitVec.ofNat 32 (f.opf.toNat * 2 ^ 16 + f.lane % 64 * 2 ^ 8 + (if s.g.shadowed then 2 ^ 7 else 0) +
        faultPos s.g f % 4) ∧
      t.g.tpc = faultPc s.g f ∧ t.g.tem = s.g.em &&& s.g.all) ∧
    (debug → ∃ t, takeFault f s = t ∧ t.g.uid = s.g.uid ∧ t.g.halted = true ∧ t.g.stat = s.g.stat ∧
      t.g.pc = faultPc s.g f ∧ t.g.tpc = faultPc s.g f ∧ t.g.runPos = 0 ∧ t.g.live = s.g.live ∧ t.g.sh = none)

/-- R33, R124, R302: PAGE_FAULT parks the group at the start of its run, with or without a handler; its registers stay. SR_TPC, SR_TEM,
SR_TCAUSE and SR_TINFO record it outside a shadow context; inside one they stay (log 86). -/
def Claims.PageFaultParks : Prop :=
  ∀ f s, f.cause = cPAGE → ∃ t, takeFault f s = t ∧ t.g.stat = .parked ∧
    t.g.pc = (if s.g.runPos = 0 then s.g.pc else s.g.runStart) ∧ t.g.runPos = 0 ∧ t.g.faultVa = BitVec.ofNat 56 f.va ∧
    t.g.regs = s.g.regs ∧ t.g.sh = s.g.sh ∧ t.g.em = s.g.em ∧ t.g.live = s.g.live ∧ t.g.fmode = s.g.fmode ∧
    t.g.fflags = s.g.fflags ∧
    (s.g.shadowed = true → t.g.tpc = s.g.tpc ∧ t.g.tem = s.g.tem ∧ t.g.tcause = s.g.tcause ∧ t.g.tinfo = s.g.tinfo) ∧
    (s.g.shadowed = false → t.g.tpc = faultPc s.g f ∧ t.g.tem = s.g.em &&& s.g.all ∧ t.g.tcause = BitVec.ofNat 32 cPAGE ∧
      t.g.tinfo = BitVec.ofNat 32 (f.opf.toNat * 2 ^ 16 + f.lane % 64 * 2 ^ 8 + faultPos s.g f % 4))

/-- Together: fault stops group; page fault parks. -/
def Obligations.FaultWithoutHandlerResults : Prop := Claims.FaultStopsGroup ∧ Claims.PageFaultParks

/-! ### The step (spec/02 R42–R47, spec/01 R32) -/

/-- A step runs the instruction decoded at the PC of the group in focus, when that group is the choice of its scheduler and nothing
comes before (`ready`): the words of one fetch block, as many as LEN says. What `exec` does with it includes moving past its
words; the decision makes the groups of the scheduler that yielded eligible again, and changes nothing else. -/
def Obligations.StepRunsDecoded : Prop :=
  ∀ s w0 w1 w2 w3 i, s.agenda = [] → ready s = true → fetchAt s 0 = .ok w0 → isPadLen w0 = false →
    s.g.pc.toNat % 32 + 4 * ((w0.extractLsb' 0 2 : BitVec 2).toNat + 2) ≤ 32 → fetchAt s 1 = .ok w1 →
    (if 0 < (w0.extractLsb' 0 2 : BitVec 2).toNat then fetchAt s 2 = .ok w2 else w2 = 0) →
    (if 1 < (w0.extractLsb' 0 2 : BitVec 2).toNat then fetchAt s 3 = .ok w3 else w3 = 0) →
    decode w0 w1 w2 w3 = .ok i →
    step s = exec i (takeTurn s) ∧ ((mates s).all (fun p => !p.1.yielded) = true → step s = exec i s) ∧
      takeTurn s = { s with gs := (takeTurn s).gs } ∧
      (takeTurn s).gs.map (fun x => { x with yielded := false }) = s.gs.map (fun x => { x with yielded := false })

/-- R43, R45, R71, R73, R413: at the PC of such a group, a word of LEN 3 or of no row is run as UNASSIGNED_OPC, and an instruction
that leaves its fetch block raises FETCH_SPLIT, before any other check; the fetch at address 0 that a match entry of handler 0
leads to faults, with PERM (log 94). -/
def Obligations.FetchFaults : Prop :=
  ∀ s, s.agenda = [] → ready s = true →
    (∀ w0, fetchAt s 0 = .ok w0 →
      (isPadLen w0 = true → step s = exec (.unassignedOpc w0) (takeTurn s)) ∧
      (isPadLen w0 = false → 32 < s.g.pc.toNat % 32 + 4 * ((w0.extractLsb' 0 2 : BitVec 2).toNat + 2) →
        step s = .next (takeFault { cause := cSPLIT } (takeTurn s)))) ∧
    (s.g.pc = 0 → s.g.sh.map (·.kind) = some .pcMatch →
      step s = .next (takeFault { cause := cPERM, fetch := true } (takeTurn s)))

/-- R21, R32, R40, R133, R210, R283, R286, R412, R416: what comes before fetch at a run boundary of the group in focus. A stop that is
pending lands; a path whose phase has passed resumes; the decision that `yield` misses goes by; while a run of another group of
the scheduler goes on, or an eligible one comes first, it waits; the lock entry that a save released is taken again; a hit is
delivered; a match entry fires. With nothing that can move time passes. -/
def Obligations.StepBetweenRuns : Prop :=
  ∀ s, s.agenda = [] →
    (mayMove s = false → step s = .next (passTime 1 s)) ∧
    (mayMove s = true → stopReady s.g = true → step s = .next (landStop s)) ∧
    (mayMove s = true → stopReady s.g = false →
      (∀ w, s.g.stat = .waiting w →
        (∀ t, wake s = some t → step s = .next t) ∧ (wake s = none → step s = .next (passTime 1 s))) ∧
      (s.g.stat = .running →
        (s.g.yielded = true → s.g.runPos = 0 → step s = .next { s with g := { s.g with yielded := false } }) ∧
        (¬ (s.g.yielded = true ∧ s.g.runPos = 0) →
          (s.g.runPos = 0 → (∃ p ∈ mates s, midRun p = true ∨ (eligible s p.1 p.2 = true ∧ comesFirst p (s.g, s.t) = true)) →
            step s = .next (passTime 1 s)) ∧
          (myTurn s = true → s.g.lockLost = true →
            step s = .next (if (relock s.g.uid s).g.lockLost then passTime 1 s else relock s.g.uid s)) ∧
          (myTurn s = true → s.g.lockLost = false →
            (hitReady s.g = true → step s = .next (deliverHit s)) ∧
            (∀ k, hitReady s.g = false → pcMatch s = some k → step s = .next (fireMatch k s))))))

/-- Every instruction and every event answers a next state, and a step answers one unless the agenda, which is the model's own
(log 1), names a group that does not exist or an instruction as an event. -/
def Obligations.EveryStepGoesOn : Prop :=
  (∀ i s, ∃ t, exec i s = .next t) ∧
  (∀ s, (∃ t, step s = .next t) ∨
    (step s = .fault .badAgenda ∧ ((∃ u rest, s.agenda = .issue u :: rest ∧ findGroup s u = none) ∨
      ∃ i rest, s.agenda = .event i :: rest ∧ isEvent i = false)))

/-- R40, R411, R412, R414: a match entry that fires counts event 12, enters a shadow context of its own kind at the handler that the
entry names, with SR_TPC at the matched PC; SR_TCAUSE and SR_TINFO stay. -/
def Obligations.MatchEntersHandler : Prop :=
  ∀ k s, ∃ t, fireMatch k s = t ∧ t.g.sh = some ⟨.pcMatch, Bank.empty⟩ ∧ t.g.tpc = s.g.pc ∧ t.g.tem = s.g.em &&& s.g.all ∧
    t.g.em = t.g.tem ∧ t.g.tcause = s.g.tcause ∧ t.g.tinfo = s.g.tinfo ∧ t.g.regs = s.g.regs ∧ t.g.runPos = 0 ∧
    t.g.fflags = s.g.fflags ∧ t.g.fmode = s.g.fmode ∧
    (let entry : VA := BitVec.ofNat 56 (bits (peek s.obs (obsKey s.t.tag (coreOf s.t s.g / 12)
      (0x2000 + 0x800 * (coreOf s.t s.g % 12) + 0x20 * k + 0x10))).toNat 5 51 * 32)
     t.g.pc = if entry = 0 then 0 else normPc t entry) ∧
    peek t.evc (2 ^ 16 * s.t.tag + 16 * coreOf s.t s.g + 12) = peek s.evc (2 ^ 16 * s.t.tag + 16 * coreOf s.t s.g + 12) + 1

/-! ### Encoding (spec/02 R42–R58, spec/03 R71–R91) -/

/-- Words written out from the encodings of the spec decode to what they stand for (R149, R162 and R194 print these words). -/
def Obligations.WordsDecode : Prop :=
  decodeTableWord 64 0x0B03644090497110 =
    some (.gadd ⟨⟨7, false⟩, false, false⟩ .n32 true (.g 4) (.g 2) (.imm 100)) ∧
  decodeTableWord 64 0x900C020040407430 =
    some (.fma ⟨⟨7, false⟩, false, false⟩ .f32 false .rz false true (.v 4) (.v 1) (.v 2) (.v 3)) ∧
  decodeTableWord 64 0x4C20014080417700 = some (.ld ⟨⟨7, false⟩, false, false⟩ .pd .dflt .b32 (.v 4) (.g 2) (.v 1) (.short 8))

/-- Decoding what the encoder gives for a well-formed instruction gives the instruction back, with every operand at every value its
encoding admits (R42–R58). -/
def Obligations.EncodeDecode : Prop :=
  ∀ i, wellFormed i = true → ∃ ws, encode i = some ws ∧
    decode (ws.getD 0 0) (ws.getD 1 0) (ws.getD 2 0) (ws.getD 3 0) = .ok i

/-! ### Events on one group (spec/01 R32, spec/06 R155, spec/07 R188–R212, spec/11 R318, spec/17 R411–R416) -/

/-- R155, R188, R190, R267, R318: results retire, stores are acknowledged and a port answers; of the group nothing else changes, of the
device nothing at all. -/
def Claims.RetirementResults : Prop :=
  (∀ u k s x p, findGroup s u = some x → (x.pend.filter (!·.sfu))[k]? = some p → ∃ t, exec (.loadRetire u k) s = .next t ∧
    findGroup t u = some { x with pend := x.pend.erase p } ∧ t = { s with g := t.g, gs := t.gs }) ∧
  (∀ u s x p, findGroup s u = some x → x.pend.find? (·.sfu) = some p → ∃ t, exec (.sfuRetire u) s = .next t ∧
    findGroup t u = some { x with pend := x.pend.erase p } ∧ t = { s with g := t.g, gs := t.gs }) ∧
  (∀ u s x, findGroup s u = some x → 0 < x.unack → ∃ t, exec (.storeAcknowledge u) s = .next t ∧
    findGroup t u = some { x with unack := x.unack - 1 } ∧ t = { s with g := t.g, gs := t.gs }) ∧
  (∀ u s x, findGroup s u = some x → x.stat = .port → ∃ t, exec (.portAnswer u) s = .next t ∧
    findGroup t u = some { x with stat := .running } ∧ t = { s with g := t.g, gs := t.gs })

/-- R32, R205, R209, R210, R212, R411, R412, R416: what comes about at a group between its instructions. An external interrupt waits
until it lands; a stop lands at a run boundary and halts the group, ends it or lets it go on; a match entry fires and a hit is
delivered; a path whose phase has passed goes on behind its `waitp`, with the lock reservation where it waited for one; and a
watched line completes the phase of its monitor's object. -/
def Claims.BoundaryEventResults : Prop :=
  (∀ u s x, findGroup s u = some x → x.stop = none → x.over = false → ∃ t, exec (.externalInterrupt u) s = .next t ∧
    findGroup t u = some { x with stop := some .external } ∧ t = { s with g := t.g, gs := t.gs }) ∧
  (∀ u s, let f := focus u s
    f.g.uid = u → f.g.halted = false → f.t.resid = .resident →
    (f.g.over = false → stopReady f.g = true →
      (f.g.stop = some .external → ∃ t, exec (.asyncStopLands u) s = .next t ∧ t.g.stop = none ∧ t = { f with g := t.g }) ∧
      ((f.g.stop = some .halt ∨ f.g.stop = some .stepped) → ∃ t, exec (.asyncStopLands u) s = .next t ∧ t.g.halted = true ∧
        t.g.stop = none ∧ t.g.pc = f.g.pc ∧ t.g.regs = f.g.regs ∧ t.g.uid = u ∧ (f.g.shadowed = false → f.g.stat ≠ .parked →
          t.g.tpc = f.g.pc &&& ~~~3 ∧ t.g.tem = f.g.em &&& f.g.all ∧ t.g.tinfo = 0)) ∧
      (f.g.stop = some .watchdog → f.t.latches = [] → ∃ t, exec (.asyncStopLands u) s = .next t ∧ t.g.stat = .stopped ∧
        t.g.live = 0 ∧ t.g.tcause = BitVec.ofNat 32 cWDOG ∧ t.g.tpc = f.g.pc &&& ~~~3 ∧ t.g.uid = u)) ∧
    (∀ k, stopReady f.g = false → hitReady f.g = false → pcMatch f = some k →
      exec (.pcMatchFire u) s = .next (fireMatch k f)) ∧
    (∀ h, hitReady f.g = true → f.g.hits.find? (·.2 == 0) = some h → exec (.watchpointDelivery u) s =
      .next (takeFault { cause := cWATCH, land := some (f.g.pc, h.1) }
        { f with g := { f.g with hits := f.g.hits.filter (·.2 != 0) } }))) ∧
  (∀ u s w, let f := focus u s
    f.g.uid = u → f.t.resid = .resident → f.g.stat = .waiting w → waitPassed f f.g w = true → w.role = none →
    (∀ d pc em v, f.g.bank.stk.head? = some d → d.other = .waiting pc em v → em = 0 ∨ waitPassed f f.g v = false) →
    (∀ d, f.g.bank.stk.head? = some d → normPc f (f.g.pc + BitVec.ofNat 56 w.len) ≠ d.join ∧
      normPc f (f.g.pc + BitVec.ofNat 56 w.len) ≠ normPc f d.join) →
    (f.g.stop ≠ some .preempt → ∃ t, exec (.waitpWake u) s = .next t ∧ t.g.stat = .running ∧ t.g.runPos = 0 ∧
      t.g.pc = normPc f (f.g.pc + BitVec.ofNat 56 w.len) ∧ t.g.em = f.g.em ∧ t.g.regs = f.g.regs) ∧
    (w.obj = objLock → ∃ t, exec (.rangeLockEntryFree u) s = .next t ∧ t.g.stat = .running ∧ t.g.lockRes = true ∧
      t.g.pc = normPc f (f.g.pc + BitVec.ofNat 56 w.len) ∧ t.g.em = f.g.em ∧ t.g.regs = f.g.regs)) ∧
  (∀ core k s m p, (s.mons.filter fun m => m.core == core && m.watch.isSome)[k]? = some m →
    (s.mons.filter (· == m)).length = 1 → findTeam s m.team = some p → (getObj p m.obj).valid = true →
    ∃ t, exec (.watchMonitorComplete core k) s = .next t ∧ m ∉ t.mons ∧ (∀ n, n ≠ m → (n ∈ t.mons ↔ n ∈ s.mons)) ∧
      ∃ q, findTeam t m.team = some q ∧ (getObj q m.obj).phase = ((getObj p m.obj).phase + 1) % 2 ^ 16 ∧
        (getObj q m.obj).cb = 0 ∧ (getObj q m.obj).carr = 0)

/-- Together: retirement; boundary event. -/
def Obligations.GroupEventResults : Prop := Claims.RetirementResults ∧ Claims.BoundaryEventResults

/-! ### Engines at work (spec/07 R217–R220, spec/08 R243, R249–R257, spec/09 R273, spec/13 R365–R367) -/

/-- R217, R218, R253: the next byte of a copy that translates, is not poisoned and may move stands at its destination, in either
direction; that of a multicast at every target whose seat is still the one named; the next row of `zld` in the tile. A copy
whose next byte faults stops with its cause. More bytes land one after the other. -/
def Obligations.LandingResults : Prop :=
  (∀ op s o out pd gl len rows gs ps p, findOp s op = some o → o.cause = 0 → padHeld s o.team = false →
    o.kind = .acp out pd gl len rows gs ps → o.progress < len * rows → findTeam s o.team = some p →
    let va := (rowGlob gl gs (o.progress / len) + o.progress % len) % 2 ^ 56
    let off := pd + o.progress / len * ps + o.progress % len
    (∀ x, out = false → xlate s o.tag engUnit va needR = .ok x → gPoison s x 0 = false →
      ∃ t q r, exec (.engineBytesLand op 1) s = .next t ∧ findTeam t o.team = some q ∧ peek q.pad off = gByte s x 0 ∧
        findOp t op = some r ∧ r.progress = o.progress + 1 ∧ r.landed = o.landed + 1 ∧ r.cause = 0) ∧
    (∀ x, out = true → xlate s o.tag engUnit va needW = .ok x → x.target = 0 → padMark p off 1 = false → UntracedFor s o.tag →
      ∃ t r, exec (.engineBytesLand op 1) s = .next t ∧ peek t.mem.hbm x.addr = peek p.pad off ∧
        findOp t op = some r ∧ r.progress = o.progress + 1 ∧ r.landed = o.landed + 1 ∧ r.cause = 0) ∧
    (∀ c, xlate s o.tag engUnit va (if out then needW else needR) = .error c →
      ∃ t r, exec (.engineBytesLand op 1) s = .next t ∧ findOp t op = some r ∧ r.cause = c ∧ r.faultVa = va ∧
        r.progress = o.progress ∧ SameBytes s t)) ∧
  (∀ op s o pd len ts p, findOp s op = some o → o.cause = 0 → padHeld s o.team = false → o.kind = .amc pd len ts →
    o.progress < len → (∀ x ∈ ts, padHeld s x.2.1 = false) → findTeam s o.team = some p → padMark p (pd + o.progress) 1 = false →
    ∃ t r, exec (.engineBytesLand op 1) s = .next t ∧ findOp t op = some r ∧ r.progress = o.progress + 1 ∧
      r.landed + r.dropped = o.landed + o.dropped + ts.length ∧
      ∀ x ∈ ts, ∀ q, findTeam s x.2.1 = some q → (peek s.gens (64 * x.1 + q.seat)).toNat = x.2.2 → q.lives = true →
        ∃ q', findTeam t x.2.1 = some q' ∧ peek q'.pad (pd + o.progress) = peek p.pad (pd + o.progress)) ∧
  (∀ op s o v pd r p z, findOp s op = some o → o.cause = 0 → padHeld s o.team = false → o.kind = .zld v pd →
    o.progress < 64 → o.tileRef = some r → findTeam s o.team = some p → padMark p (pd + 256 * o.progress) 256 = false →
    getTile s r = some z → ∃ t y q, exec (.engineBytesLand op 1) s = .next t ∧ getTile t r = some y ∧
      (∀ n, n < 64 → peek y.z (64 * o.progress + n) = BitVec.ofNat 32 (padRead p (pd + 256 * o.progress + 4 * n) 4)) ∧
      findOp t op = some q ∧ q.progress = o.progress + 1) ∧
  (∀ op n s o, findOp s op = some o → exec (.engineBytesLand op n) s =
    .next ((List.range n).foldl (fun s _ => landOne op s) (touchWdog o.tag s)))

/-- R219, R220, R243, R249, R253, R257, R258: an operation that has done all its bytes or rows, or has stopped, completes: it leaves
the machine, a copy or multicast with its record and its credits, a row transfer with its progress in its group; a matrix
operation gives its tile the result. -/
def Obligations.CompletionResults : Prop :=
  (∀ op s o out pd gl len rows gs ps p, findOp s op = some o → o.kind = .acp out pd gl len rows gs ps →
    (o.cause = 0 → o.progress = len * rows) → padHeld s o.team = false → findTeam s o.team = some p →
    ∃ t, exec (.acpCompletion op) s = .next t ∧ Completes s t o p (len * rows)) ∧
  (∀ op s o pd len ts p, findOp s op = some o → o.kind = .amc pd len ts → (o.cause = 0 → o.progress = len) →
    padHeld s o.team = false → findTeam s o.team = some p → ∃ t, exec (.amcCompletion op) s = .next t ∧
      t.ops = s.ops.filter (·.uid != op) ∧
      ((∀ b r, o.bar = some b → o.crec = some r → b + 16 ≤ r ∨ r + 16 ≤ b) → s.mons = [] →
        (∀ r, o.crec = some r → ∃ q, findTeam t o.team = some q ∧ padRead q r 16 = recordOf o) ∧
        ∀ b x q, o.bar = some b → x ∈ ts → (ts.filter (·.2.1 == x.2.1)).length = 1 → findTeam s x.2.1 = some q →
          (peek s.gens (64 * x.1 + q.seat)).toNat = x.2.2 → creditable q b = true → padHeld s x.2.1 = false →
          ∃ q', findTeam t x.2.1 = some q' ∧ getObj q' b = creditedObj (getObj q b) len)) ∧
  (∀ op s o x, findOp s op = some o → findGroup s o.grp = some x →
    let done (rows : Nat) : ZProg → ZProg := fun p =>
      if p.op = op then { p with state := if o.cause = 0 then 0 else 2, cause := o.cause, rows := rows } else p
    (∀ v pd, o.kind = .zld v pd → (o.cause = 0 → 64 ≤ o.progress) → ∃ t y, exec (.zldCompletion op) s = .next t ∧
      t.ops = s.ops.filter (·.uid != op) ∧ findGroup t o.grp = some y ∧ y.zprog = x.zprog.map (done o.progress)) ∧
    (∀ v acc cv pd base row0 rows col0 cols shift stride scale z zm,
      o.kind = .zdrn v acc cv pd base row0 rows col0 cols shift stride scale z zm → (o.cause = 0 → rows ≤ o.progress) →
      ∃ t y, exec (.zdrnCompletion op) s = .next t ∧ t.ops = s.ops.filter (·.uid != op) ∧ findGroup t o.grp = some y ∧
        y.zprog = x.zprog.map (done o.progress))) ∧
  (∀ op s o x r, s.ops.filter (·.uid == op) = [o] → o.kind = .mma x → o.tileRef = some r → o.dropped = 0 →
    ∃ t, exec (.mmaOperationComplete op) s = .next t ∧ t.ops.map (·.uid) = (s.ops.map (·.uid)).filter (· != op) ∧
      (o.progress = 0 → (∀ p ∈ s.ops, p.uid ≠ op → ∀ q, p.tileRef = some q → r.same q = false) →
        ∀ z, getTile s r = some z → ∃ y, getTile t r = some y ∧ y.z = mmaTile x z.z ∧ y.zm = z.zm))

/-- R273, R364–R367: the coverage engine emits the next covered tile of its batch as a record at the node, in a slot of the node's
pool, and completes the batch once it is read, with its credit. -/
def Claims.CoverageEventResults : Prop :=
  (∀ op s k s1 o node tx0 ty0 tx1 ty1 ps su vw vh bt n c nd p va s2, covrAdvance op s = (some k, s1) → findOp s1 op = some o →
    o.kind = .covr node tx0 ty0 tx1 ty1 ps su vw vh bt n → (getFn s1 o.tag).ctx = some c → c.nodes[node]? = some nd →
    findTeam s1 o.team = some p → takeSlot o.tag nd.pool .submitted s1 = some (va, s2) →
    ∃ t q, exec (.covrTileEmit op) s = .next t ∧ AtNode t o.tag node va ∧ findOp t op = some q ∧ q.landed = k.tile + 1 ∧
      q.progress = o.progress) ∧
  (∀ op s o p node tx0 ty0 tx1 ty1 ps su vw vh bt n, let s1 := (covrAdvance op s).2
    findOp s1 op = some o → o.kind = .covr node tx0 ty0 tx1 ty1 ps su vw vh bt n → (o.cause = 0 → n ≤ o.progress) →
    padHeld s1 o.team = false → findTeam s1 o.team = some p → ∃ t, exec (.covrCompletion op) s = .next t ∧
      t.ops = s1.ops.filter (·.uid != op) ∧ ∀ b, o.bar = some b → creditable p b = true →
        ∃ q, findTeam t o.team = some q ∧ getObj q b = creditedObj (getObj p b) (48 * n))

/-! ### Beams (spec/14 R373–R387) -/

/-- R275, R375–R387: a beam may split at a child that it comes before as a whole: it gives way to its children, those beyond the 64
live beams waiting for their spawn, or goes on per ray. One that waits for its spawn, in its turn, puts a record at the query's
node, holds the query while the pool is dry, or leaves its rays unresolved without a node. One that no box divides ends with
its records. A query with no beam left ends, a cone with its record where no fault stands before it; and one in whose way a
fault stands may end with it. -/
def Claims.BeamEventResults : Prop :=
  (∀ q beam child s x b w, beamOf s q beam = some (x, b) → x.held = false → b.spawn = none → b.perRay = false →
    wayTo s x 33 child = some w → b.descends x w = true →
    let kids := beamChildren x b (x.beams.foldl (fun m b => Nat.max m b.id) 0 + 1)
    let room := 64 - (x.liveBeams - 1)
    let rest := x.beams.filter (·.id != beam)
    let out := (kids.drop room).map fun k => { k with spawn := some (0, w.node, 0) }
    let y := x.learn w.found
    (recCone x.brec = true → b.depth < recMaxd x.brec → le32 b.tan.toNat 0x3F800000 = true → kids.length ≤ room →
      ∃ t, exec (.beamSplit q beam child) s = .next t ∧ findQuery t q = some { y with beams := rest ++ kids }) ∧
    (recCone x.brec = false → 0 < b.lw + b.lh → b.depth < recMaxd x.brec → ∃ t, exec (.beamSplit q beam child) s = .next t ∧
      findQuery t q = some { y with beams := rest ++ kids.take room ++ out }) ∧
    (recCone x.brec = false → ¬ (0 < b.lw + b.lh ∧ b.depth < recMaxd x.brec) → ∃ t, exec (.beamSplit q beam child) s = .next t ∧
      findQuery t q = some { y with beams := x.beams.map fun c => if c.id = beam then { c with perRay := true } else c })) ∧
  (∀ q beam child tri s x b r a e, beamOf s q beam = some (x, b) → b.spawn = some (r, a, e) → x.spawnTurn b = true →
    (∀ s1, x.node = 0 → writeCells x (x.tagIn s) (b.cells.map fun c => (c, resUnresolved))
        (updQuery q (fun y => { y with unresolved := true }) s) = .ok s1 →
      ∃ t y, exec (.beamSpawn q beam child tri) s = .next t ∧ findQuery t q = some y ∧ y.unresolved = true ∧
        y.beams = x.beams.filter (·.id != beam) ∧ y.owed = x.owed - 16 * b.cells.length) ∧
    (∀ nd c, x.node ≠ 0 → (getFn s (x.tagIn s)).ctx = some c → c.nodes[x.node]? = some nd →
      (takeSlot (x.tagIn s) nd.pool .submitted s = none → ∃ t y, exec (.beamSpawn q beam child tri) s = .next t ∧
        findQuery t q = some y ∧ y.held = true ∧ y.live = true ∧ y.spawns = x.spawns) ∧
      (∀ va s1 s2, takeSlot (x.tagIn s) nd.pool .submitted s = some (va, s1) →
        writeCells x (x.tagIn s) (b.cells.map fun c => (c, provisional s x c.1 c.2)) s1 = .ok s2 →
        ∃ t y, exec (.beamSpawn q beam child tri) s = .next t ∧ findQuery t q = some y ∧ y.held = false ∧
          y.beams = x.beams.filter (·.id != beam) ∧ y.spawns = x.spawns + 1 ∧ y.owed = x.owed - 16 * 2 ^ (b.lw + b.lh) ∧
          AtNode t (x.tagIn s) x.node va))) ∧
  (∀ q beam s x b, beamOf s q beam = some (x, b) → x.held = false → b.spawn = none →
    (recCone x.brec = true → ∃ t, exec (.beamEnds q beam) s = .next t ∧
      findQuery t q = some { x with beams := x.beams.filter (·.id != beam) }) ∧
    (recCone x.brec = false → b.finishes s x = false → exec (.beamEnds q beam) s = .next s) ∧
    (recCone x.brec = false → b.finishes s x = true → ∀ (f : Nat × Nat → List Byte) s1,
      (∀ c ∈ b.cells, rayResult s x c.1 c.2 = some (f c)) →
      writeCells x (x.tagIn s) (b.cells.map fun c => (c, f c)) (updQuery q (Query.learn (b.reads s x)) s) = .ok s1 →
      ∃ t y, exec (.beamEnds q beam) s = .next t ∧
        findQuery t q = some y ∧ y.beams = x.beams.filter (·.id != beam) ∧ y.owed = x.owed - 16 * b.cells.length ∧
        (x.obj = none → UntracedFor s1 (x.tagIn s) → t.mem = s1.mem))) ∧
  (∀ q s x, findQuery s q = some x → x.live = true → x.beams = [] →
    (recCone x.brec = true → coneResult s x = none → exec (.beamQueryEnd q) s = .next s) ∧
    ((recCone x.brec = true → ∃ r s1, coneResult s x = some r ∧ writeCells x (x.tagIn s) [((0, 0), r)] s = .ok s1) →
      ∃ t y, exec (.beamQueryEnd q) s = .next t ∧ findQuery t q = some y ∧ y.live = false ∧ y.batches = [] ∧
        y.st = (if x.unresolved then 2 else 1))) ∧
  (∀ q s x, findQuery s q = some x → x.live = true → x.held = false →
    let fs := if recCone x.brec then (coneWalk s x).filterMap Found.fault?
      else (x.beams.filter (·.spawn.isNone)).flatMap (Beam.faults s x)
    (fs = [] → exec (.beamTraversalFault q) s = .next s) ∧
    (fs ≠ [] → ∃ t y c va, exec (.beamTraversalFault q) s = .next t ∧ (c, va) ∈ fs ∧ findQuery t q = some y ∧ y.live = false ∧
      y.st = 3 ∧ y.cause = c ∧ y.batches = []))

/-- Together: coverage event; beam event. -/
def Obligations.TraversalEventResults : Prop := Claims.CoverageEventResults ∧ Claims.BeamEventResults

/-! ### Tasks (spec/13 R345–R362) -/

/-- R244, R268, R325, R329, R348, R349, R357, R359: a launch entry enters its queue in a slot of the queue's pool; a batch whose
timeout has passed closes; an item starts as a team of its own on its core; the slots of an ended task are free again and the
tiles of an ended team returned; and the dispatcher places the head of the ready set of a tag that fits. -/
def Obligations.TaskEventResults : Prop :=
  (∀ st k s l q va s1, let mine := s.launches.filter (·.station == st)
    mine[k]? = some l → (∀ m ∈ mine.take k, m.tag = l.tag → m.recd.idx ≠ l.recd.idx) →
    ((getFn s l.tag).ctx.bind fun c => c.queues[l.recd.idx]?) = some q → takeSlot l.tag q.pool .submitted s = some (va, s1) →
    l.recd.node = false → ∃ t w, exec (.stationLaunch st k) s = .next t ∧ t.launches = s.launches.erase l ∧
      t.ready = s.ready ++ [w] ∧ w.tag = l.recd.tag ∧ w.node = false ∧ w.idx = l.recd.idx ∧ w.entry = s.tick ∧
      w.recs.map (fun r => (r.slot, r.bytes)) = [(va, l.recd.bytes)]) ∧
  (∀ tag node s c n r rs, (getFn s tag).ctx = some c → c.nodes[node]? = some n → n.gather = r :: rs →
    r.entry + n.timeout ≤ s.tick → ∃ t w d m, exec (.nodeBatchTimeout tag node) s = .next t ∧ t.ready = s.ready ++ [w] ∧
      w.tag = tag ∧ w.node = true ∧ w.idx = node ∧ w.recs.map (·.slot) = n.gather.map (·.slot) ∧ w.entry = r.entry + n.timeout ∧
      (getFn t tag).ctx = some d ∧ d.nodes[node]? = some m ∧ m.gather = []) ∧
  (∀ item core s w n ks d en r rs, s.ready.find? (·.uid == item) = some w → w.fit s = some (core, n, ks) →
    w.kernel s = some (d, en) → w.recs = r :: rs → ∃ t, exec (.taskPlacement item core) s = .next t ∧
      Placed t s.nextUid w.tag core n ∧ t.runs = s.runs ++ [⟨s.nextUid, w⟩] ∧ t.ready = s.ready.filter (·.uid != item)) ∧
  (∀ team s r, runOf s team = some r → (groupsOf s team).all Group.over = true → teamBusy s team = false →
    ∃ t, exec (.taskSlotsReturn team) s = .next t ∧ t.runs = s.runs.filter (·.team != team) ∧
      ∀ x ∈ r.work.recs, slotState t x.tag x.slot = none) ∧
  (∀ team s p, findTeam s team = some p → p.resid = .drained → ∃ t, exec (.teamTilesReturn team) s = .next t ∧
    findTeam t team = some { p with tiles := [], resid := .gone } ∧ t = { s with t := t.t, ts := t.ts }) ∧
  (∀ tag s, let f := sweep s
    (∀ w core n ks d en r rs, readyOf f tag = [.work w] → w.fit f = some (core, n, ks) → w.kernel f = some (d, en) →
      w.recs = r :: rs → ∃ t, exec (.dispatcherVisit tag) s = .next t ∧ Placed t f.nextUid w.tag core n) ∧
    (∀ x d core n ks, readyOf f tag = [.sub x] → findSub f x.uid = some x → x.desc = some d → d.coop = false →
      savedTeams f x.uid = [] → x.next < x.teams → fitIn f x.tag (2 * x.uid) d (List.range 192) = some (core, n, ks) →
      ∃ t, exec (.dispatcherVisit tag) s = .next t ∧ Placed t f.nextUid x.tag core n))

/-! ### Pre-emption and watchdogs (spec/12 R335–R344) -/

/-- R296, R332, R333, R336–R341, R437: a team whose groups have all stopped for fine pre-emption goes into its copy, its monitors
completed and its loads done; the copy ends in a remap entry, which goes when nothing can reach the scratchpad; a team all of
whose groups have parked at barrier points is saved there, and one that has not parked in 200,000 ticks is marked for fine
pre-emption; a saved team that fits resumes on its core, where no work due sooner waits; the teams of a cooperative swarm are
saved and resumed together; and a time slice that ends lets the resident context wind down, or passes the slice on where no
team of it is left. -/
def Claims.PreemptionResults : Prop :=
  (∀ u s p, findTeam s u = some p → p.resid = .resident → (∃ x ∈ groupsOf s u, x.stop = some .preempt) →
    (∀ m ∈ saveMates s p, (∀ x ∈ groupsOf s m.uid, savedReady x = true) ∧ tileBusy s m.uid = false) →
    saveRoom s (saveMates s p) = true → ∃ t, exec (.finePreemption u) s = .next t ∧
      ∀ m ∈ saveMates s p, findTeam s m.uid = some m →
        (∃ q, findTeam t m.uid = some q ∧ q.resid = .saving ∧ q.image = true) ∧
        (∀ x ∈ groupsOf t m.uid, x.over = false → x.pend = [] ∧ x.lockRes = false ∧ x.unack = 0 ∧ x.stop ≠ some .preempt) ∧
        ∀ n ∈ t.mons, n.team ≠ m.uid) ∧
  (∀ n u s p, findTeam s u = some p → p.slice = n → n < s.slices.length →
    (p.resid = .saving → ∃ t q, exec (.remapEntryInstall n u) s = .next t ∧
      (p.coopSwarm = false → findTeam t u = some q ∧ q.resid = .saved ∧
        (getSlice t n).remap = (getSlice s n).remap ++ List.replicate (remapNeed p) u) ∧
      (p.coopSwarm = true → ∀ m ∈ allTeams s, m.uid ≠ 0 → m.resid = .saving → m.coopSwarm = true → m.sub = p.sub →
        findTeam s m.uid = some m → ∃ r, findTeam t m.uid = some r ∧ r.resid = .saved)) ∧
    (p.isSaved = true → reachable s u = false → ∃ t, exec (.remapEntryFree n u) s = .next t ∧
      (getSlice t n).remap = (getSlice s n).remap.filter (· != u) ∧ t = { s with slices := t.slices })) ∧
  (∀ u s p, findTeam s u = some p → p.resid = .resident →
    ((∀ m ∈ saveMates s p, let gs := (groupsOf s m.uid).filter fun x => !x.over
        stopsAtBarriers s m = true ∧ gs ≠ [] ∧ (∀ x ∈ gs, ∃ a, x.stat = .barrier a) ∧ tileBusy s m.uid = false) →
      saveRoom s (saveMates s p) = true → ∃ t, exec (.barrierPointSave u) s = .next t ∧
        (∀ m ∈ saveMates s p, findTeam s m.uid = some m → ∃ q, findTeam t m.uid = some q ∧ q.resid = .savedBarrier) ∧
        (p.coopSwarm = false → p.slice < s.slices.length →
          (getSlice t p.slice).remap = (getSlice s p.slice).remap ++ List.replicate (remapNeed p) u)) ∧
    (∀ e, stopsSince s p = some e → e + 200000 ≤ s.tick → ∃ t, exec (.barrierPointLimit u) s = .next t ∧
      ∀ k x, findGroup s k = some x → x.team = u → x.over = false → x.stop = none →
        findGroup t k = some { x with stop := some .preempt })) ∧
  (∀ u s p, findTeam s u = some p → p.isSaved = true →
    (∀ own, Ready.ofTeam s p = some own → holdsBack s p.tag own = true → exec (.teamResume u) s = .next s) ∧
    ((∀ own, Ready.ofTeam s p = some own → holdsBack s p.tag own = false) →
      (∀ ks, p.coopSwarm = false → (placeable s p.tag p.core || mayReturn s p) = true →
        fitSaved s p = some ks → ∃ t q, exec (.teamResume u) s = .next t ∧ findTeam t u = some q ∧ q.resid = .resident ∧
          q.core = p.core ∧ q.sliceEnd = none ∧ q.image = false) ∧
      (∀ t, p.coopSwarm = true → resumeSwarm p.tag p.sub s = some t → exec (.teamResume u) s = .next t) ∧
      (p.coopSwarm = true → resumeSwarm p.tag p.sub s = none → exec (.teamResume u) s = .next s))) ∧
  (∀ n s e, let x := getSlice s n
    let left := (allTeams s).any fun p => p.holds && p.slice == n && p.tag == x.resident
    n < s.slices.length → x.ending = none → x.st = 2 → x.up = true → x.ends = some e → e ≤ s.tick →
    (left = true → ∃ t, exec (.timeSliceEnd n) s = .next t ∧
      getSlice t n = { x with ending := some s.tick, prev := x.resident, ends := none }) ∧
    (∀ k, left = false → ((List.range 16).map fun i => (x.resident - 2 + 1 + i) % 16).find? (x.sharers.getLsbD ·) = some k →
      ∃ t, exec (.timeSliceEnd n) s = .next t ∧
        getSlice t n = { x with ending := none, prev := x.resident, ends := some (s.tick + x.span * 1000), resident := k + 2 }))

/-- R343, R344: the watchdog stops every group of a context when all have waited for its interval, not all on external phases, and
no cluster is halted, and the launches complete with STATUS 3; the external-wait advisory is reported once, when every phase
waited on has been external for its interval. -/
def Claims.WatchdogResults : Prop :=
  ∀ n tag s c, (getFn s tag).ctx = some c → contextOn s n tag = true →
    let gs := contextGroups s tag
    let ws := gs.flatMap fun x => if isWaiting x then (waitsOf x).map fun v => (x, v) else []
    (gs ≠ [] → gs.all isWaiting = true → gs.all (waitsExternal s) = false →
      c.wdint ≤ s.tick - (peek s.wdog tag).toNat → (∀ cl, cl < 48 → clusterHalted s tag cl = false) →
      ∃ t, exec (.watchdogFire n tag) s = .next t ∧
        (∀ x ∈ gs, ∃ y, findGroup t x.uid = some y ∧ y.stop = some .watchdog) ∧
        ∀ x ∈ t.subs, x.tag = tag → x.started = true → x.finished = false → x.status = 3 ∧ x.next = x.teams) ∧
    (c.extOn = true → ws ≠ [] → (∀ p ∈ ws, phaseExternal s p.1 p.2 = true) →
      peek s.wext tag ≠ BitVec.allOnes 64 → c.extint ≤ s.tick - extSince (peek s.wext tag).toNat (ws.map (·.2.since)) → 1 ≤ tag →
      ∃ t, exec (.externalWaitAdvisory n tag) s = .next t ∧ peek t.wext tag = BitVec.allOnes 64 ∧
        (getFn t tag).er.cst.getLsbD 3 = true)

/-- Together: preemption; watchdog. -/
def Obligations.SchedulingEventResults : Prop := Claims.PreemptionResults ∧ Claims.WatchdogResults

/-! ### Debug and profiling events (spec/17 R407–R428, spec/18 R432) -/

/-- R407, R415–R422, R432: a hit counts when its access is made, and its port reports the oldest, hands it to its group or halts the
cluster; a halt that reaches a core stops its groups at their run boundaries; a halt of a cluster marks its running groups and
halts those that wait, a resume lets them go on, a step lets one run or issues its wait again. -/
def Claims.HaltResults : Prop :=
  (∀ h s, (takeHit h s).wpq = s.wpq ++ [h] ∧
    peek (takeHit h s).evc (2 ^ 16 * h.tag + 16 * h.core + 13) = peek s.evc (2 ^ 16 * h.tag + 16 * h.core + 13) + 1) ∧
  (∀ s h rest, s.wpq = h :: rest → h.core < 192 → h.wp < 8 →
    let cl := clusterOf h.core
    let act := bit (obsGet s h.tag (h.core / 12) (0x2400 + 0x800 * (h.core % 12) + 0x10 * h.wp + 8)) 12
    ∃ t, exec .watchpointHit s = .next t ∧ t.wpq = rest ∧
      (act = false → t = { s with wpq := rest, g := t.g, gs := t.gs } ∧ ∀ x, h.grp ≠ 0 → findGroup s h.grp = some x →
        findGroup t h.grp = some { x with hits := x.hits ++ [(h.pos, 0)] }) ∧
      (act = true → clusterHalted t h.tag cl = true)) ∧
  (∀ core s u x p, findGroup s u = some x → x.stop = some .cluster → findTeam s x.team = some p → coreOf p x = core →
    ∃ t y, exec (.clusterHaltLands core) s = .next t ∧ findGroup t u = some y ∧
      (x.runPos = 0 → y.halted = true ∧ y.stop = none ∧ y.pc = x.pc ∧ y.regs = x.regs) ∧
      (x.runPos ≠ 0 → y = { x with stop := some .halt })) ∧
  (∀ fn n cl s, holdsSlice s fn n = true → cl < 3 →
    (clusterHalted s fn (3 * n + cl) = false → ∃ t, exec (.dbgHalt fn n cl) s = .next t ∧
      clusterHalted t fn (3 * n + cl) = true ∧ ∀ u x, findGroup s u = some x → inCluster s fn (3 * n + cl) x = true →
        ∃ y, findGroup t u = some y ∧ y.pc = x.pc ∧ (x.stat = .running ∨ x.stat = .port → y.stop = some .cluster) ∧
          (x.stat ≠ .running → x.stat ≠ .port → y.halted = true)) ∧
    (clusterHalted s fn (3 * n + cl) = true → ∃ t, exec (.dbgResume fn n cl) s = .next t ∧
      clusterHalted t fn (3 * n + cl) = false ∧ ∀ u x, findGroup s u = some x → inCluster s fn (3 * n + cl) x = true →
        ∃ y, findGroup t u = some y ∧ y.halted = false ∧ y.pc = x.pc ∧ y.regs = x.regs) ∧
    (∀ core k x, clusterHalted s fn (3 * n + cl) = true →
      (allGroups s).find? (fun x => inCluster s fn (3 * n + cl) x && x.halted && x.slot % 64 == k &&
        (match findTeam s x.team with | some t => coreOf t x == 12 * n + core | none => false)) = some x →
      findGroup s x.uid = some x →
      (x.stat = .running ∨ x.stat = .port → ∃ t, exec (.dbgStep fn n cl core k) s = .next t ∧
        findGroup t x.uid = some { x with halted := false, stop := some .step }) ∧
      (∀ w, x.stat = .waiting w → ∃ t, exec (.dbgStep fn n cl core k) s = .next t ∧
        findGroup t x.uid = some { x with stat := .running, halted := false, stop := some .stepWait }) ∧
      (x.stat = .held ∨ x.stat = .parked → ∃ t, exec (.dbgStep fn n cl core k) s = .next t ∧ findGroup t x.uid = some x)))

/-- R408, R423, R425–R428: writes of TR_CTL, TR_RPTR and CB_CTL, the latch of the high half, the sample that a trace unit takes at its
interval and a clock of a scheduler. -/
def Claims.ProfilingResults : Prop :=
  (∀ fn n cl s, holdsSlice s fn n = true → cl < 3 →
    let o := 0x1000 + 0x100 * cl
    (∀ val : Word, let ok := obsGet s fn n (o + 8) % 4096 = 0 ∧ traceSizeOk (obsGet s fn n (o + 0x10)) = true
      (bit val.toNat 31 = true → ¬ ok → exec (.trEnable fn n cl val) s = .next s) ∧
      ((bit val.toNat 31 = true → ok) → ∃ t, exec (.trEnable fn n cl val) s = .next t ∧
        obsGet t fn n o = (if bit val.toNat 31 then 2 ^ 31 else 0) + val.toNat % 2 ^ 21 ∧
        (bit val.toNat 31 = true → bit (obsGet s fn n o) 31 = false →
          obsGet t fn n (o + 0x18) = obsGet s fn n (o + 0x20)))) ∧
    (∀ val : DWord, let size := obsGet s fn n (o + 0x10)
      let w := obsGet s fn n (o + 0x18)
      let r := obsGet s fn n (o + 0x20)
      size ≠ 0 → val.toNat % 32 = 0 → val.toNat < size →
      (val.toNat + size - r % size) % size ≤ (w + size - r % size) % size → ∃ t, exec (.trRptrWrite fn n cl val) s = .next t ∧
        obsGet t fn n (o + 0x20) = val.toNat ∧ obsGet t fn n (o + 0x18) = w)) ∧
  (∀ fn n b (val : Word) s, holdsSlice s fn n = true → b < 4 →
    (fn = 1 ∨ bankClaimed s n b = false → ∃ t, exec (.cbClear fn n b val) s = .next t ∧
      obsGet t fn n (256 * b + 0xC4) = val.toNat % 2 ∧
      (bit val.toNat 1 = true → ∀ k, k < 16 → obsGet t fn n (256 * b + 8 * k) = 0)) ∧
    (fn ≠ 1 → bankClaimed s n b = true → ∃ t c, exec (.cbClear fn n b val) s = .next t ∧ c ∈ t.claims ∧ c.slice = n ∧
      c.what = .bank b ∧ c.held.getLast? = some (fn, 256 * b + 0xC4, val.setWidth 64) ∧ t = { s with claims := t.claims })) ∧
  (∀ fn off s v, counterReg s fn off = some v → fn < s.fns.length → ∃ t, exec (.halfWordLatchRead fn off) s = .next t ∧
    (getFn t fn).latch = some (off, BitVec.ofNat 32 (v / 2 ^ 32)) ∧ t = { s with fns := t.fns }) ∧
  (∀ cluster s, let gs := (List.range 16).flatMap fun q => schedGroups s (16 * cluster + q)
    gs ≠ [] → (∀ p ∈ gs, let n := (peek s.obs (trKey (trTag s p.2.tag cluster) cluster 0)).toNat % 2 ^ 16 * 1024
      n ≠ 0 ∧ s.tick % n = 0) →
    ∃ p ∈ gs, exec (.traceSample cluster) s = .next (bump (trace p.2.tag (coreOf p.2 p.1) 0x10 p.1.startOfRun (p.1.gidIn s)
      (BitVec.ofNat 32 (if eligible s p.1 p.2 then 0xFF else stallOf s p.1 p.2)) p.1.em s))) ∧
  (∀ sched s p rest, schedGroups s sched = p :: rest →
    let n := Nat.min ((schedGroups s sched).filter fun p => eligible s p.1 p.2).length 16
    let k := 2 ^ 16 * p.2.tag + 32 * sched + n
    ∃ t, exec (.arithmeticClock sched) s = .next t ∧ peek t.elig k = peek s.elig k + 1 ∧ t.fresh = s.fresh + 1 ∧ t.g = s.g ∧
      t.gs = s.gs)

/-- Together: halt; profiling. -/
def Obligations.DebugEventResults : Prop := Claims.HaltResults ∧ Claims.ProfilingResults

/-! ### Contexts and registers (spec/00 R3, spec/11 R302, spec/19 R445, R446, spec/21 R486) -/

/-- R302, R446: after an invalidation no cached translation of the context maps a byte of its range, and its completion counts in
TI_STAT; a parked group replays its run, or stops with PAGE_FAULT where its fault is cancelled. -/
def Claims.TranslationResults : Prop :=
  (∀ fn (ctl : Word) s, writable s fn = true → bit ctl.toNat 31 = true → (getFn s fn).tiRun = none → fn < s.fns.length →
    let k := bits ctl.toNat 0 6
    let lo := (getFn s fn).tiVa.toNat / 2 ^ k * 2 ^ k
    (bit ctl.toNat 8 = false → 12 ≤ k → k ≤ 56 → ∃ t, exec (.tiInvalidateRange fn ctl) s = .next t ∧
      (getFn t fn).tiRun = some (lo, 2 ^ k) ∧
      ∀ e ∈ s.tlb, (e ∈ t.tlb ↔ ¬ (e.tag = fn ∧ e.va < lo + 2 ^ k ∧ lo < e.va + e.size))) ∧
    (bit ctl.toNat 8 = true → ∃ t, exec (.tiInvalidateAll fn ctl) s = .next t ∧ (getFn t fn).tiRun = some (0, 2 ^ 56) ∧
      ∀ e ∈ t.tlb, e.tag = fn → 2 ^ 56 ≤ e.va ∨ e.va + e.size = 0)) ∧
  (∀ fn s r, (getFn s fn).tiRun = some r → ∃ t, exec (.invalidationComplete fn) s = .next t ∧ (getFn t fn).tiRun = none ∧
    (getFn t fn).tiDone = ((getFn s fn).tiDone + 1) % 2 ^ 31) ∧
  (∀ fn gid s x, parkedGroup s fn gid = some x → findGroup s x.uid = some x →
    (∃ t y, exec (.pfReplay fn gid) s = .next t ∧ findGroup t x.uid = some y ∧ y.faultVa = 0 ∧ y.parkInfo = 0 ∧ y.runPos = x.runPos ∧
      (x.bank.stk = [] → y.stat = .running ∧ y.pc = normPc (focus x.uid s) x.pc ∧ y.em = x.em ∧ y.regs = x.regs) ∧
      t.mem = s.mem ∧ ∀ u, u ≠ 0 → u ≠ x.uid → findGroup t u = findGroup s u) ∧
    ((focus x.uid s).g = x → (focus x.uid s).t.latches = [] → ∃ t, exec (.pfCancel fn gid) s = .next t ∧ t.g.uid = x.uid ∧
      t.g.stat = .stopped ∧ t.g.live = 0 ∧ t.g.tcause = BitVec.ofNat 32 cPAGE ∧ t.g.tinfo = x.parkInfo ∧
      t.g.tpc = x.pc &&& ~~~3 ∧ t.g.tem = x.em &&& x.all))

/-- R3, R445, R486: a descriptor that passes every check becomes the context of its function, one that does not leaves it as it was; an
aperture access is performed under the function's translation, or counts in AP_ERR; and a register takes a write as its fields
say. -/
def Claims.RegisterResults : Prop :=
  (∀ fn s d, writable s fn = true → fn < s.fns.length → (∀ x ∈ s.subs, x.tag ≠ fn) →
    physBytes s fn (getFn s fn).cxDesc.toNat 128 = some d →
    (∀ c, parseCtx s fn d = .ok c → ∃ t, exec (.cxLoad fn) s = .next t ∧ (getFn t fn).ctx = some c ∧ (getFn t fn).cxErr = 0 ∧
      ∀ w ∈ t.ready, w.tag ≠ fn) ∧
    (∀ k, parseCtx s fn d = .error k → ∃ t, exec (.cxLoad fn) s = .next t ∧ (getFn t fn).ctx = (getFn s fn).ctx ∧
      1 ≤ (getFn t fn).cxErr ∧ (getFn t fn).cxErr ≤ 255)) ∧
  (∀ fn off (data : List Byte) s, apTaken s fn off data.length = true → fn < s.fns.length →
    (∀ r, vWriteAll fn (apVa s fn off) data s = some r → ∃ t, exec (.apertureWrite fn off data) s = .next t ∧
      t.mem.hbm = r.mem.hbm ∧ t.mem.host = r.mem.host ∧ t.mem.key = r.mem.key) ∧
    (vWriteAll fn (apVa s fn off) data s = none → ∃ t, exec (.apertureWrite fn off data) s = .next t ∧ t.mem = s.mem ∧
      ((getFn s fn).apErr ≠ 0xFFFFFFFF → (getFn t fn).apErr = (getFn s fn).apErr + 1))) ∧
  (∀ fn off len s, apTaken s fn off len = true → fn < s.fns.length →
    (∀ bs, vBytes s fn (apVa s fn off) needR len = .ok bs →
      (∃ t, exec (.apertureRead fn off len) s = .next t ∧ t = { s with ports := t.ports }) ∧ apertureData s fn off len = bs) ∧
    (∀ e, vBytes s fn (apVa s fn off) needR len = .error e → apertureData s fn off len = List.replicate len 0xFF ∧
      ∃ t, exec (.apertureRead fn off len) s = .next t ∧ t.mem = s.mem ∧
        ((getFn s fn).apErr ≠ 0xFFFFFFFF → (getFn t fn).apErr = (getFn s fn).apErr + 1))) ∧
  (∀ fn off (val : DWord) wide s r, 1 ≤ fn → fn < s.fns.length → fn ≤ 17 → locate fn off wide = some (r, 0) → mayWrite s fn r = true →
    ∃ t, exec (.registerWrite fn off val wide) s = .next t ∧
      (r = .cxDesc → regRead t fn r = val.toNat) ∧
      (r = .apBase → regRead t fn r = bits val.toNat 36 20 * 2 ^ 36) ∧
      (r = .erUst → regRead t fn r = ((getFn s fn).er.ust &&& ~~~(BitVec.ofNat 9 val.toNat)).toNat) ∧
      (r = .erUmsk → regRead t fn r = val.toNat % 2 ^ 9) ∧ (r = .erUsev → regRead t fn r = val.toNat % 2 ^ 9) ∧
      (r = .erCmsk → regRead t fn r = val.toNat % 2 ^ 5) ∧ (r = .erCtl → regRead t fn r = val.toNat % 2) ∧
      (r = .fabId → regRead t fn r = val.toNat % 2 ^ 6) ∧
      (r = .telCap → regRead t fn r = (if 1200 ≤ val.toNat % 2 ^ 16 ∧ val.toNat % 2 ^ 16 ≤ 2300 then val.toNat % 2 ^ 16
        else regRead s fn r)) ∧
      ((r = .cxStat ∨ r = .apErr ∨ r = .tkBal ∨ r = .pmStat ∨ r = .rstStat ∨ r = .bootStat) → t = s))

/-- Together: translation; register. -/
def Obligations.ContextEventResults : Prop := Claims.TranslationResults ∧ Claims.RegisterResults

/-! ### Submission queues (spec/21 R487–R493) -/

/-- R487–R492: SQ_CTL, TAIL, reading an entry and starting each operation of an entry. -/
def Obligations.QueueResults : Prop :=
  (∀ fn q (ctl : Word) s, let x := getSq s fn q
    let logn := bits ctl.toNat 0 4
    let vec := bits ctl.toNat 4 6
    writable s fn = true → fn < s.fns.length → q < (getFn s fn).sqs.length → bit ctl.toNat 31 = true → x.en = false →
    (getFn s fn).ctx ≠ none → 4 ≤ logn → logn ≤ 12 → vec ≠ 0 → ∃ t, exec (.sqEnable fn q ctl) s = .next t ∧
      getSq t fn q = { x with en := true, logn := logn, vec := vec, head := x.tail, done := x.tail }) ∧
  (∀ fn q (tail : Word) s, let x := getSq s fn q
    writable s fn = true → fn < s.fns.length → q < (getFn s fn).sqs.length →
    ((tail - x.done).toNat ≤ 2 ^ x.logn → ∃ t, exec (.sqDoorbell fn q tail) s = .next t ∧ getSq t fn q = { x with tail := tail }) ∧
    (2 ^ x.logn < (tail - x.done).toNat → exec (.sqDoorbell fn q tail) s = .next s)) ∧
  (∀ fn q s e, let x := getSq s fn q
    let va := x.base.toNat + 64 * (x.head.toNat % 2 ^ x.logn)
    x.en = true → x.head ≠ x.tail → queueSlotFree s fn = true → vPoison s fn va 64 = false → vBytes s fn va needR 64 = .ok e →
    (bit (field e 1 1) 0 = true ∨ ∀ y ∈ s.subs, ¬ (y.tag = fn ∧ y.q = q ∧ y.n = (x.head - 1).toNat)) →
    (firstBad e = none → ∃ t y, exec (.entryRead fn q) s = .next t ∧ t.subs = s.subs ++ [y] ∧ y.uid = s.nextUid ∧ y.tag = fn ∧
      y.q = q ∧ y.n = x.head.toNat ∧ y.op = field e 0 1 ∧ y.started = false ∧ y.slotVa = va ∧
      (getSq t fn q).head = x.head + 1 ∧ (getSq t fn q).done = x.done) ∧
    (∀ i, firstBad e = some i → (∀ y ∈ s.subs, y.uid ≠ s.nextUid) → ∃ t, exec (.entryRead fn q) s = .next t ∧ (∀ y ∈ t.subs, y.uid ≠ s.nextUid) ∧
      (getSq t fn q).head = x.head + 1 ∧ (getSq t fn q).done = x.done + 1)) ∧
  (∀ u s x, queueEntry s u 1 false = some x → let b := startSub u s
    (∀ d, ((readDesc b x.tag x.addr).filter fun d => couldFit b x.tag d x.teams) = some d →
      ∃ t y, exec (.launch u) s = .next t ∧ findSub t u = some y ∧ y.started = true ∧ y.start = s.tick ∧ y.desc = some d ∧
        y.cn = s.snapshot) ∧
    (((readDesc b x.tag x.addr).filter fun d => couldFit b x.tag d x.teams) = none → ∃ t, exec (.launch u) s = .next t ∧
      findSub t u = none)) ∧
  (∀ u s x, queueEntry s u 1 true = some x → x.desc ≠ none → x.teams ≤ x.next → x.live = 0 → descended s u = false →
    ∃ t, exec (.submissionComplete u) s = .next t ∧ CompletedAs s t x x.start (if x.status = 0 then 1 else x.status)) ∧
  (∀ u s x p, queueEntry s u 2 false = some x → let b := startSub u s
    xlate b x.tag engUnit x.addr needR = .ok p → gPoison b p 0 = false →
    (x.value.toNat ≤ gRead b p 8 → ∃ t, exec (.fenceWait u) s = .next t ∧ CompletedAs (tlbPut p.ent b) t x s.tick 1) ∧
    (gRead b p 8 < x.value.toNat → ∃ t y, exec (.fenceWait u) s = .next t ∧ findSub t u = some y ∧ y.started = true ∧
      y.lastRead = some (BitVec.ofNat 64 (gRead b p 8)) ∧ t.mem = s.mem)) ∧
  (∀ u s x p, queueEntry s u 2 true = some x → xlate s x.tag engUnit x.addr needR = .ok p → gPoison s p 0 = false →
    (x.value.toNat ≤ gRead s p 8 → ∃ t, exec (.fenceWaitReread u) s = .next t ∧ CompletedAs (tlbPut p.ent s) t x x.start 1) ∧
    (gRead s p 8 < x.value.toNat → ∃ t y, exec (.fenceWaitReread u) s = .next t ∧ findSub t u = some y ∧
      y.lastRead = some (BitVec.ofNat 64 (gRead s p 8)) ∧ t.mem = s.mem)) ∧
  (∀ u s x, queueEntry s u 3 false = some x → let b := startSub u s
    (∀ r, vWriteAll x.tag x.addr (natBytes x.value.toNat 8) b = some r → ∃ t, exec (.fenceSignal u) s = .next t ∧
      CompletedAs r t x s.tick 1) ∧
    (vWriteAll x.tag x.addr (natBytes x.value.toNat 8) b = none → ∃ t, exec (.fenceSignal u) s = .next t ∧
      CompletedAs b t x s.tick 7)) ∧
  (∀ u s x, queueEntry s u 4 false = some x → ∃ t, exec (.noOperation u) s = .next t ∧ CompletedAs (startSub u s) t x s.tick 1)

/-! ### The partition manager (spec/19 R437–R460, R463, spec/17 R428, R429) -/

/-- R437, R439–R443: ASSIGN, ASSIGN with SHARED, FUSE in its two steps, SPLIT and its timeout, RELEASE: the slices that each names, and
what it leaves of the others. -/
def Obligations.PartitionResults : Prop :=
  ∀ s, s.slices.length = 16 →
    let ns := slicesIn (cmdSlices s)
    let tag := cmdTag s
    (PmRuns s 1 → cmdFlag s 0 = false → tagOk tag = true → ns ≠ [] → allFree s ns = true → holdsPart s tag = false →
      ∃ t, exec .assign s = .next t ∧ PmDone s t 1 ∧
        (∀ n ∈ ns, getSlice t n = { getSlice s n with st := 1, owner := tag, part := ns.headD 0, resident := tag }) ∧
        ∀ n, n ∉ ns → getSlice t n = getSlice s n) ∧
    (∀ n, let m : BitVec 16 := BitVec.ofNat 16 (cmdArg0 s)
      let ts := (slicesIn m).map (· + 2)
      let us := bits (cmdArg1 s) 0 32
      PmRuns s 1 → cmdFlag s 0 = true → ns = [n] → 2 ≤ ts.length → ts.length ≤ 8 → 100 ≤ us → us ≤ 100000 →
      allFree s ns = true → (∀ k ∈ ts, holdsPart s k = false) → ∃ t, exec .assignShared s = .next t ∧ PmDone s t 1 ∧
        (getSlice t n).st = 2 ∧ (getSlice t n).sharers = m ∧ (getSlice t n).span = us ∧
        (getSlice t n).resident = ts.headD 0 ∧ (getSlice t n).ends = some (s.tick + 1000 * us)) ∧
    (PmRuns s 2 → s.pm.phase ≠ 1 → tagOk tag = true → ns ≠ [] → allFree s ns = true → holdsDedicated s tag = true →
      ∃ t, exec .fuse s = .next t ∧ t.pm.busy = true ∧ t.pm.phase = 1 ∧
        (∀ n ∈ ns, getSlice t n = { getSlice s n with st := 3 }) ∧ ∀ n, n ∉ ns → getSlice t n = getSlice s n) ∧
    (PmRuns s 2 → s.pm.phase = 1 → ∃ t, exec .fuse s = .next t ∧
      PmDone s t 1 ∧ (∀ n ∈ ns, (getSlice t n).st = 1 ∧ (getSlice t n).owner = tag) ∧
      ∀ n, n ∉ ns → (getSlice t n).st = (getSlice s n).st ∧ (getSlice t n).owner = (getSlice s n).owner) ∧
    (PmRuns s 3 → s.pm.phase ≠ 1 → tagOk tag = true → ns ≠ [] →
      (∀ n ∈ ns, (getSlice s n).owner = tag ∧ (getSlice s n).up = true ∧ (getSlice s n).st = 1 ∧ lentOut s n = false) →
      ns.length ≠ ((List.range 16).filter fun n => (getSlice s n).owner == tag).length → ∃ t, exec .split s = .next t ∧
        t.pm.busy = true ∧ t.pm.phase = 1 ∧ (∀ n ∈ ns, (getSlice t n).st = 3) ∧ (∀ n, n ∉ ns → getSlice t n = getSlice s n) ∧
        t.pm.deadline = (if cmdTimeout s = 0 then none else some (s.pm.at_ + 1000 * cmdTimeout s))) ∧
    (PmRuns s 3 → s.pm.phase = 1 → (∀ p ∈ allTeams s, p.uid ≠ 0 → p.tag = tag → p.resid ≠ .gone → p.slice ∉ ns) →
      (∀ o ∈ s.ops, o.tag ≠ tag) → ∃ t, exec .split s = .next t ∧ PmDone s t 1 ∧
        ∀ n ∈ ns, (getSlice t n).st = 0 ∧ (getSlice t n).owner = 1) ∧
    (∀ d, PmRuns s 3 → s.pm.phase = 1 → s.pm.deadline = some d → d ≤ s.tick → ∃ t, exec .splitTimeout s = .next t ∧
      PmDone s t 4 ∧ ∀ n ∈ ns, (getSlice s n).st = 3 → (getSlice t n).st = 1 ∧ (getSlice t n).owner = (getSlice s n).owner) ∧
    (PmRuns s 4 → tagOk tag = true → holdsPart s tag = true → (∀ x ∈ s.subs, x.tag ∉ slotMates s tag) →
      (∀ n ∈ slicesOf s tag, (getSlice s n).up = true ∧ (getSlice s n).st ≠ 4) → ∃ t, exec .release s = .next t ∧ PmDone s t 1 ∧
        (∀ n ∈ slicesOf s tag, (getSlice t n).st = 0 ∧ (getSlice t n).owner = 1 ∧ (getSlice t n).sharers = 0) ∧
        (getFn t tag).lim = (if tag < s.fns.length then ⟨0, 0, false⟩ else (getFn s tag).lim))

/-- R445, R449, R457, R459, R460: KEY with its three actions, WINDOW, TOKENS, WAYS and LIMITS. A key that changes hands is a new one. -/
def Obligations.TableCommandResults : Prop :=
  ∀ s, let tag := cmdTag s
    let k := bits (cmdArg0 s) 0 12
    (PmRuns s 5 → k ≠ 0 →
      (bits (cmdArg0 s) 12 2 = 0 → tagOk tag = true → ∃ t, exec .keyAssign s = .next t ∧ PmDone s t 1 ∧
        peek t.keyOwner k = BitVec.ofNat 8 tag ∧ peek t.keyGen k = peek s.keyGen k + 1 ∧ t.keyShare = s.keyShare) ∧
      (bits (cmdArg0 s) 12 2 = 1 → ∃ t, exec .keyShare s = .next t ∧ PmDone s t 1 ∧
        peek t.keyShare k = BitVec.ofNat 16 (cmdArg1 s) ∧ t.keyOwner = s.keyOwner ∧ t.keyGen = s.keyGen) ∧
      (bits (cmdArg0 s) 12 2 = 2 → ∃ t, exec .keyReturn s = .next t ∧ PmDone s t 1 ∧ peek t.keyOwner k = 0 ∧
        peek t.keyGen k = peek s.keyGen k + 1)) ∧
    (let n := bits (cmdArg1 s) 0 32
     PmRuns s 6 → (tag = 1 ∨ tagOk tag = true) → cmdArg0 s % 2 ^ 30 = 0 → tag < s.fns.length → ∃ t, exec .window s = .next t ∧
      PmDone s t 1 ∧ (getFn t tag).wins = setAt (getFn s tag).wins (bits (cmdArg1 s) 32 4)
        (if n = 0 then (0, 0) else (cmdArg0 s, n * 2 ^ 30))) ∧
    (PmRuns s 10 → tagOk tag = true → tag < s.fns.length → ∃ t, exec .tokens s = .next t ∧ PmDone s t 1 ∧
      (getFn t tag).tok.refill = bits (cmdArg0 s) 0 32 ∧ (getFn t tag).tok.cap = bits (cmdArg0 s) 32 32 ∧
      (getFn t tag).tok.borrowMax = bits (cmdArg1 s) 0 32 ∧ (getFn t tag).tok.floor = bits (cmdArg1 s) 32 16 ∧
      (getFn t tag).tok.bal = (getFn s tag).tok.bal ∧ (getFn t tag).tok.debt = (getFn s tag).tok.debt) ∧
    (let st := bits (cmdArg0 s) 0 7
     PmRuns s 11 → tagOk tag = true → ∃ t, exec .ways s = .next t ∧ PmDone s t 1 ∧
      ∀ w, w ∈ t.ways ↔ w = (st, tag, BitVec.ofNat 16 (cmdArg1 s)) ∨ (w ∈ s.ways ∧ ¬ (w.1 = st ∧ w.2.1 = tag))) ∧
    (PmRuns s 12 → tagOk tag = true → tag < s.fns.length → ∃ t, exec .limits s = .next t ∧ PmDone s t 1 ∧
      (getFn t tag).lim = ⟨bits (cmdArg0 s) 0 20, bits (cmdArg0 s) 20 8, bit (cmdArg0 s) 28⟩)

/-- R428, R429, R447, R448, R454, R456, R463: ELASTIC and its end, the handover of a cluster, LEASE, REVOKE and the expiry of a lease,
CLAIM and its release. -/
def Claims.LendingResults : Prop :=
  (∀ s, let tag := cmdTag s
    let cl := bits (cmdArg0 s) 0 6
    let b := bits (cmdArg0 s) 8 5
    let z := getSlice s (cl / 3)
    let mine (e : Elastic) : Bool := e.cluster == cl && e.lender == tag
    (PmRuns s 7 → bit (cmdArg0 s) 16 = false → tagOk tag = true → tagOk b = true → b ≠ tag → cl < 48 → z.up = true → z.st = 1 →
      z.owner = tag → onDie s b (cl / 3) = true → coopOn s tag cl = false → (∀ e ∈ s.elastics, e.cluster ≠ cl) →
      ∃ t, exec .elastic s = .next t ∧ PmDone s t 1 ∧ t.elastics = s.elastics ++ [⟨cl, tag, b, false, false, false, s.tick⟩]) ∧
    (∀ e, PmRuns s 7 → bit (cmdArg0 s) 16 = true → s.elastics.find? mine = some e →
      ((e.lent = false ∧ e.passing = false) → ∃ t, exec .elasticRelease s = .next t ∧ PmDone s t 1 ∧
        t.elastics = s.elastics.filter (!mine ·)) ∧
      ((e.lent = true ∨ e.passing = true) → ∃ t, exec .elasticRelease s = .next t ∧ t.pm = s.pm ∧
        ∀ x ∈ t.elastics, mine x = true → x.release = true))) ∧
  (∀ cl s e, s.elastics.find? (·.cluster == cl) = some e → e.passing = true →
    (∀ p ∈ allTeams s, p.lives = true → p.tag = (if e.lent then e.borrower else e.lender) →
      clusterOf p.core ≠ cl ∧ (p.pair = true → clusterOf (p.core + 1) ≠ cl)) →
    ∃ t, exec (.elasticHandover cl) s = .next t ∧
      t.elastics.find? (·.cluster == cl) = some { e with lent := !e.lent, passing := false, since := s.tick }) ∧
  (∀ s, let tag := cmdTag s
    let a := cmdArg0 s
    let core := 12 * bits a 0 4 + bits a 4 4
    let tiles := bits a 8 9
    let z := getSlice s (bits a 0 4)
    let tab := (getFn s tag).leaseTab
    PmRuns s 8 → tagOk tag = true → tag < s.fns.length → bits a 4 4 < 12 → 1 ≤ tiles → tiles ≤ 256 → z.up = true → z.st = 1 →
    z.owner ≠ tag → onDie s tag (bits a 0 4) = true → coopOn s z.owner (clusterOf core) = false →
    tilesUsed s core + tiles ≤ 512 → (∃ e ∈ tab, e.1 = false) → ∃ t h l, exec .lease s = .next t ∧ PmDone s t 1 ∧ 1 ≤ h ∧ h ≤ 65535 ∧
      t.leases = s.leases ++ [l] ∧ l.handle = h ∧ l.core = core ∧ l.borrower = tag ∧ l.count = tiles ∧
      l.ends = s.tick + 1000 * cmdArg1 s ∧ (∀ y ∈ l.tiles, y.z = [] ∧ y.zm = []) ∧
      (getFn t tag).leaseTab = setAt tab (tab.findIdx fun e => !e.1) (true, h) ∧ bytesAt t.mem.hbm (s.pm.addr + 0x10) 2 = h) ∧
  (∀ s l, let h := bits (cmdArg0 s) 0 16
    PmRuns s 9 → s.leases.find? (·.handle == h) = some l → ∃ t, exec .revoke s = .next t ∧ PmDone s t 1 ∧
      (∀ x ∈ t.leases, x.handle ≠ h) ∧ ∀ o ∈ t.ops, o.leaseOf ≠ h) ∧
  (∀ h s l, s.leases.find? (·.handle == h) = some l → l.ends ≤ s.tick → ∃ t, exec (.leaseDurationExpiry h) s = .next t ∧
    (∀ x ∈ t.leases, x.handle ≠ h) ∧ ∀ o ∈ t.ops, o.leaseOf ≠ h) ∧
  (∀ s n u, PmRuns s 13 → claimUnit s = some (n, u) →
    (cmdFlag s 3 = false → (getSlice s n).up = true → (∀ c ∈ s.claims, ¬ (c.slice = n ∧ c.what = u)) →
      ∃ t, exec .claim s = .next t ∧ PmDone s t 1 ∧ t.claims = s.claims ++ [⟨n, u, s.tick, []⟩]) ∧
    (∀ c, cmdFlag s 3 = true → s.claims.find? (fun c => c.slice == n && c.what == u) = some c →
      ∃ t, exec .claimRelease s = .next t ∧ PmDone s t 1 ∧ c ∉ t.claims ∧
        ∀ b, u = .bank b → ∀ k ∈ guestsOf s n, obsGet t k n (256 * b + 0xC0) = 2))

/-- R449, R450: a charge takes from the balance, then makes debt, of which the pool covers what BORROWMAX allows; a period boundary pays
half of REFILL back at most, refills to CAP, and what is over goes to the pool. -/
def Claims.TokenResults : Prop :=
  (∀ tag n s, 2 ≤ tag → tag ≤ 17 → tag < s.fns.length → 0 < n → let k := (getFn s tag).tok
    let own := Nat.min n k.bal
    ∃ t, exec (.tokenCharge tag n) s = .next t ∧ (getFn t tag).tok.bal = k.bal - own ∧
      (getFn t tag).tok.debt = k.debt + (n - own) ∧ t.pool = s.pool - Nat.min (n - own) (k.borrowMax - k.debt) ∧
      (getFn t tag).tok.starving = (k.starving || (k.bal - own == 0 && decide (k.borrowMax ≤ k.debt + (n - own))))) ∧
  (∀ s, s.boundary ≤ s.tick → s.fns.length = 18 → s.leases = [] → s.ops = [] → ∃ t, exec .tokenPeriodBoundary s = .next t ∧
    t.boundary = s.boundary + s.period ∧ ∀ tag, 2 ≤ tag → tag ≤ 17 → let k := (getFn s tag).tok
      let pay := Nat.min k.debt (k.refill / 2)
      (getFn t tag).tok.bal = Nat.min (k.bal + k.refill - pay) k.cap ∧ (getFn t tag).tok.debt = k.debt - pay ∧
      (getFn t tag).passed = false ∧ (getFn t tag).notBehind = (if (getFn s tag).passed then 0 else (getFn s tag).notBehind + 1))

/-- Together: lending; token. -/
def Obligations.LendingAndTokenResults : Prop := Claims.LendingResults ∧ Claims.TokenResults

/-! ### Shed engines and encoder lanes (spec/19 R451–R453, R461, R462, spec/20 R475) -/

/-- R451–R453, R475: an engine that may serve a ring takes up its next entry, and the turn passes to the tenants after this one; the
entry runs to its end and its record is written once a
slot is free; the binding ends after LEASE; a collective whose ranks have all posted completes; an abort marks the collectives
of the tenant that it acts for which list the device, and no other function's. -/
def Claims.ShedResults : Prop :=
  ∀ fn ring s r, getRing s fn ring = some r →
    (∀ p bs, canBind s fn r = true → r.cur = none → vNat s fn r.notify 4 = some p → p ≠ r.head →
      (r.space ≠ 1 ∨ r.seatGen = none ∨ r.seatGen = some (ringGen s r)) → readCmd s fn r r.head = some bs →
      ∃ t q, exec (.shedNotify fn ring) s = .next t ∧ getRing t fn ring = some q ∧
        q.cur = some ⟨r.head, bs, 0, readRanks s fn r, 0⟩ ∧ q.bound = some (r.bound.getD s.tick) ∧ q.head = r.head ∧
        t.shedLast = if r.bound = none then setAt s.shedLast r.cls fn else s.shedLast) ∧
    (∀ b, r.bound = some b → (b + 1000 * r.lease ≤ s.tick ∨ starving s fn = true) → ∃ t q,
      exec (.shedLeaseEnd fn ring) s = .next t ∧ getRing t fn ring = some q ∧ q.bound = none ∧ q.head = r.head) ∧
    (∀ e, r.cur = some e → r.bound ≠ none → recordRoom s fn r = true → e.verdict = 0 → entryOk r.cls e s.fabId.toNat = true →
      (r.cls ≠ 2 →
        let len := field e.bytes 4 4
        let p := runEntry fn e (len - e.progress) (sendEntry fn e (len - e.progress) s)
        let st := if p.1.pois then 4 else if p.1.cause ≠ 0 then 2 else if p.1.bad then 6 else 1
        ∃ t q, exec (.shedEntryComplete fn ring) s = .next t ∧ getRing t fn ring = some q ∧ q.cur = none ∧
          q.head = (e.seq + 1) % 2 ^ 32 ∧ q.recs = (r.recs + 1) % 2 ^ 32 ∧
          t.mem = (writeCpl fn ring st p.1.cause (field e.bytes 2 2) p.1.n
            (if r.cls = 0 then p.1.n else if st = 1 then len else 0) e.seq p.2).mem) ∧
      (∀ (peers : List (List Byte)) mine, r.cls = 2 →
        let f := field e.bytes
        let c := collAux e.bytes
        let n := collBytes (f 0 1) c.ranks (f 4 4)
        let others := (List.range c.ranks).filter (· != c.rank)
        (∀ i ∈ others, peerAllowed s (e.ranks.getD i 0).toNat fn = true ∧ (peers.getD i []).length = n.1) →
        peers.length = c.ranks → vBytes s fn (f 8 8) needR n.1 = .ok mine → vPoison s fn (f 8 8) n.1 = false →
        let srcs := (List.range c.ranks).map fun i => if i = c.rank then mine else peers.getD i []
        let out := collDst (f 0 1) c (f 4 4) s.fresh srcs
        let p := putRun fn (f 0x10 8) (fun i => out.getD i 0) out.length 0 s
        ∃ t q, exec (.collectiveComplete fn ring peers) s = .next t ∧ getRing t fn ring = some q ∧ q.cur = none ∧
          q.head = (e.seq + 1) % 2 ^ 32 ∧ q.recs = (r.recs + 1) % 2 ^ 32 ∧
          (p.1.cause = 0 → t.mem = (writeCpl fn ring 1 0 (field e.bytes 2 2) p.1.n n.1 e.seq p.2).mem))) ∧
    (∀ coll dev e, r.cls = 2 → r.cur = some e → abortHits coll dev e = true → ∃ t, exec (.abortFlit coll dev) s = .next t ∧
      t = { s with fns := t.fns, fresh := s.fresh + 1 } ∧
      (peerTag s dev (abortTag s coll dev) = some fn → getRing t fn ring = some { r with cur := some { e with verdict := 3 } }) ∧
      ∀ k, peerTag s dev (abortTag s coll dev) ≠ some k → getFn t k = getFn s k)

/-- R461, R462: a lane that is idle reads the next frame command; each row of superblocks is encoded once PROGRESS is above it; a frame
is abandoned a millisecond after its deadline; its packet is written when the bitstream ring has room, and the lane is free. -/
def Claims.EncoderResults : Prop :=
  (∀ n s fn i rest r bs, s.boot.stage = 2 → (getSlice s n).up = true → (∀ l, getLane s n = some l → l.busy = false) →
    frameWork s n = (fn, i) :: rest → getFrame s fn i = some r →
    let va := r.cmdBase + 64 * (r.n % 2 ^ r.logn)
    vBytes s fn va needR 64 = .ok bs → vPoison s fn va 64 = false → frameOk bs = true →
    ∃ t l, exec (.encodeFrameStart n) s = .next t ∧ getLane t n = some l ∧ l.fn = fn ∧ l.ring = i ∧ l.busy = true ∧ l.cmd = bs ∧
      l.rows = (field bs 6 2 + 63) / 64 ∧ l.done = 0 ∧ l.ready = false ∧ t.mem = s.mem) ∧
  (∀ n s l, getLane s n = some l → l.busy = true → l.ready = false →
    (∀ v, vNat s l.fn (field l.cmd 0x18 8) 4 = some v → l.done < Nat.max l.seen v → rowReads s l.fn l.cmd l.done = true →
      ∃ t k, exec (.superblockRowEncode n) s = .next t ∧ getLane t n = some k ∧ k.done = l.done + 1 ∧
        k.ready = decide (l.rows ≤ l.done + 1) ∧ k.busy = true ∧ k.status = l.status ∧ t.mem = s.mem) ∧
    (field l.cmd 0x20 8 + 1000000 ≤ s.tick →
      Nat.max l.seen ((vNat s l.fn (field l.cmd 0x18 8) 4).getD 0) < l.rows → ∃ t k, exec (.frameAbandon n) s = .next t ∧
        getLane t n = some k ∧ k.ready = true ∧ k.status = 2 ∧ k.bytes = 0)) ∧
  (∀ n s l r c, getLane s n = some l → l.busy = true → l.ready = true → getFrame s l.fn l.ring = some r →
    vNat s l.fn r.bsCons 4 = some c →
    let len := (packetOf s l r.n).length
    (r.prod + 2 ^ 32 - c % 2 ^ 32) % 2 ^ 32 + len ≤ 2 ^ r.logb → ∃ t k q, exec (.packetWrite n) s = .next t ∧
      getLane t n = some k ∧ k.busy = false ∧ getFrame t l.fn l.ring = some q ∧ q.n = (r.n + 1) % 2 ^ 32 ∧
      q.prod = (r.prod + len) % 2 ^ 32 ∧ len % 16 = 0)

/-- Together: shed; encoder. -/
def Obligations.ShedAndEncoderResults : Prop := Claims.ShedResults ∧ Claims.EncoderResults

/-! ### Errors and resets (spec/20 R464–R478, spec/21 R485) -/

/-- R438, R466, R471, R476, R518: an uncorrectable error in a local region poisons its sector and sets bit 2 of the owner's
status, and is fatal in memory of tag 0. Corrected errors add to their life counter and set one status bit of their owner. A
fatal error, of the causes 1 to 3, stops the device: its cause stands in the dump, its life counters are in flash, and no group
may move; memory stays. -/
def Claims.MemoryErrorResults : Prop :=
  (∀ pa gid s, pa / 2 ^ 35 < 16 → pa % 2 ^ 35 < regionBytes → let tag := chargedTag s pa
    ∃ t, exec (.hbmUeDetected pa gid) s = .next t ∧ peek t.mem.pois (pa / 128) = 1 ∧
      (1 ≤ tag → tag < s.fns.length → (getFn t tag).er.ust.getLsbD 2 = true) ∧
      (tag = 0 → s.dump.fatal = none → t.dump.fatal = some 1)) ∧
  (∀ tag n k count s, 0 < count → 1 ≤ tag → tag ≤ 17 → tag < s.fns.length → n < 16 → k < 262 →
    let off := if k < 6 then 0x940 + 8 * n else 0x140 + 8 * (k - 6)
    ∃ t, exec (.correctedEventSummary tag n k count) s = .next t ∧
      (getFn t tag).er.cst.getLsbD (if k < 6 then 1 else 0) = true ∧
      (peek t.life.live off).toNat = Nat.min ((peek s.life.live off).toNat + count) (2 ^ (if lifeWide off then 64 else 32) - 1)) ∧
  (∀ cause s, 1 ≤ cause → cause ≤ 3 → s.dump.fatal = none → ∃ t, exec (.deviceFatal cause) s = .next t ∧
    t.dump.fatal = some cause ∧ t.life.flash = t.life.live ∧ t.mem = s.mem ∧ ∀ u, mayMove (focus u t) = false)

/-- R473–R476, R485: the request at the head of the reset queue runs, in two steps, and no other. In its first step the slices
that it takes enter state 4; the teams on them are gone with their operations and queries, and where a slice reset takes a shared
slice, or the only slice of a tenant, the tenant loses its context, its submissions and its teams, as it does in the reset of a
virtual function. In its last step the slices return to the state from which they came, and the request leaves the queue. What a reset stops may ask for a further one. Function
Level Reset, in one step, does what a virtual function's reset does, and for the physical function releases every partition as
well. A reset that is not at its end a millisecond after it began is fatal with cause 4, and the queue is empty. -/
def Claims.ResetResults : Prop :=
  (∀ mask s, s.rst.queue.head? ≠ some (.slices mask) → exec (.sliceReset mask) s = .next s) ∧
  (∀ tag s, s.rst.queue.head? ≠ some (.vf tag) → exec (.vfReset tag) s = .next s) ∧
  (∀ mask s rest, s.rst.queue = .slices mask :: rest → s.rst.run = none → s.pm.busy = false → s.slices.length = 16 →
    let ns := (slicesIn mask).filter fun n => (getSlice s n).up
    let ts := wholeTags s ns
    ∃ t x more, exec (.sliceReset mask) s = .next t ∧ t.rst = ⟨s.rst.queue ++ more, s.rst.last, some x⟩ ∧
      x.since = s.tick ∧ x.slices = ns ∧ x.tags = ts ∧
      (∀ n ∈ ns, (getSlice t n).st = 4 ∧ (getSlice t n).was = (getSlice s n).cond) ∧
      (∀ p ∈ allTeams s, p.uid ≠ 0 → p.resid ≠ .gone → (allTeams s).filter (·.uid == p.uid) = [p] →
        (p.slice ∈ ns ∧ ∀ k ∈ ts, p.slice ∉ slicesOf s k) ∨ p.tag ∈ ts →
        Gone t p.uid ∧ (∀ o ∈ t.ops, o.team ≠ p.uid) ∧ ∀ q ∈ t.queries, q.team ≠ p.uid) ∧
      ∀ k ∈ ts, (getFn t k).ctx = none ∧ ∀ x ∈ t.subs, x.tag ≠ k) ∧
  (∀ tag s rest, s.rst.queue = .vf tag :: rest → s.rst.run = none → tag < s.fns.length → s.slices.length = 16 →
    let ns := (slicesOf s tag).filter fun n => (getSlice s n).cond != 2
    ∃ t more, exec (.vfReset tag) s = .next t ∧ t.rst = ⟨s.rst.queue ++ more, s.rst.last, some ⟨s.tick, ns, [tag], []⟩⟩ ∧
      (∀ n ∈ ns, (getSlice t n).st = 4) ∧ ResetTag s t tag) ∧
  (∀ i s r rest x, (∃ mask, i = .sliceReset mask ∧ r = .slices mask) ∨ (∃ tag, i = .vfReset tag ∧ r = .vf tag) →
    s.rst.queue = r :: rest → s.rst.run = some x → ∃ t, exec i s = .next t ∧ t.rst = ⟨rest, 1, none⟩ ∧
      t.slices = s.slices.map (fun z => { z with st := z.cond }) ∧ allTeams t = allTeams s ∧ allGroups t = allGroups s ∧
      t.subs = s.subs) ∧
  (∀ s, (∀ x, s.rst.run = some x → s.tick < x.since + 1000000) → exec .resetEscalation s = .next s) ∧
  (∀ s x, s.rst.run = some x → x.since + 1000000 ≤ s.tick → s.dump.fatal = none → ∃ t, exec .resetEscalation s = .next t ∧
    t.dump.fatal = some 4 ∧ t.rst = ⟨[], 2, none⟩) ∧
  (∀ fn s, s.fns.length = 18 → s.slices.length = 16 →
    (2 ≤ fn → fn ≤ 17 → ∃ t, exec (.functionLevelReset fn) s = .next t ∧ ResetTag s t fn) ∧
    (fn = 1 → ∃ t, exec (.functionLevelReset 1) s = .next t ∧ ∀ tag, 2 ≤ tag → tag ≤ 17 →
      (getFn t tag).ctx = none ∧ slicesOf t tag = []))

/-- Together: memory error; reset. -/
def Obligations.ErrorAndResetResults : Prop := Claims.MemoryErrorResults ∧ Claims.ResetResults

/-! ### Start, firmware, identity, ownership (spec/21 R494–R500, spec/23 R519) -/

/-- R494–R497: power-on runs the slot selected where it verifies, else the other, else the device halts; slices come up in order,
scrubbed, and S2 follows the last; a cold reset returns to power-on, with what flash and fuses keep. -/
def Claims.StartResults : Prop :=
  (∀ s, s.boot.stage = 0 → s.boot.ready = false → let b := s.fw.nextB
    ∃ t, exec .powerGood s = .next t ∧
      (peek t.life.live 0x10).toNat = Nat.min ((peek s.life.live 0x10).toNat + 1) (2 ^ 32 - 1) ∧
      (slotRuns s b = true → t.boot.ready = true ∧ t.boot.slotB = b ∧ t.fw.runB = b ∧ t.boot.stage = 0) ∧
      (slotRuns s b = false → slotRuns s (!b) = true → t.boot.ready = true ∧ t.boot.slotB = !b ∧ t.fw.runB = !b) ∧
      (slotRuns s b = false → slotRuns s (!b) = false → t.boot.ready = false ∧ t.boot.stage = 3)) ∧
  (∀ n s, s.boot.ready = true → s.boot.stage ≤ 1 → n < 16 → s.slices.length = 16 → (getSlice s n).up = false →
    excluded s n = false → (∀ k, k < n → (getSlice s k).up = true ∨ excluded s k = true) →
    (∃ t, exec (.sliceBringup n true) s = .next t ∧ t.boot.stage = 1 ∧ (getSlice t n).up = true ∧ (getSlice t n).st = 0 ∧
      ∀ a, n * 2 ^ 35 ≤ a → a < n * 2 ^ 35 + regionBytes → peek t.mem.hbm a = 0 ∧ peek t.mem.key a = 0) ∧
    (n % 2 = 0 → ∃ t, exec (.sliceBringup n false) s = .next t ∧ t.boot.stage = 1 ∧ t.boot.stkFail.getLsbD (n / 2) = true ∧
      t.slices = s.slices)) ∧
  (∀ s, s.boot.stage = 1 → (∀ k, k < 16 → (getSlice s k).up = true ∨ excluded s k = true) → ∃ t, exec .stageS2 s = .next t ∧
    t = { s with boot := { s.boot with stage := 2 } }) ∧
  (∀ s, ∃ t, exec .packageColdReset s = .next t ∧ t.boot = State.reset.boot ∧ t.g = Group.blank ∧ t.mem.hbm = [] ∧
    t.slices = State.reset.slices ∧ t.fns = State.reset.fns ∧ t.own = State.reset.own ∧ t.fw.slotA = s.fw.slotA ∧
    t.fw.slotB = s.fw.slotB ∧ t.fw.nextB = s.fw.nextB ∧ t.fw.svnMin = s.fw.svnMin ∧ t.life.live = s.life.live ∧
    t.dump.fatal = none)

/-- R497, R498, R519: the firmware commands of the owner, RESULT 3 for another port; and the answers of the SPDM responder, whose
measurements 2 and 5 are those of the running body and of the slices. -/
def Claims.FirmwareResults : Prop :=
  (∀ p s, s.boot.ready = true → s.boot.stage ≠ 3 →
    (s.own.owner ≠ some p → ∀ i, i = .fwErase p ∨ i = .fwWritePage p ∨ i = .fwVerify p ∨ i = .fwSelect p ∨ i = .fwRaiseSvn p →
      exec i s = .next { s with fw := { s.fw with result := 3 } }) ∧
    (s.own.owner = some p →
      (∃ t, exec (.fwErase p) s = .next t ∧ otherSlot t = ⟨some [], false⟩ ∧ t.fw.result = 1 ∧ t.fw.runB = s.fw.runB) ∧
      (∃ t m, exec (.fwWritePage p) s = .next t ∧ (otherSlot t).image = some m ∧ (otherSlot t).verified = false ∧
        t.fw.result = 1 ∧ ∀ i, i < 4096 → peek m (4096 * s.fw.page.toNat + i) = peek s.fw.staged i) ∧
      (∃ t, exec (.fwVerify p) s = .next t ∧ (otherSlot t).verified = slotRuns s (!s.fw.runB) ∧
        (otherSlot t).image = (otherSlot s).image ∧ t.fw.result = if slotRuns s (!s.fw.runB) then 1 else 2) ∧
      (∃ t, exec (.fwSelect p) s = .next t ∧ t.fw.nextB = (if (otherSlot s).verified then !s.fw.runB else s.fw.nextB) ∧
        t.fw.result = if (otherSlot s).verified then 1 else 2) ∧
      (∃ t, exec (.fwRaiseSvn p) s = .next t ∧ t.fw.result = 1 ∧
        t.fw.svnMin.toNat = Nat.max s.fw.svnMin.toNat s.fw.svn.toNat))) ∧
  (∀ fn nonce s, s.boot.ready = true → fn ≠ 0 → fn < s.fns.length →
    (∃ t bs, exec (.spdmGetCertificate fn) s = .next t ∧ getFn t fn = { getFn s fn with spdm := bs } ∧
      t = { s with fresh := s.fresh + 1, fns := t.fns }) ∧
    (∃ t bs, exec (.spdmChallenge fn nonce) s = .next t ∧ getFn t fn = { getFn s fn with spdm := bs } ∧ bs.length = 29792) ∧
    (∃ t a b c d sig, exec (.spdmGetMeasurements fn nonce) s = .next t ∧
      (getFn t fn).spdm = a ++ shake256 (runningBody s) 64 ++ b ++ c ++ d ++ sig ∧
      d = shake256 ((measuredSlices s fn).flatMap fun n => natBytes (slState s n) 4) 64 ∧
      a.length = 64 ∧ b.length = 64 ∧ c.length = 64 ∧ sig.length = 29792))

/-- Together: start; firmware. -/
def Obligations.StartAndFirmwareResults : Prop := Claims.StartResults ∧ Claims.FirmwareResults

/-- R499, R500: a port claims, withdraws, renews and hands the device on; an election gives it to the highest priority, on a tie to the
lowest port; an owner whose lease has run out loses it, and every loaded context is reset. -/
def Obligations.OwnershipResults : Prop :=
  ∀ s, ownServes s = true →
    (∀ p prio, p < 4 → ∃ t, exec (.ownClaim p prio) s = .next t ∧ t.own.owner = s.own.owner ∧
      (∀ c, c ∈ t.own.claims ↔ c = (p, prio % 16) ∨ (c ∈ s.own.claims ∧ c.1 ≠ p)) ∧
      t.own.election = if s.own.owner = none ∧ s.own.election = none then some (s.tick + 10 * msec) else s.own.election) ∧
    (∀ p, ∃ t, exec (.ownWithdraw p) s = .next t ∧ t.own.owner = s.own.owner ∧
      ∀ c, c ∈ t.own.claims ↔ c ∈ s.own.claims ∧ c.1 ≠ p) ∧
    (∀ p, s.own.owner = some p → ∃ t, exec (.ownRenew p) s = .next t ∧
      t = { s with own := { s.own with ends := s.tick + s.own.lease * msec } }) ∧
    (∀ p q, s.own.owner = some p → s.own.numVfs = 0 → (∃ prio, (q, prio) ∈ s.own.claims) → ∃ t, exec (.ownHand p q) s = .next t ∧
      t.own.owner = some q ∧ t.own.ends = s.tick + s.own.lease * msec ∧ ∀ c ∈ t.own.claims, c.1 ≠ q) ∧
    (∀ e, s.own.owner = none → s.own.election = some e → e ≤ s.tick → s.own.claims ≠ [] → ∃ t c, exec .electionClose s = .next t ∧
      c ∈ s.own.claims ∧ t.own.owner = some c.1 ∧ t.own.election = none ∧ t.own.ends = s.tick + s.own.lease * msec ∧
      ∀ d ∈ s.own.claims, d.2 < c.2 ∨ (d.2 = c.2 ∧ c.1 ≤ d.1)) ∧
    (∀ p, s.own.owner = some p → s.own.ends ≤ s.tick → s.fns.length = 18 → ∃ t, exec .ownerLeaseExpiry s = .next t ∧
      t.own.owner = none ∧ t.own.election = (if s.own.claims = [] then none else some (s.tick + 10 * msec)) ∧
      ∀ tag, 1 ≤ tag → tag ≤ 17 → (getFn t tag).ctx = none)

/-! ### Links, telemetry, life counters (spec/21 R479–R483, R502, spec/23 R511–R517) -/

/-- R479, R480, R482, R483, R502: a transaction is sent where the credits of its channel cover it, and spends them, else it waits; flits
in order, NAK for one that fails its CRC; a port retrains, comes back with what waited, goes down after 10 ms and tries again
after 100 ms; a peer's store that FAB_PEER and the windows admit is performed. -/
def Obligations.LinkResults : Prop :=
  (∀ (p : Port) (x : Xact), let c := p.credits.getD x.vc (0, 0)
    (p.retraining = false → 1 ≤ c.1 → x.slots ≤ c.2 → (∀ y ∈ p.held, x.passes y = true) →
      p.offer x = { p with credits := modAt p.credits x.vc fun c => (c.1 - 1, c.2 - x.slots) }) ∧
    ((p.retraining = true ∨ c.1 = 0 ∨ c.2 < x.slots ∨ ∃ y ∈ p.held, x.passes y = false) →
      p.offer x = { p with held := p.held ++ [x] })) ∧
  (∀ p s, p < s.ports.length → let x := getPort s p
    (∀ seq ack nak, trained s p = true → x.up = true → x.retraining = false →
      (∃ t, exec (.flitReceived p seq ack nak false) s = .next t ∧ getPort t p = { x with nak := true }) ∧
      ∃ t, exec (.flitReceived p seq ack nak true) s = .next t ∧ (getPort t p).acked = ack ∧
        ((x.rxAny = false ∨ seq = x.rx + 1) → (getPort t p).rx = seq ∧ (getPort t p).nak = false) ∧
        (x.rxAny = true → seq ≠ x.rx + 1 → (getPort t p).rx = x.rx ∧ (getPort t p).nak = x.nak)) ∧
    (trained s p = true → x.up = true → x.retraining = false → ∃ t, exec (.linkRetrain p) s = .next t ∧
      getPort t p = { x with retraining := true, since := s.tick, replays := 0 }) ∧
    (x.retraining = true → (∃ t, exec (.linkRetrained p) s = .next t ∧
        getPort t p = Port.drain { x with retraining := false, up := true } ∧
        (x.held = [] → getPort t p = { x with retraining := false, up := true })) ∧
      (x.since + 10 * msec ≤ s.tick → ∃ t, exec (.portDown p) s = .next t ∧
        getPort t p = { x with retraining := false, up := false, held := [] })) ∧
    (trained s p = true → x.up = false → x.retraining = false → x.since + 100 * msec ≤ s.tick →
      ∃ t, exec (.portRetry p) s = .next t ∧ getPort t p = { x with retraining := true, since := s.tick, replays := 0 })) ∧
  (∀ dev tag addr (data : List Byte) s l, s.boot.stage = 2 → peerTag s dev tag = some l → 2 ≤ l → l ≤ 17 →
    let kid := Config.free .peer [dev, tag, addr, s.fresh] % 4096
    (∀ i, i < data.length → localOk s l (addr + i) kid false = true) → keyOk s l kid = true →
    ∃ t, exec (.peerRequest dev tag true addr data) s = .next t ∧
      ∀ i, i < data.length → peek t.mem.hbm (addr + i) = data.getD i 0)

/-- R511–R516: a telemetry sample sets LEVEL by the causes it shows, a trip stops the device and loses its HBM contents with no dump;
the life counters go to flash, to the read image, and are kept over power-down but for what an abrupt loss of power misses. -/
def Obligations.TelemetryAndLifeResults : Prop :=
  (∀ x s, s.boot.ready = true → s.boot.stage ≠ 3 → s.tel.last + 100000 ≤ s.tick → let a := activeCauses s.tel.cap x
    ∃ t, exec (.telemetrySample x) s = .next t ∧ t.tel.sample = x ∧ t.tel.last = s.tick ∧ t.tel.active = a ∧
      t.tel.sticky = s.tel.sticky ||| a ∧
      t.tel.level = (if a ≠ 0 then Nat.min (s.tel.level + 1) 8
        else if s.tel.lastActive + msec ≤ s.tick then s.tel.level - 1 else s.tel.level)) ∧
  (∀ c s, s.boot.stage ≠ 3 → tripDue c s = true → ∃ t, exec (.thermalTrip c) s = .next t ∧ t.boot.stage = 3 ∧ t.boot.trip = true ∧
    t.mem.hbm = [] ∧ t.life.flash = t.life.live ∧ t.dump = s.dump) ∧
  (∀ s, ∃ t, exec .lifeCounterFlush s = .next t ∧ t = { s with life := { s.life with flash := s.life.live } }) ∧
  (∀ s, s.boot.stage ≠ 0 → ∃ t, exec .lcSnapshot s = .next t ∧ t.life.valid = true ∧ t.life.image = lifeImage s ∧
    t.life.live = s.life.live) ∧
  (∀ s, ∃ t, exec .orderlyPowerDown s = .next t ∧ t.life.live = s.life.live ∧ t.boot = State.reset.boot ∧ t.mem.hbm = []) ∧
  (∀ s, ∃ t, exec .abruptLossOfPower s = .next t ∧ t.life.live = s.life.flash ∧ t.boot = State.reset.boot ∧ t.mem.hbm = [] ∧
    t.dump.lastImage = s.dump.lastImage)

/-! ### Reset, the start of a group, and the invariant (spec/01 R15, spec/10 R290, spec/21 R495) -/

/-- R142, R439, R469, R488, R494, R495, R499: the registers at power-on read the reset values of their tables; a slice that is not yet up
reads SL_STATE 5. No group runs. -/
def Obligations.ResetValues : Prop :=
  let s := State.reset
  s.tick = 0 ∧ s.g.uid = 0 ∧ s.gs = [] ∧ s.ts = [] ∧
  (∀ fn, 1 ≤ fn → fn ≤ 17 →
    (∀ r ∈ [BarReg.cxDesc, .apBase, .tiVa, .tiStat, .erUst, .erUmsk, .erCst, .erCmsk], regRead s fn r = 0) ∧
    regRead s fn .erUsev = 0x082 ∧ regRead s fn .erCtl = 1 ∧ (∀ n, n < 4 → regRead s fn (.erHlog n) = 0) ∧
    ∀ q, q < 16 → regRead s fn (.sqCtl q) = 4 ∧ regRead s fn (.sqBase q) = 0 ∧ regRead s fn (.sqTail q) = 0 ∧
      regRead s fn (.sqHead q) = 0 ∧ regRead s fn (.sqDone q) = 0) ∧
  regRead s 1 .pmCaddr = 0 ∧ regRead s 1 .pmStat = 0 ∧ regRead s 1 .bootStat = 0 ∧ regRead s 1 .ownStat = 0 ∧
  regRead s 1 .ownLease = 10000 ∧
  ∀ n, n < 16 → regRead s 1 (.slStateOf n) = 5 * 2 ^ 28 + 1 * 2 ^ 16 + n * 2 ^ 8

/-- R15, R145, R290: a group that starts reads zero in every vector, operand-file, predicate and edge register, its stack is empty, its
gang registers are invalid, EM holds every lane below GW, and its uniform registers hold the launch inputs. -/
def Claims.GroupStartResults : Prop :=
  ∀ t gidx slot sig entry s, let d := t.desc
    let ins := Origin.inputs t.origin
    ∃ x, (startGroup t gidx slot sig entry s).gs = s.gs ++ [x] ∧ x.uid = s.nextUid ∧ x.team = t.uid ∧ x.gidx = gidx ∧
      (∀ r l, x.vAt r l = 0 ∧ x.oAt r l = 0) ∧ (∀ n, n < 7 → x.pAt n = 0) ∧ (∀ i, peek x.e i = 0) ∧
      (∀ k ∈ x.k, k.valid = false) ∧ x.bank.stk = [] ∧ x.sh = none ∧ x.em = laneMask d.gw ∧ x.live = laneMask d.gw ∧
      x.fflags = 0 ∧ x.gPair 0 = t.argp ∧ x.gPair 2 = BitVec.ofNat 64 ins.1 ∧ x.gPair 4 = BitVec.ofNat 64 ins.2 ∧
      x.gPair 58 = BitVec.ofNat 64 (if d.gstack = 0 then 0 else d.gstack + (t.idx * d.ngrp + gidx + 1) * d.gstksz) ∧
      x.gAt 62 = BitVec.ofNat 32 (d.pad - gidx * d.pdstk) ∧
      ∀ r, 6 ≤ r → r ≠ 58 → r ≠ 59 → r ≠ 62 → x.gAt r = 0

/-- Together: group start; group end; yield. -/
def Obligations.GroupLifeResults : Prop := Claims.GroupStartResults ∧ Claims.GroupEndResults ∧ Claims.YieldResult

/-- The invariant holds at reset: memory in canonical form, with the functions, slices and ports of the device. -/
def Obligations.InvariantAtReset : Prop := DeviceInv State.reset

/-- From every state that has it, every step that goes on keeps it, whatever moves: memory stays in canonical form, so that equal
memories are equal data, and no function, slice or port comes or goes. -/
def Obligations.StepKeepsInvariant : Prop := ∀ s t, DeviceInv s → step s = .next t → DeviceInv t

end Statements
end

