-- ==== Sys2Proof/Laws/Cells.lean ====
section
/-!
SUPPORT. Laws of sparse memories: reading after writing, writing elsewhere, and the canonical form that every operation
keeps.
-/
namespace Sys2Proof.Machine

theorem peek_dropKey_self {w : Nat} (m : Cells w) (a : Nat) : peek (dropKey m a) a = 0 := by
  induction m with
  | nil => rfl
  | cons c m ih =>
    by_cases h : c.1 = a
    · simpa [dropKey, h] using ih
    · simpa [dropKey, peek, h] using ih

theorem peek_dropKey_ne {w : Nat} (m : Cells w) {a b : Nat} (h : b ≠ a) : peek (dropKey m a) b = peek m b := by
  induction m with
  | nil => rfl
  | cons c m ih =>
    by_cases hc : c.1 = a
    · have : c.1 ≠ b := fun e => h (e.symm.trans hc)
      simp [dropKey, peek, hc, ih, Ne.symm h]
    · by_cases hb : c.1 = b
      · have hba : b ≠ a := h
        simp [dropKey, peek, hb, hba]
      · simp [dropKey, peek, hc, hb, ih]

/-- No entry of a key. -/
def NoKey {w : Nat} (m : Cells w) (a : Nat) : Prop := ∀ c ∈ m, c.1 ≠ a

theorem noKey_dropKey {w : Nat} (m : Cells w) (a : Nat) : NoKey (dropKey m a) a := by
  induction m with
  | nil => intro c hc; cases hc
  | cons c m ih =>
    by_cases h : c.1 = a
    · simpa [dropKey, h] using ih
    · intro d hd
      rw [show dropKey (c :: m) a = c :: dropKey m a by simp [dropKey, h]] at hd
      cases List.mem_cons.1 hd with
      | inl e => subst e; exact h
      | inr e => exact ih d e

theorem peek_insKey_self {w : Nat} (m : Cells w) (a : Nat) (x : BitVec w) (h : NoKey m a) : peek (insKey m a x) a = x := by
  induction m with
  | nil => simp [insKey, peek]
  | cons c m ih =>
    have hc : c.1 ≠ a := h c (by simp)
    have hm : NoKey m a := fun d hd => h d (by simp [hd])
    by_cases hl : a < c.1
    · simp [insKey, peek, hl]
    · simp [insKey, peek, hl, hc, ih hm]

theorem peek_insKey_ne {w : Nat} (m : Cells w) {a b : Nat} (x : BitVec w) (h : b ≠ a) :
    peek (insKey m a x) b = peek m b := by
  induction m with
  | nil => simp [insKey, peek, Ne.symm h]
  | cons c m ih =>
    by_cases hl : a < c.1
    · simp [insKey, peek, hl, Ne.symm h]
    · simp [insKey, peek, hl, ih]

/-- A read after a write to the same address gives the value written. -/
@[simp] theorem peek_poke_self {w : Nat} (m : Cells w) (a : Nat) (x : BitVec w) : peek (poke m a x) a = x := by
  unfold poke
  split
  · next h => rw [peek_dropKey_self, h]
  · exact peek_insKey_self _ _ _ (noKey_dropKey m a)

/-- A write leaves every other address alone. -/
theorem peek_poke_ne {w : Nat} (m : Cells w) {a b : Nat} (x : BitVec w) (h : b ≠ a) : peek (poke m a x) b = peek m b := by
  unfold poke
  split
  · exact peek_dropKey_ne m h
  · rw [peek_insKey_ne _ _ h, peek_dropKey_ne m h]

theorem peek_poke {w : Nat} (m : Cells w) (a b : Nat) (x : BitVec w) :
    peek (poke m a x) b = if b = a then x else peek m b := by
  by_cases h : b = a
  · subst h; simp
  · simp [h, peek_poke_ne m x h]

theorem peek_pokeN {w : Nat} (m : Cells w) (a b : Nat) (f : Nat → BitVec w) (n : Nat) :
    peek (pokeN m a f n) b = if a ≤ b ∧ b < a + n then f (b - a) else peek m b := by
  induction n with
  | zero => have : ¬(a ≤ b ∧ b < a) := by omega
            simp [pokeN, this]
  | succ n ih =>
    rw [pokeN, peek_poke, ih]
    by_cases h : b = a + n
    · subst h; simp
    · by_cases h2 : a ≤ b ∧ b < a + n
      · have : a ≤ b ∧ b < a + (n + 1) := by omega
        simp [h, h2, this]
      · have : ¬(a ≤ b ∧ b < a + (n + 1)) := by omega
        simp [h, h2, this]

theorem peek_pokeBytes (m : Cells 8) (a b n x : Nat) :
    peek (pokeBytes m a n x) b = if a ≤ b ∧ b < a + n then BitVec.ofNat 8 (x / 256 ^ (b - a)) else peek m b :=
  peek_pokeN m a b _ n

/-! ### The canonical form -/

theorem cellsFrom_mono {w : Nat} {lo lo' : Nat} {m : Cells w} (h : lo' ≤ lo) (hm : cellsFrom lo m = true) :
    cellsFrom lo' m = true := by
  cases m with
  | nil => rfl
  | cons c m =>
    simp only [cellsFrom, Bool.and_eq_true, decide_eq_true_eq] at *
    exact ⟨⟨Nat.le_trans h hm.1.1, hm.1.2⟩, hm.2⟩

theorem cellsFrom_filter {w : Nat} (p : Nat × BitVec w → Bool) {lo : Nat} {m : Cells w} (h : cellsFrom lo m = true) :
    cellsFrom lo (m.filter p) = true := by
  induction m generalizing lo with
  | nil => rfl
  | cons c m ih =>
    simp only [cellsFrom, Bool.and_eq_true, decide_eq_true_eq] at h
    rw [List.filter_cons]
    split
    · simp only [cellsFrom, Bool.and_eq_true, decide_eq_true_eq]
      exact ⟨h.1, ih h.2⟩
    · exact cellsFrom_mono (by omega) (ih h.2)

theorem dropKey_eq_filter {w : Nat} (m : Cells w) (a : Nat) : dropKey m a = m.filter (fun c => c.1 != a) := by
  induction m with
  | nil => rfl
  | cons c m ih => by_cases h : c.1 = a <;> simp [dropKey, h, ih]

theorem cellsFrom_insKey {w : Nat} {lo a : Nat} {x : BitVec w} {m : Cells w} (hx : x ≠ 0) (hl : lo ≤ a)
    (hn : NoKey m a) (h : cellsFrom lo m = true) : cellsFrom lo (insKey m a x) = true := by
  induction m generalizing lo with
  | nil => simpa [insKey, cellsFrom, hl] using hx
  | cons c m ih =>
    have hc : c.1 ≠ a := hn c (by simp)
    have hm : NoKey m a := fun d hd => hn d (by simp [hd])
    simp only [cellsFrom, Bool.and_eq_true, decide_eq_true_eq] at h
    by_cases hlt : a < c.1
    · simp only [insKey, hlt, if_true, cellsFrom, Bool.and_eq_true, decide_eq_true_eq]
      exact ⟨⟨hl, hx⟩, ⟨⟨by omega, h.1.2⟩, h.2⟩⟩
    · simp only [insKey, hlt, if_false, cellsFrom, Bool.and_eq_true, decide_eq_true_eq]
      exact ⟨h.1, ih (by omega) hm h.2⟩

/-- A write keeps the canonical form. -/
theorem wf_poke {w : Nat} {m : Cells w} (a : Nat) (x : BitVec w) (h : m.wf = true) : Cells.wf (poke m a x) = true := by
  unfold Cells.wf at *
  have hd : cellsFrom 0 (dropKey m a) = true := by rw [dropKey_eq_filter]; exact cellsFrom_filter _ h
  unfold poke
  split
  · exact hd
  · next hx => exact cellsFrom_insKey hx (Nat.zero_le _) (noKey_dropKey m a) hd

theorem wf_filter {w : Nat} {m : Cells w} (p : Nat × BitVec w → Bool) (h : m.wf = true) : Cells.wf (m.filter p) = true :=
  cellsFrom_filter p h

theorem wf_clearRange {w : Nat} {m : Cells w} (a n : Nat) (h : m.wf = true) : (clearRange m a n).wf = true :=
  cellsFrom_filter _ h

theorem wf_pokeN {w : Nat} {m : Cells w} (a : Nat) (f : Nat → BitVec w) (n : Nat) (h : m.wf = true) :
    (pokeN m a f n).wf = true := by
  induction n with
  | zero => exact h
  | succ n ih => exact wf_poke _ _ ih

theorem wf_pokeBytes {m : Cells 8} (a n x : Nat) (h : m.wf = true) : (pokeBytes m a n x).wf = true := wf_pokeN _ _ _ h

/-- In canonical form a listed address reads as its entry, which is not 0. -/
theorem peek_ne_zero_of_mem {w : Nat} {lo : Nat} {m : Cells w} (h : cellsFrom lo m = true) {c : Nat × BitVec w}
    (hc : c ∈ m) : peek m c.1 = c.2 ∧ c.2 ≠ 0 ∧ lo ≤ c.1 := by
  induction m generalizing lo with
  | nil => cases hc
  | cons d m ih =>
    simp only [cellsFrom, Bool.and_eq_true, decide_eq_true_eq] at h
    cases List.mem_cons.1 hc with
    | inl e => subst e; exact ⟨by simp [peek], h.1.2, h.1.1⟩
    | inr e =>
      obtain ⟨h1, h2, h3⟩ := ih h.2 e
      have : d.1 ≠ c.1 := by omega
      exact ⟨by simp [peek, this, h1], h2, by omega⟩

end Sys2Proof.Machine
end

