-- ==== Sys2Proof/Laws/Issue.lean ====
section
/-!
SUPPORT. What issuing an instruction can do: its outcome is always a next state; the start of an instruction, the next
position of a run and path switching leave registers and the rest of the device alone.
-/
namespace Sys2Proof.Machine

/-! ### Issue -/

/-- An instruction that passes its checks does what its body says. -/
theorem issue_eq {i : Instr} {s : State} {e : Enc} (h : Issues i s e) (body : Enc → State → Act) :
    issue i s body = match body e (beginIssue e s) with
      | .ok t => .next t
      | .fault f => .next (takeFault f s) := by
  obtain ⟨h1, h2⟩ := h
  cases h3 : body e (beginIssue e s) <;> simp [issue, h1, h2, h3]

/-- A body that cannot fault runs through. -/
theorem issue_plain {i : Instr} {s : State} {e : Enc} (h : Issues i s e) (f : Enc → State → State) :
    issue i s (plain f) = .next (seqNext e (f e (beginIssue e s))) := by rw [issue_eq h]; rfl

/-- Whatever the checks find, an instruction answers a next state. -/
theorem issue_next (i : Instr) (s : State) (body : Enc → State → Act) : ∃ t, issue i s body = .next t := by
  unfold issue
  cases toEnc i with
  | none => exact ⟨_, rfl⟩
  | some e =>
    cases h : issueFault e s with
    | some f => exact ⟨takeFault f s, by simp [h]⟩
    | none =>
      cases hb : body e (beginIssue e s) with
      | ok t => exact ⟨t, by simp [h, hb]⟩
      | fault f => exact ⟨takeFault f s, by simp [h, hb]⟩

/-! ### Walking on: the fields that fetch, runs and path switching change -/

/-- y is x with another place: PC, EM, state, run, latches and divergence stack. -/
def Walked (x y : Group) : Prop :=
  ∃ stk, y = { x.setStk stk with pc := y.pc, em := y.em, stat := y.stat, runPos := y.runPos, lat := y.lat,
                                 latm := y.latm, runReads := y.runReads }

theorem setStk_self (x : Group) : x.setStk x.bank.stk = x := by
  unfold Group.setStk Group.onBank Group.bank
  cases h : x.sh with
  | none => simp only; rw [← h]
  | some k => simp only; rw [← h]

/-- Replacing the stack twice is replacing it once, whatever place was taken in between. -/
theorem setStk_setStk (x : Group) (a b : List DivEntry) (pc : VA) (em : Mask) (st : GStat) (n : Nat) (l : Cells 32)
    (m : Cells 1) (r : List Nat) :
    Group.setStk b { x.setStk a with pc := pc, em := em, stat := st, runPos := n, lat := l, latm := m, runReads := r } =
      { x.setStk b with pc := pc, em := em, stat := st, runPos := n, lat := l, latm := m, runReads := r } := by
  unfold Group.setStk Group.onBank
  cases x.sh <;> simp

/-- Replacing the stack changes nothing else that a place has. -/
theorem setStk_place (x : Group) (a : List DivEntry) :
    (x.setStk a).pc = x.pc ∧ (x.setStk a).em = x.em ∧ (x.setStk a).stat = x.stat ∧ (x.setStk a).runPos = x.runPos ∧
    (x.setStk a).lat = x.lat ∧ (x.setStk a).latm = x.latm ∧ (x.setStk a).runReads = x.runReads := by
  unfold Group.setStk Group.onBank
  cases x.sh <;> simp

theorem Walked.refl (x : Group) : Walked x x := ⟨x.bank.stk, by rw [setStk_self]⟩

theorem Walked.trans {x y z : Group} (h : Walked x y) (k : Walked y z) : Walked x z := by
  obtain ⟨a, ha⟩ := h
  obtain ⟨b, hb⟩ := k
  exact ⟨b, by rw [hb, ha, setStk_setStk]⟩

theorem walked_endRun (x : Group) : Walked x x.endRun := ⟨x.bank.stk, by rw [setStk_self]; rfl⟩

/-- Another place under another stack. -/
theorem walked_mk (x : Group) (stk : List DivEntry) (pc : VA) (em : Mask) (st : GStat) (n : Nat) (l : Cells 32)
    (m : Cells 1) (r : List Nat) :
    Walked x { x.setStk stk with pc := pc, em := em, stat := st, runPos := n, lat := l, latm := m, runReads := r } :=
  ⟨stk, rfl⟩

theorem walked_pop (x : Group) (join : VA) (e : DivEntry) (rest : List DivEntry) : Walked x (x.pop join e rest) := by
  refine ⟨rest, ?_⟩
  unfold Group.pop Group.endRun Group.setStk Group.onBank
  cases x.sh <;> rfl

theorem walked_cross (x : Group) (pc : VA) (em : Mask) (l : Other) (e : DivEntry) (rest : List DivEntry) :
    Walked x (x.cross pc em l e rest) := by
  refine ⟨{ e with onTaken := !e.onTaken, other := l } :: rest, ?_⟩
  unfold Group.cross Group.endRun Group.setStk Group.onBank
  cases x.sh <;> rfl

theorem walked_stat (x : Group) (st : GStat) : Walked x { x with stat := st } := ⟨x.bank.stk, by rw [setStk_self]⟩
theorem walked_pc (x : Group) (pc : VA) : Walked x { x with pc := pc } := ⟨x.bank.stk, by rw [setStk_self]⟩
theorem walked_em (x : Group) (m : Mask) : Walked x { x with em := m } := ⟨x.bank.stk, by rw [setStk_self]⟩

theorem walked_settleGo (nrm : VA → VA) (fin : Bool) (n : Nat) (x : Group) : Walked x (settleGo nrm fin n x) := by
  induction n generalizing x with
  | zero => exact .refl x
  | succ n ih =>
    unfold settleGo
    cases hb : x.bank.stk with
    | nil =>
      dsimp only
      split
      · exact (walked_em x _).trans (walked_endRun _)
      · exact .refl x
    | cons e rest =>
      dsimp only
      split
      · split
        · exact (walked_pop x _ e rest).trans (ih _)
        · cases e.other with
          | fresh pc em => exact (walked_cross x _ _ _ e rest).trans (ih _)
          | yielded pc em => exact (walked_cross x _ _ _ e rest).trans (ih _)
          | waiting pc em w => exact (walked_cross x _ _ _ e rest).trans (walked_stat _ _)
          | done => exact .refl x
      · exact .refl x

/-- `settle` changes the group in focus alone, and there only its place. -/
theorem settle_spec (fin : Bool) (s : State) : ∃ y, settle fin s = { s with g := y } ∧ Walked s.g y :=
  ⟨_, rfl, walked_settleGo _ _ _ _⟩

theorem goto_spec (va : VA) (s : State) : ∃ y, goto va s = { s with g := y } ∧ Walked s.g y :=
  ⟨_, rfl, ((walked_pc s.g _).trans (walked_endRun _)).trans (walked_settleGo _ _ _ _)⟩

/-- The next position of a run, or a new run: the group in focus alone, and there only its place. -/
theorem seqNext_spec (e : Enc) (s : State) : ∃ y, seqNext e s = { s with g := y } ∧ Walked s.g y := by
  refine ⟨_, rfl, ?_⟩
  dsimp only
  refine Walked.trans ?_ (walked_settleGo _ _ _ _)
  split
  · exact ⟨s.g.bank.stk, by rw [setStk_self]⟩
  · exact (walked_pc s.g _).trans (walked_endRun _)

end Sys2Proof.Machine
end

