-- ==== Sys2Proof/Laws/Keeps.lean ====
section
/-!
SUPPORT. Every operation over the state keeps the invariant of the machine (Safety.DeviceInv): memory stays in canonical form, and
no function, slice or port comes or goes. One lemma an operation, from the memory operations up to the shared bodies of the
meanings.
-/
namespace Sys2Proof.Machine

/-! ### Updates -/

/-- An update of anything but memory, functions, slices and ports. -/
theorem DeviceInv.mk_same {X : State}
    {v0 v1 v2 v3 v4 v5 v6 v7 v9 v10 v11 v12 v13 v14 v15 v16 v17 v18 v19 v20 v21 v23 v24 v25 v26 v27 v28 v29 v30 v32
    v33 v34 v35 v36 v37 v38 v39 v40 v41 v42 v43 v44 v45 v46 v48 v49 v50 v51 v52 v53 v54 v55 v56} :
    DeviceInv
      { X with
        agenda := v0, fresh := v1, nextUid := v2, tick := v3, g := v4, gs := v5, t := v6, ts := v7, tlb := v9,
        l1 := v53, l2 := v54, heldCr := v55,
        ops := v10, mons := v11, gens := v12, inst := v13, queries := v14, qseq := v15, subs := v16, ready := v17,
        runs := v18, launches := v19, ways := v20, lineSig := v21, evc := v23, obs := v24, elig := v25, stall := v26,
        wdog := v27, wext := v28, trLost := v29, wpq := v30, keyOwner := v32, keyShare := v33, keyGen := v34,
        pm := v35, rst := v36, pool := v37, period := v38, boundary := v39, leases := v40, elastics := v41,
        claims := v42, lanes := v43, shedLast := v56, boot := v44, fw := v45, own := v46, fabId := v48, fabPeer := v49, tel := v50,
        life := v51, dump := v52 } ↔ DeviceInv X :=
  ⟨fun h => ⟨h.1, h.2, h.3, h.4⟩, fun h => ⟨h.1, h.2, h.3, h.4⟩⟩

/-- An update of memory that keeps the canonical form. -/
theorem DeviceInv.mk_mem {s : State} {m : Mem} (h : DeviceInv s) (hm : Memory.wf m = true) : DeviceInv { s with mem := m } :=
  ⟨hm, h.2, h.3, h.4⟩

theorem length_modAt {α : Type} (l : List α) (i : Nat) (f : α → α) : (modAt l i f).length = l.length := by
  induction l generalizing i with
  | nil => rfl
  | cons x l ih => cases i <;> simp [modAt, ih]

theorem keep_updFn {n f} {s : State} (h : DeviceInv s) : DeviceInv (updFn n f s) :=
  ⟨h.1, (length_modAt _ _ _).trans h.2, h.3, h.4⟩

theorem keep_updSlice {n f} {s : State} (h : DeviceInv s) : DeviceInv (updSlice n f s) :=
  ⟨h.1, h.2, (length_modAt _ _ _).trans h.3, h.4⟩

theorem keep_updPort {n f} {s : State} (h : DeviceInv s) : DeviceInv (updPort n f s) :=
  ⟨h.1, h.2, h.3, (length_modAt _ _ _).trans h.4⟩

theorem keep_foldl {α : Type} {f : State → α → State} (hf : ∀ s x, DeviceInv s → DeviceInv (f s x)) (l : List α) {s : State}
    (h : DeviceInv s) : DeviceInv (l.foldl f s) := by
  induction l generalizing s with
  | nil => exact h
  | cons x l ih => exact ih (hf _ _ h)

theorem keep_pair {α : Type} {p : State × α} {t : State} {a : α} (h : DeviceInv p.1) (e : p = (t, a)) : DeviceInv t := by
  subst e; exact h

theorem keep_pair2 {α : Type} {p : α × State} {t : State} {a : α} (h : DeviceInv p.2) (e : p = (a, t)) : DeviceInv t := by
  subst e; exact h

theorem keep_foldl1 {α β : Type} {f : State × β → α → State × β} (hf : ∀ s x, DeviceInv s.1 → DeviceInv (f s x).1) (l : List α)
    {s : State × β} (h : DeviceInv s.1) : DeviceInv (l.foldl f s).1 := by
  induction l generalizing s with
  | nil => exact h
  | cons x l ih => exact ih (hf _ _ h)

/-- Reset leaves memory in canonical form. -/
theorem wf_reset : Memory.wf State.reset.mem = true := rfl

/-! ### Operations -/

theorem keep_mapGroups {f} {s : State} (h : DeviceInv s) : DeviceInv (mapGroups f s) := DeviceInv.mk_same.2 h

theorem keep_updGroup {uid f} {s : State} (h : DeviceInv s) : DeviceInv (updGroup uid f s) := DeviceInv.mk_same.2 h

theorem keep_mapTeams {f} {s : State} (h : DeviceInv s) : DeviceInv (mapTeams f s) := DeviceInv.mk_same.2 h

theorem keep_updTeam {uid f} {s : State} (h : DeviceInv s) : DeviceInv (updTeam uid f s) := DeviceInv.mk_same.2 h

theorem keep_forcePhase {team off} {s : State} (h : DeviceInv s) : DeviceInv (forcePhase team off s) := DeviceInv.mk_same.2 h

theorem keep_touchWdog {a0} {s : State} (h : DeviceInv s) :
    DeviceInv (touchWdog a0 s) := by
  unfold touchWdog
  repeat' (first | assumption | simp only [DeviceInv.mk_same] | split 
                 | with_reducible (refine keep_foldl (fun s x hs => ?_) _ ?_)
                 | with_reducible refine keep_pair ?_ (by assumption) | with_reducible refine keep_pair2 ?_ (by assumption)
                 | dsimp only)

theorem keep_fireMons {a0} {s : State} (h : DeviceInv s) :
    DeviceInv (fireMons a0 s) := by
  unfold fireMons
  repeat' (first | assumption | simp only [DeviceInv.mk_same] | split | with_reducible apply keep_forcePhase
                 | with_reducible apply keep_touchWdog | with_reducible (refine keep_foldl (fun s x hs => ?_) _ ?_)
                 | with_reducible refine keep_pair ?_ (by assumption) | with_reducible refine keep_pair2 ?_ (by assumption)
                 | dsimp only)

theorem keep_fireSpace {tag pool} {s : State} (h : DeviceInv s) : DeviceInv (fireSpace tag pool s) := keep_fireMons h

theorem keep_updCtx {tag f} {s : State} (h : DeviceInv s) : DeviceInv (updCtx tag f s) := keep_updFn h

theorem keep_setSlotState {tag va st} {s : State} (h : DeviceInv s) : DeviceInv (setSlotState tag va st s) := by
  unfold setSlotState
  repeat' (first | assumption | split | with_reducible apply keep_updCtx)

theorem keep_tlbPut {e} {s : State} (h : DeviceInv s) : DeviceInv (tlbPut e s) := by
  unfold tlbPut
  split <;> first | exact h | exact DeviceInv.mk_same.2 h

theorem wf_iff {m : Mem} : Memory.wf m = true ↔
    m.hbm.wf = true ∧ m.key.wf = true ∧ m.pois.wf = true ∧ m.host.wf = true ∧ m.under.wf = true := by
  simp [Memory.wf, and_assoc]

theorem wf_underPut {m : Mem} {a kid : Nat} (h : m.under.wf = true) : (underPut m a kid).wf = true := by
  unfold underPut
  dsimp only
  split
  · split
    · rfl
    · exact wf_poke _ _ h
  · exact wf_poke _ _ (wf_poke _ _ h)

theorem keep_gPut {x i b} {s : State} (h : DeviceInv s) : DeviceInv (gPut x i b s) := by
  obtain ⟨h1, h2, h3, h4, h5⟩ := wf_iff.1 h.mem
  unfold gPut
  split
  · exact DeviceInv.mk_mem h (wf_iff.2 ⟨wf_poke _ _ h1, wf_poke _ _ h2, h3, h4, wf_underPut h5⟩)
  · exact h
  · split
    · exact DeviceInv.mk_mem h (wf_iff.2 ⟨h1, h2, h3, wf_poke _ _ h4, h5⟩)
    · exact h

theorem keep_vPut {tag} {va : Nat} {bs : List Byte} {s t : State} (h : DeviceInv s) (e : vPut tag va bs s = .ok t) : DeviceInv t := by
  induction bs generalizing va s with
  | nil => cases e; exact h
  | cons b bs ih =>
    unfold vPut at e
    split at e
    · cases e
    · exact ih (keep_tlbPut (keep_gPut h)) e

theorem keep_ports {l} {s : State} (h : DeviceInv s) (hl : l.length = s.ports.length) : DeviceInv { s with ports := l } :=
  ⟨h.1, h.2, h.3, hl.trans h.4⟩

theorem keep_sendOut {target vc tag n data} {s : State} (h : DeviceInv s) : DeviceInv (sendOut target vc tag n data s) := by
  unfold sendOut
  repeat' (first | assumption | split | exact keep_ports h (length_modAt _ _ _))

theorem keep_sendVa {a0 a1 a2 a3 a4} {s : State} (h : DeviceInv s) :
    DeviceInv (sendVa a0 a1 a2 a3 a4 s) := by
  unfold sendVa
  repeat' (first | assumption | simp only [DeviceInv.mk_same] | split | with_reducible apply keep_sendOut
                 | with_reducible (refine keep_foldl (fun s x hs => ?_) _ ?_)
                 | with_reducible refine keep_pair ?_ (by assumption) | with_reducible refine keep_pair2 ?_ (by assumption)
                 | dsimp only)

theorem keep_vWriteAll {tag va bs} {s t : State} (h : DeviceInv s) (e : vWriteAll tag va bs s = some t) : DeviceInv t := by
  unfold vWriteAll at e
  split at e
  · next k => cases e; exact keep_sendVa (keep_vPut h k)
  · cases e

theorem keep_written {tag va bs} {s s0 : State} (h : DeviceInv s) (h0 : DeviceInv s0) :
    DeviceInv ((vWriteAll tag va bs s).getD s0) := by
  cases e : vWriteAll tag va bs s with
  | none => exact h0
  | some t => exact keep_vWriteAll h e

theorem keep_zeroSlot {tag va} {s : State} (h : DeviceInv s) : DeviceInv (zeroSlot tag va s) := by
  unfold zeroSlot
  repeat' (first | assumption | split | with_reducible refine keep_vWriteAll ?_ (by assumption)
                 | with_reducible apply keep_written | with_reducible refine keep_pair ?_ (by assumption)
                 | with_reducible refine keep_pair2 ?_ (by assumption))

theorem keep_returnSlot {tag va} {s : State} (h : DeviceInv s) : DeviceInv (returnSlot tag va s) := by
  unfold returnSlot
  repeat' (first | assumption | split | with_reducible apply keep_fireSpace | with_reducible apply keep_setSlotState
                 | with_reducible apply keep_zeroSlot)

theorem keep_updSub {uid f} {s : State} (h : DeviceInv s) : DeviceInv (updSub uid f s) := DeviceInv.mk_same.2 h

/-- An update of every slice. -/
theorem keep_mapSlices {f} {s : State} (h : DeviceInv s) : DeviceInv { s with slices := s.slices.map f } :=
  ⟨h.1, h.2, (List.length_map _).trans h.3, h.4⟩

theorem keep_teamEnd {uid} {s : State} (h : DeviceInv s) : DeviceInv (teamEnd uid s) := by
  unfold teamEnd
  split
  · exact h
  · have k : ∀ x, DeviceInv x → DeviceInv { x with slices := x.slices.map fun x => { x with remap := x.remap.filter (· != uid) } } :=
      fun x hx => keep_mapSlices hx
    dsimp only
    split
    · exact keep_updSub (k _ (keep_foldl (fun s x hs => keep_returnSlot hs) _ (DeviceInv.mk_same.2 (keep_updTeam h))))
    · exact k _ (keep_foldl (fun s x hs => keep_returnSlot hs) _ (DeviceInv.mk_same.2 (keep_updTeam h)))

theorem keep_teamQuiet {uid} {s : State} (h : DeviceInv s) : DeviceInv (teamQuiet uid s) := by
  unfold teamQuiet
  repeat' (first | assumption | split | with_reducible apply keep_updTeam | with_reducible apply keep_teamEnd)

theorem keep_batchCarry {a0 a1 a2} {s : State} (h : DeviceInv s) :
    DeviceInv (batchCarry a0 a1 a2 s) := by
  unfold batchCarry
  repeat' (first | assumption | simp only [DeviceInv.mk_same] | split | with_reducible apply keep_updTeam
                 | with_reducible (refine keep_foldl (fun s x hs => ?_) _ ?_)
                 | with_reducible refine keep_pair ?_ (by assumption) | with_reducible refine keep_pair2 ?_ (by assumption)
                 | dsimp only)

theorem keep_finishOp {a0} {s : State} (h : DeviceInv s) :
    DeviceInv (finishOp a0 s) := by
  unfold finishOp
  repeat' (first | assumption | simp only [DeviceInv.mk_same] | split | with_reducible apply keep_teamQuiet
                 | with_reducible apply keep_touchWdog | with_reducible apply keep_batchCarry
                 | with_reducible (refine keep_foldl (fun s x hs => ?_) _ ?_)
                 | with_reducible refine keep_pair ?_ (by assumption) | with_reducible refine keep_pair2 ?_ (by assumption)
                 | dsimp only)

theorem keep_charge {tag n} {s : State} (h : DeviceInv s) : DeviceInv (charge tag n s) := by
  unfold charge
  repeat' (first | assumption | simp only [DeviceInv.mk_same] | split | with_reducible apply keep_updFn)

theorem keep_keepRecent {e flags seq} {s : State} (h : DeviceInv s) : DeviceInv (keepRecent e flags seq s) := by
  unfold keepRecent
  split <;> first | exact h | exact DeviceInv.mk_same.2 h

theorem keep_ringPush {tag e fl} {s t : State} (h : DeviceInv s) (k : ringPush tag e fl s = some t) : DeviceInv t := by
  unfold ringPush at k
  dsimp only at k
  repeat' (first | contradiction | split at k)
  cases k
  exact keep_updFn (keep_sendOut (keep_vWriteAll (keep_vWriteAll h (by assumption)) (by assumption)))

theorem keep_ringCatchUp {tag} {s : State} (h : DeviceInv s) : DeviceInv (ringCatchUp tag s) := by
  unfold ringCatchUp
  repeat' (first | assumption | dsimp only | split | with_reducible refine keep_ringPush ?_ (by assumption)
                 | with_reducible apply keep_updFn | with_reducible refine keep_pair ?_ (by assumption)
                 | with_reducible refine keep_pair2 ?_ (by assumption))

theorem keep_ringLost {tag} {s : State} (h : DeviceInv s) : DeviceInv (ringLost tag s) := by
  unfold ringLost
  repeat' (first | assumption | split | with_reducible apply keep_updFn)

theorem keep_ringEvent {tag e flags} {s : State} (h : DeviceInv s) : DeviceInv (ringEvent tag e flags s) := by
  unfold ringEvent
  repeat' (first | assumption | dsimp only | split | with_reducible apply keep_ringCatchUp
                 | with_reducible refine keep_ringPush ?_ (by assumption) | with_reducible apply keep_ringLost
                 | with_reducible refine keep_pair ?_ (by assumption) | with_reducible refine keep_pair2 ?_ (by assumption))

theorem keep_markReset {slice} {s : State} (h : DeviceInv s) : DeviceInv (markReset slice s) := DeviceInv.mk_same.2 h

theorem keep_askReset {r} {s : State} (h : DeviceInv s) : DeviceInv (askReset r s) := by
  unfold askReset
  split <;> first | exact h | exact DeviceInv.mk_same.2 h

theorem keep_severity {tag slice} {s : State} (h : DeviceInv s) : DeviceInv (severity tag slice s) := by
  unfold severity
  repeat' (first | assumption | split | with_reducible apply keep_markReset | with_reducible apply keep_askReset
                 | with_reducible apply keep_updFn)

theorem keep_emit {tag e} {s : State} (h : DeviceInv s) : DeviceInv (emit tag e s) := by
  unfold emit
  repeat' (first | assumption | (intro t; have ht : DeviceInv t := ?_; clear_value t)
                 | (intro t; have ht : DeviceInv t.1 := ?_; clear_value t)
                 | (intro t; have ht : DeviceInv t.2 := ?_; clear_value t) | intro t | lift_lets | dsimp only [t]
                 | simp only [DeviceInv.mk_same] | split | with_reducible apply keep_updFn | with_reducible apply keep_keepRecent
                 | with_reducible apply keep_ringEvent | with_reducible apply keep_severity | dsimp only)

theorem keep_endLease {a b c} {s : State} (h : DeviceInv s) : DeviceInv (endLease a b c s) := by
  unfold endLease
  split
  · exact h
  · exact keep_emit (keep_updFn (keep_charge (DeviceInv.mk_same.2 (keep_foldl (fun s x hs => keep_finishOp hs) _ h))))

theorem keep_focusTeam {uid} {s : State} (h : DeviceInv s) : DeviceInv (focusTeam uid s) := by
  unfold focusTeam
  repeat' (first | assumption | simp only [DeviceInv.mk_same] | split)

theorem keep_focus {uid} {s : State} (h : DeviceInv s) : DeviceInv (focus uid s) := by
  unfold focus
  repeat' (first | assumption | simp only [DeviceInv.mk_same] | split | with_reducible apply keep_focusTeam)

theorem keep_countCode {tag core code amt} {s : State} (h : DeviceInv s) :
    DeviceInv (countCode tag core code amt s) := DeviceInv.mk_same.2 h

theorem keep_countEv {a0 a1 a2 a3} {s : State} (h : DeviceInv s) :
    DeviceInv (countEv a0 a1 a2 a3 s) := by
  unfold countEv
  repeat' (first | assumption | simp only [DeviceInv.mk_same] | split | with_reducible apply keep_countCode
                 | with_reducible (refine keep_foldl (fun s x hs => ?_) _ ?_)
                 | with_reducible refine keep_pair ?_ (by assumption) | with_reducible refine keep_pair2 ?_ (by assumption)
                 | dsimp only)

theorem keep_countMine {n amt} {s : State} (h : DeviceInv s) : DeviceInv (countMine n amt s) := keep_countEv h

theorem keep_park {f} {s : State} (h : DeviceInv s) : DeviceInv (park f s) := keep_emit (DeviceInv.mk_same.2 h)

theorem keep_onG {f} {s : State} (h : DeviceInv s) : DeviceInv (onG f s) := DeviceInv.mk_same.2 h

theorem keep_enterShadow {k entry} {s : State} (h : DeviceInv s) : DeviceInv (enterShadow k entry s) := DeviceInv.mk_same.2 h

theorem keep_trStore {tag cl bs} {s t : State} (h : DeviceInv s) (k : trStore tag cl bs s = some t) : DeviceInv t := by
  unfold trStore at k
  dsimp only at k
  repeat' (first | contradiction | split at k)
  cases k
  exact DeviceInv.mk_same.2 (keep_vWriteAll h (by assumption))

theorem keep_trDrop {tag cl core gid} {s : State} (h : DeviceInv s) : DeviceInv (trDrop tag cl core gid s) := by
  unfold trDrop
  repeat' (first | assumption | simp only [DeviceInv.mk_same] | split | with_reducible apply keep_countEv)

theorem keep_trace {a b c d e f g} {s : State} (h : DeviceInv s) : DeviceInv (trace a b c d e f g s) := by
  unfold trace
  dsimp only
  split
  · exact h
  · split
    · exact keep_trDrop h
    · next n s1 e1 =>
      have h1 : DeviceInv s1 := by
        split at e1
        · cases e1; exact h
        · obtain ⟨r, hr, rfl⟩ := Option.map_eq_some_iff.1 e1
          exact DeviceInv.mk_same.2 (keep_trStore h hr)
      split
      · exact keep_trStore h1 (by assumption)
      · exact keep_trDrop h1

theorem keep_traceMine {ty pc payload mask} {s : State} (h : DeviceInv s) :
    DeviceInv (traceMine ty pc payload mask s) := keep_trace h

theorem keep_haltCluster {a0 a1 a2 a3 a4} {s : State} (h : DeviceInv s) :
    DeviceInv (haltCluster a0 a1 a2 a3 a4 s) := by
  unfold haltCluster
  repeat' (first | assumption | simp only [DeviceInv.mk_same] | split | with_reducible apply keep_mapGroups
                 | with_reducible apply keep_trace | with_reducible (refine keep_foldl (fun s x hs => ?_) _ ?_)
                 | with_reducible refine keep_pair ?_ (by assumption) | with_reducible refine keep_pair2 ?_ (by assumption)
                 | dsimp only)

theorem keep_breakLatches {gidx keep} {s : State} (h : DeviceInv s) : DeviceInv (breakLatches gidx keep s).1 := by
  unfold breakLatches
  repeat' (first | assumption | simp only [DeviceInv.mk_same] | split | with_reducible apply keep_mapGroups)

theorem keep_takeHit {a0} {s : State} (h : DeviceInv s) :
    DeviceInv (takeHit a0 s) := by
  unfold takeHit
  repeat' (first | assumption | simp only [DeviceInv.mk_same] | split | with_reducible apply keep_countEv
                 | with_reducible apply keep_trace | with_reducible (refine keep_foldl (fun s x hs => ?_) _ ?_)
                 | with_reducible refine keep_pair ?_ (by assumption) | with_reducible refine keep_pair2 ?_ (by assumption)
                 | dsimp only)

theorem keep_wpQueue {a0 a1 a2 a3 a4 a5 a6 a7} {s : State} (h : DeviceInv s) :
    DeviceInv (wpQueue a0 a1 a2 a3 a4 a5 a6 a7 s) := by
  unfold wpQueue
  repeat' (first | assumption | split | with_reducible apply keep_takeHit
                 | with_reducible (refine keep_foldl (fun s x hs => ?_) _ ?_)
                 | with_reducible refine keep_pair ?_ (by assumption) | with_reducible refine keep_pair2 ?_ (by assumption)
                 | dsimp only)

theorem keep_wpEngine {tag xs} {s : State} (h : DeviceInv s) : DeviceInv (wpEngine tag xs s) := by
  unfold wpEngine
  repeat' (first | assumption | split | with_reducible apply keep_wpQueue
                 | with_reducible (refine keep_foldl (fun s x hs => ?_) _ ?_))

theorem keep_landCredit {a0} {s : State} (h : DeviceInv s) :
    DeviceInv (landCredit a0 s) := by
  unfold landCredit
  repeat' (first | assumption | split | with_reducible apply keep_emit | with_reducible apply keep_wpEngine
                 | with_reducible apply keep_updTeam | with_reducible (refine keep_foldl (fun s x hs => ?_) _ ?_)
                 | with_reducible refine keep_pair ?_ (by assumption) | with_reducible refine keep_pair2 ?_ (by assumption)
                 | dsimp only)

theorem keep_credit {a0 a1 a2 a3 a4 a5 a6} {s : State} (h : DeviceInv s) :
    DeviceInv (credit a0 a1 a2 a3 a4 a5 a6 s) := by
  unfold credit
  repeat' (first | assumption | simp only [DeviceInv.mk_same] | split | with_reducible apply keep_landCredit
                 | with_reducible (refine keep_foldl (fun s x hs => ?_) _ ?_)
                 | with_reducible refine keep_pair ?_ (by assumption) | with_reducible refine keep_pair2 ?_ (by assumption)
                 | dsimp only)

theorem keep_gWrite {x v} (n : Nat) {s : State} (h : DeviceInv s) : DeviceInv (gWrite x v n s) := by
  induction n with
  | zero => exact h
  | succ n ih => exact keep_gPut ih

theorem keep_newUid {s : State} (h : DeviceInv s) : DeviceInv (newUid s).2 := DeviceInv.mk_same.2 h

theorem keep_closeBatch {a0 a1 a2} {s : State} (h : DeviceInv s) :
    DeviceInv (closeBatch a0 a1 a2 s) := by
  unfold closeBatch
  repeat' (first | assumption | simp only [DeviceInv.mk_same] | split | with_reducible apply keep_newUid
                 | with_reducible apply keep_updCtx | with_reducible refine keep_vWriteAll ?_ (by assumption)
                 | with_reducible apply keep_written | with_reducible (refine keep_foldl (fun s x hs => ?_) _ ?_)
                 | with_reducible refine keep_pair ?_ (by assumption) | with_reducible refine keep_pair2 ?_ (by assumption)
                 | dsimp only)

theorem keep_closeDue {a0 a1} {s : State} (h : DeviceInv s) :
    DeviceInv (closeDue a0 a1 s) := by
  unfold closeDue
  repeat' (first | assumption | simp only [DeviceInv.mk_same] | split | with_reducible apply keep_closeBatch
                 | with_reducible (refine keep_foldl (fun s x hs => ?_) _ ?_)
                 | with_reducible refine keep_pair ?_ (by assumption) | with_reducible refine keep_pair2 ?_ (by assumption)
                 | dsimp only)

theorem keep_enterRec {a0} {s : State} (h : DeviceInv s) :
    DeviceInv (enterRec a0 s) := by
  unfold enterRec
  repeat' (first | assumption | simp only [DeviceInv.mk_same] | split | with_reducible apply keep_closeDue
                 | with_reducible apply keep_setSlotState | with_reducible apply keep_updCtx
                 | with_reducible apply keep_closeBatch | with_reducible apply keep_newUid
                 | with_reducible refine keep_vWriteAll ?_ (by assumption) | with_reducible apply keep_written
                 | with_reducible (refine keep_foldl (fun s x hs => ?_) _ ?_)
                 | with_reducible refine keep_pair ?_ (by assumption) | with_reducible refine keep_pair2 ?_ (by assumption)
                 | dsimp only)

theorem keep_submitRec {tag slot raw kind node idx sc b gid gen sub sig spawn} {s : State} (h : DeviceInv s) :
    DeviceInv (submitRec tag slot raw kind node idx sc b gid gen sub sig spawn s) := keep_enterRec h

theorem keep_taskFault {tag slice gid addr} {s : State} (h : DeviceInv s) :
    DeviceInv (taskFault tag slice gid addr s) := keep_emit h

theorem keep_fireCounter {tag recVa w gid gen slice sub sig} {s : State} (h : DeviceInv s) :
    DeviceInv (fireCounter tag recVa w gid gen slice sub sig s) := by
  unfold fireCounter
  repeat' (first | assumption | dsimp only | split | with_reducible apply keep_emit
                 | with_reducible apply keep_submitRec | with_reducible apply keep_taskFault)

theorem keep_setRecSig {tag recVa x} {s : State} (h : DeviceInv s) : DeviceInv (setRecSig tag recVa x s) := DeviceInv.mk_same.2 h

theorem keep_l1Drop {a0 a1} {s : State} (h : DeviceInv s) :
    DeviceInv (l1Drop a0 a1 s) := by
  unfold l1Drop
  repeat' (first | assumption | simp only [DeviceInv.mk_same] | split 
                 | with_reducible (refine keep_foldl (fun s x hs => ?_) _ ?_)
                 | with_reducible refine keep_pair ?_ (by assumption) | with_reducible refine keep_pair2 ?_ (by assumption)
                 | dsimp only)

theorem keep_signal {a b c d e f g i j} {s t : State} (h : DeviceInv s) (hk : signal a b c d e f g i j s = .ok t) :
    DeviceInv t := by
  unfold signal at hk
  dsimp only at hk
  repeat' (first | contradiction | split at hk)
  · cases hk
    exact keep_fireCounter (keep_setRecSig (keep_l1Drop (keep_tlbPut (keep_gWrite _ (keep_gWrite _ h)))))
  · cases hk
    exact keep_setRecSig (keep_l1Drop (keep_tlbPut (keep_gWrite _ (keep_gWrite _ h))))

theorem keep_taskEnd {s : State} (h : DeviceInv s) : DeviceInv (taskEnd s) := by
  unfold taskEnd
  repeat' (first | assumption | simp only [DeviceInv.mk_same] | split | with_reducible apply keep_credit
                 | with_reducible apply keep_emit | with_reducible refine keep_signal ?_ (by assumption)
                 | with_reducible apply keep_taskFault | with_reducible refine keep_pair ?_ (by assumption)
                 | with_reducible refine keep_pair2 ?_ (by assumption) | with_reducible (refine keep_foldl (fun s x hs => ?_) _ ?_))

theorem keep_endGroup {st pc} {s : State} (h : DeviceInv s) : DeviceInv (endGroup st pc s).1 := by
  unfold endGroup
  repeat' (first | assumption | split | with_reducible apply keep_onG | with_reducible apply keep_traceMine
                 | with_reducible apply keep_breakLatches | with_reducible apply keep_taskEnd
                 | with_reducible apply keep_teamQuiet | with_reducible refine keep_pair ?_ (by assumption)
                 | with_reducible refine keep_pair2 ?_ (by assumption))

theorem keep_stopError {f} {s : State} (h : DeviceInv s) : DeviceInv (stopError f s).1 := by
  unfold stopError
  repeat' (first | assumption | split | with_reducible apply keep_emit | with_reducible apply keep_traceMine
                 | with_reducible apply keep_endGroup | with_reducible refine keep_pair ?_ (by assumption)
                 | with_reducible refine keep_pair2 ?_ (by assumption))

theorem keep_bump {s : State} (h : DeviceInv s) : DeviceInv (bump s) := DeviceInv.mk_same.2 h

theorem keep_takeFaultOne {a0} {s : State} (h : DeviceInv s) :
    DeviceInv (takeFaultOne a0 s).1 := by
  unfold takeFaultOne
  repeat' (first | assumption | split | with_reducible apply keep_bump | with_reducible apply keep_onG
                 | with_reducible apply keep_emit | with_reducible apply keep_countMine | with_reducible apply keep_park
                 | with_reducible apply keep_enterShadow | with_reducible apply keep_traceMine
                 | with_reducible apply keep_haltCluster | with_reducible apply keep_stopError
                 | with_reducible (refine keep_foldl (fun s x hs => ?_) _ ?_)
                 | with_reducible refine keep_pair ?_ (by assumption) | with_reducible refine keep_pair2 ?_ (by assumption)
                 | dsimp only)

theorem keep_breakAll (n : Nat) {us : List Nat} {s : State} (h : DeviceInv s) : DeviceInv (breakAll n us s) := by
  induction n generalizing us s with
  | zero => exact h
  | succ n ih =>
    cases us with
    | nil => exact h
    | cons u us => exact ih (keep_takeFaultOne (keep_focus h))

theorem keep_withBroken {u} {r : State × List Nat} (h : DeviceInv r.1) : DeviceInv (withBroken u r) := by
  unfold withBroken
  split
  · exact h
  · exact keep_focus (keep_breakAll _ h)

theorem keep_takeFault {f} {s : State} (h : DeviceInv s) : DeviceInv (takeFault f s) := by
  unfold takeFault
  repeat' (first | assumption | split | with_reducible apply keep_withBroken | with_reducible apply keep_takeFaultOne
                 | with_reducible refine keep_pair ?_ (by assumption) | with_reducible refine keep_pair2 ?_ (by assumption))

theorem keep_countIssue {a0 a1} {s : State} (h : DeviceInv s) :
    DeviceInv (countIssue a0 a1 s) := by
  unfold countIssue
  repeat' (first | assumption | split | with_reducible apply keep_countMine
                 | with_reducible (refine keep_foldl (fun s x hs => ?_) _ ?_)
                 | with_reducible refine keep_pair ?_ (by assumption) | with_reducible refine keep_pair2 ?_ (by assumption)
                 | dsimp only)

theorem keep_beginIssue {e} {s : State} (h : DeviceInv s) : DeviceInv (beginIssue e s) :=
  keep_countIssue (DeviceInv.mk_same.2 h)

theorem keep_wpGroup {kind xs} {s : State} (h : DeviceInv s) : DeviceInv (wpGroup kind xs s) := by
  unfold wpGroup
  repeat' (first | assumption | split | with_reducible apply keep_wpQueue
                 | with_reducible (refine keep_foldl (fun s x hs => ?_) _ ?_))

theorem keep_unloadCtx {x0} {s : State} (h : DeviceInv s) : DeviceInv (unloadCtx x0 s) := keep_updFn (DeviceInv.mk_same.2 h)

theorem keep_holdWrite {fn slice b off v} {s : State} (h : DeviceInv s) :
    DeviceInv (holdWrite fn slice b off v s) := DeviceInv.mk_same.2 h

theorem keep_obsSet {fn slice off v} {s : State} (h : DeviceInv s) : DeviceInv (obsSet fn slice off v s) := DeviceInv.mk_same.2 h

theorem keep_writeCbCtl {a b c d} {s : State} (h : DeviceInv s) : DeviceInv (writeCbCtl a b c d s) := by
  unfold writeCbCtl
  dsimp only
  split
  · exact keep_foldl (fun s x hs => keep_obsSet hs) _ (keep_obsSet h)
  · exact keep_obsSet h

theorem keep_updSq {fn q f} {s : State} (h : DeviceInv s) : DeviceInv (updSq fn q f s) := keep_updFn h

theorem keep_completeSub {a0 a1} {s : State} (h : DeviceInv s) :
    DeviceInv (completeSub a0 a1 s) := by
  unfold completeSub
  repeat' (first | assumption | simp only [DeviceInv.mk_same] | split | with_reducible apply keep_updSq
                 | with_reducible apply keep_updFn | with_reducible apply keep_sendOut
                 | with_reducible refine keep_vWriteAll ?_ (by assumption) | with_reducible apply keep_written
                 | with_reducible (refine keep_foldl (fun s x hs => ?_) _ ?_)
                 | with_reducible refine keep_pair ?_ (by assumption) | with_reducible refine keep_pair2 ?_ (by assumption)
                 | dsimp only)

theorem keep_poisonSubs {x0} {s : State} (h : DeviceInv s) : DeviceInv (poisonSubs x0 s) := by
  unfold poisonSubs
  repeat' (first | assumption | simp only [DeviceInv.mk_same] | split | with_reducible apply keep_completeSub
                 | with_reducible apply keep_updFn | with_reducible (refine keep_foldl (fun s x hs => ?_) _ ?_))

theorem keep_memberFault {c va u} {s : State} (h : DeviceInv s) : DeviceInv (memberFault c va u s) := by
  unfold memberFault
  repeat' (first | assumption | split | with_reducible apply keep_focus | with_reducible apply keep_onG
                 | with_reducible apply keep_takeFault)

theorem keep_meterLease {handle clocks core} {s : State} (h : DeviceInv s) : DeviceInv (meterLease handle clocks core s) := by
  unfold meterLease
  repeat' (first | assumption | simp only [DeviceInv.mk_same] | split | with_reducible apply keep_countCode
                 | with_reducible apply keep_charge)

theorem keep_settle {fin} {s : State} (h : DeviceInv s) : DeviceInv (settle fin s) := DeviceInv.mk_same.2 h

theorem keep_memberGo {u} {s : State} (h : DeviceInv s) : DeviceInv (memberGo u s) := by
  unfold memberGo
  repeat' (first | assumption | simp only [DeviceInv.mk_same] | split | with_reducible apply keep_focus
                 | with_reducible apply keep_settle)

theorem keep_tryRendezvous {gang} {s : State} (h : DeviceInv s) : DeviceInv (tryRendezvous gang s) := by
  unfold tryRendezvous
  repeat' (first | assumption | simp only [DeviceInv.mk_same] | split | with_reducible apply keep_focus
                 | with_reducible apply keep_memberFault | with_reducible apply keep_newUid
                 | with_reducible apply keep_meterLease | with_reducible apply keep_memberGo
                 | with_reducible refine keep_pair ?_ (by assumption) | with_reducible refine keep_pair2 ?_ (by assumption)
                 | with_reducible (refine keep_foldl (fun s x hs => ?_) _ ?_))

theorem keep_lifeFlush {s : State} (h : DeviceInv s) : DeviceInv (lifeFlush s) := DeviceInv.mk_same.2 h

theorem keep_lifeAdd {off n} {s : State} (h : DeviceInv s) : DeviceInv (lifeAdd off n s) := DeviceInv.mk_same.2 h

theorem keep_goFatal {cause} {s : State} (h : DeviceInv s) : DeviceInv (goFatal cause s) := by
  unfold goFatal
  repeat' (first | assumption | (intro t; have ht : DeviceInv t := ?_; clear_value t)
                 | (intro t; have ht : DeviceInv t.1 := ?_; clear_value t)
                 | (intro t; have ht : DeviceInv t.2 := ?_; clear_value t) | intro t | lift_lets | dsimp only [t]
                 | simp only [DeviceInv.mk_same] | split | with_reducible apply keep_lifeFlush
                 | with_reducible apply keep_lifeAdd | dsimp only)

theorem keep_updOp {uid f} {s : State} (h : DeviceInv s) : DeviceInv (updOp uid f s) := DeviceInv.mk_same.2 h

theorem keep_stopOp {o cause va} {s : State} (h : DeviceInv s) : DeviceInv (stopOp o cause va s) := DeviceInv.mk_same.2 h

theorem keep_linkPoison {tag slice gid addr} {s : State} (h : DeviceInv s) :
    DeviceInv (linkPoison tag slice gid addr s) := keep_emit h

theorem keep_landAcp {o out pd glob len gs ps} {s : State} (h : DeviceInv s) : DeviceInv (landAcp o out pd glob len gs ps s) := by
  unfold landAcp
  repeat' (first | assumption | dsimp only | split | with_reducible apply keep_stopOp
                 | with_reducible apply keep_tlbPut | with_reducible apply keep_updOp | with_reducible apply keep_wpEngine
                 | with_reducible apply keep_gPut | with_reducible apply keep_linkPoison | with_reducible apply keep_updTeam)

theorem keep_landAmc {o pd targets} {s : State} (h : DeviceInv s) : DeviceInv (landAmc o pd targets s) := by
  unfold landAmc
  repeat' (first | assumption | dsimp only | split | with_reducible apply keep_stopOp
                 | with_reducible apply keep_updOp | with_reducible apply keep_wpEngine | with_reducible apply keep_updTeam
                 | with_reducible apply keep_countEv | with_reducible (refine keep_foldl (fun s x hs => ?_) _ ?_))

theorem keep_noteRows {o state} {s : State} (h : DeviceInv s) : DeviceInv (noteRows o state s) := by
  unfold noteRows
  split <;> first | exact h | exact DeviceInv.mk_same.2 h

theorem keep_updTile {r f} {s : State} (h : DeviceInv s) : DeviceInv (updTile r f s) := by
  unfold updTile
  split <;> first | exact h | exact DeviceInv.mk_same.2 h

theorem keep_zldRow {o r pd} {s : State} (h : DeviceInv s) : DeviceInv (zldRow o r pd s) := by
  unfold zldRow
  repeat' (first | assumption | dsimp only | split | with_reducible apply keep_noteRows
                 | with_reducible apply keep_stopOp | with_reducible apply keep_updTile | with_reducible apply keep_updOp)

theorem keep_spotWrite {size v p} {s : State} (h : DeviceInv s) : DeviceInv (spotWrite size v p s) := by
  unfold spotWrite
  repeat' (first | assumption | split | with_reducible apply keep_gWrite | with_reducible apply keep_updTeam)

theorem keep_landZdrn {o acc cv pd base row0 rows col0 cols shift stride scale snap snapm} {s : State} (h : DeviceInv s) :
    DeviceInv (landZdrn o acc cv pd base row0 rows col0 cols shift stride scale snap snapm s) := by
  unfold landZdrn
  repeat' (first | assumption | (intro t; have ht : DeviceInv t := ?_; clear_value t)
                 | (intro t; have ht : DeviceInv t.1 := ?_; clear_value t)
                 | (intro t; have ht : DeviceInv t.2 := ?_; clear_value t) | intro t | lift_lets | dsimp only [t]
                 | simp only [DeviceInv.mk_same] | split | with_reducible apply keep_noteRows | with_reducible apply keep_stopOp
                 | with_reducible apply keep_updOp | with_reducible apply keep_spotWrite | with_reducible apply keep_wpQueue
                 | with_reducible apply keep_wpEngine | with_reducible (refine keep_foldl (fun s x hs => ?_) _ ?_) | dsimp only)

theorem keep_sendRow {a0} {s : State} (h : DeviceInv s) :
    DeviceInv (sendRow a0 s) := by
  unfold sendRow
  repeat' (first | assumption | simp only [DeviceInv.mk_same] | split | with_reducible apply keep_sendVa
                 | with_reducible (refine keep_foldl (fun s x hs => ?_) _ ?_)
                 | with_reducible refine keep_pair ?_ (by assumption) | with_reducible refine keep_pair2 ?_ (by assumption)
                 | dsimp only)

theorem keep_landOne {a0} {s : State} (h : DeviceInv s) :
    DeviceInv (landOne a0 s) := by
  unfold landOne
  repeat' (first | assumption | split | with_reducible apply keep_sendRow | with_reducible apply keep_landAcp
                 | with_reducible apply keep_landAmc | with_reducible apply keep_zldRow
                 | with_reducible apply keep_landZdrn | with_reducible (refine keep_foldl (fun s x hs => ?_) _ ?_)
                 | with_reducible refine keep_pair ?_ (by assumption) | with_reducible refine keep_pair2 ?_ (by assumption)
                 | dsimp only)

theorem keep_writeRecord {o} {s : State} (h : DeviceInv s) : DeviceInv (writeRecord o s) := by
  unfold writeRecord
  repeat' (first | assumption | split | with_reducible apply keep_wpEngine | with_reducible apply keep_updTeam)

theorem keep_wrVec {e d n act f m} {s : State} (h : DeviceInv s) : DeviceInv (wrVec e d n act f m s) := by
  unfold wrVec
  split <;> first | exact h | exact DeviceInv.mk_same.2 h

theorem keep_pmPut {off bs} {s : State} (h : DeviceInv s) : DeviceInv (pmPut off bs s) := by
  obtain ⟨h1, h2, h3, h4, h5⟩ := wf_iff.1 h.mem
  exact DeviceInv.mk_mem h (wf_iff.2 ⟨wf_pokeN _ _ _ h1, h2, h3, h4, h5⟩)

theorem keep_pmEnd {status} {s : State} (h : DeviceInv s) : DeviceInv (pmEnd status s) := by
  unfold pmEnd
  repeat' (first | assumption | simp only [DeviceInv.mk_same] | split | with_reducible apply keep_pmPut)

theorem keep_undoSplit {s : State} (h : DeviceInv s) :
    DeviceInv (undoSplit s) := by
  unfold undoSplit
  repeat' (first | assumption | split | with_reducible apply keep_updSlice | with_reducible apply keep_mapGroups
                 | with_reducible apply keep_mapTeams | with_reducible (refine keep_foldl (fun s x hs => ?_) _ ?_)
                 | with_reducible refine keep_pair ?_ (by assumption) | with_reducible refine keep_pair2 ?_ (by assumption)
                 | dsimp only)

theorem keep_enterState {st ns} {s : State} (h : DeviceInv s) : DeviceInv (enterState st ns s) :=
  keep_foldl (fun _ _ hs => keep_updSlice hs) _ h

theorem keep_undoCmd {s : State} (h : DeviceInv s) : DeviceInv (undoCmd s) := by
  unfold undoCmd
  repeat' (first | assumption | split | with_reducible apply keep_undoSplit | with_reducible apply keep_enterState)

theorem keep_abortPm {ns tag} {s : State} (h : DeviceInv s) : DeviceInv (abortPm ns tag s) := by
  unfold abortPm
  repeat' (first | assumption | dsimp only | split | with_reducible apply keep_pmEnd
                 | with_reducible apply keep_undoCmd)

theorem keep_updRing {fn ring f} {s : State} (h : DeviceInv s) : DeviceInv (updRing fn ring f s) := keep_updCtx h

theorem keep_writeCpl {fn ring status cause tag bytes progress seq} {s : State} (h : DeviceInv s) :
    DeviceInv (writeCpl fn ring status cause tag bytes progress seq s) := by
  unfold writeCpl
  repeat' (first | assumption | split | with_reducible apply keep_updRing
                 | with_reducible refine keep_vWriteAll ?_ (by assumption) | with_reducible apply keep_written
                 | with_reducible refine keep_pair ?_ (by assumption) | with_reducible refine keep_pair2 ?_ (by assumption))

theorem keep_endEntry {fn ring e status cause bytes progress} {s : State} (h : DeviceInv s) :
    DeviceInv (endEntry fn ring e status cause bytes progress s) := by
  unfold endEntry
  repeat' (first | assumption | split | with_reducible apply keep_updRing | with_reducible apply keep_writeCpl)

theorem keep_abortRing {fn ring} (n : Nat) {s : State} (h : DeviceInv s) : DeviceInv (abortRing fn ring n s) := by
  induction n generalizing s with
  | zero => exact h
  | succ n ih =>
    unfold abortRing
    repeat' (first | assumption | apply keep_endEntry | apply ih | split | dsimp only)

theorem keep_abortShed {fn} {s : State} (h : DeviceInv s) : DeviceInv (abortShed fn s) := by
  unfold abortShed
  repeat' (first | assumption | split | with_reducible apply keep_abortRing | with_reducible apply keep_updRing
                 | with_reducible (refine keep_foldl (fun s x hs => ?_) _ ?_))

theorem keep_wipeTasks {us} {s : State} (h : DeviceInv s) : DeviceInv (wipeTasks us s) := by
  unfold wipeTasks
  repeat' (first | assumption | split | with_reducible apply keep_taskEnd | with_reducible apply keep_focus
                 | with_reducible (refine keep_foldl (fun s x hs => ?_) _ ?_))

theorem keep_wipeRuns {us} {s : State} (h : DeviceInv s) : DeviceInv (wipeRuns us s) := by
  unfold wipeRuns
  repeat' (first | assumption | simp only [DeviceInv.mk_same] | split | with_reducible apply keep_returnSlot
                 | with_reducible (refine keep_foldl (fun s x hs => ?_) _ ?_))

theorem keep_creditLost {a0 a1 a2} {s : State} (h : DeviceInv s) :
    DeviceInv (creditLost a0 a1 a2 s) := by
  unfold creditLost
  repeat' (first | assumption | simp only [DeviceInv.mk_same] | split | with_reducible apply keep_emit
                 | with_reducible (refine keep_foldl (fun s x hs => ?_) _ ?_)
                 | with_reducible refine keep_pair ?_ (by assumption) | with_reducible refine keep_pair2 ?_ (by assumption)
                 | dsimp only)

theorem keep_creditOp {a0} {s : State} (h : DeviceInv s) :
    DeviceInv (creditOp a0 s) := by
  unfold creditOp
  repeat' (first | assumption | simp only [DeviceInv.mk_same] | split | with_reducible apply keep_credit
                 | with_reducible apply keep_creditLost | with_reducible (refine keep_foldl (fun s x hs => ?_) _ ?_)
                 | with_reducible refine keep_pair ?_ (by assumption) | with_reducible refine keep_pair2 ?_ (by assumption)
                 | dsimp only)

theorem keep_wipeOps {us} {s : State} (h : DeviceInv s) : DeviceInv (wipeOps us s) := by
  unfold wipeOps
  repeat' (first | assumption | simp only [DeviceInv.mk_same] | split | with_reducible apply keep_creditOp
                 | with_reducible (refine keep_foldl (fun s x hs => ?_) _ ?_))

theorem keep_wipeTeams {us} {s : State} (h : DeviceInv s) : DeviceInv (wipeTeams us s) := by
  unfold wipeTeams
  repeat' (first | assumption | simp only [DeviceInv.mk_same] | split | with_reducible apply keep_focus
                 | with_reducible apply keep_wipeTasks | with_reducible apply keep_mapGroups | with_reducible apply keep_wipeRuns
                 | with_reducible apply keep_wipeOps | with_reducible apply keep_teamEnd | with_reducible apply keep_mapTeams
                 | with_reducible (refine keep_foldl (fun s x hs => ?_) _ ?_))

theorem keep_endLeases {p reason slice} {s : State} (h : DeviceInv s) : DeviceInv (endLeases p reason slice s) := by
  unfold endLeases
  repeat' (first | assumption | split | with_reducible apply keep_endLease
                 | with_reducible (refine keep_foldl (fun s x hs => ?_) _ ?_))

theorem keep_scrubCaches {a0} {s : State} (h : DeviceInv s) :
    DeviceInv (scrubCaches a0 s) := by
  unfold scrubCaches
  repeat' (first | assumption | simp only [DeviceInv.mk_same] | split 
                 | with_reducible (refine keep_foldl (fun s x hs => ?_) _ ?_)
                 | with_reducible refine keep_pair ?_ (by assumption) | with_reducible refine keep_pair2 ?_ (by assumption)
                 | dsimp only)

theorem keep_clearInst {a0} {s : State} (h : DeviceInv s) :
    DeviceInv (clearInst a0 s) := by
  unfold clearInst
  repeat' (first | assumption | simp only [DeviceInv.mk_same] | split 
                 | with_reducible (refine keep_foldl (fun s x hs => ?_) _ ?_)
                 | with_reducible refine keep_pair ?_ (by assumption) | with_reducible refine keep_pair2 ?_ (by assumption)
                 | dsimp only)

theorem keep_vfStop {a0} {s : State} (h : DeviceInv s) : DeviceInv (vfStop a0 s) := by
  unfold vfStop
  repeat' (first | assumption | simp only [DeviceInv.mk_same] | dsimp only | with_reducible apply keep_abortPm
                 | with_reducible apply keep_abortShed | with_reducible apply keep_poisonSubs
                 | with_reducible apply keep_wipeTeams | with_reducible apply keep_endLeases
                 | with_reducible apply keep_unloadCtx)

theorem keep_vfDone {a0} {s : State} (h : DeviceInv s) : DeviceInv (vfDone a0 s) := by
  unfold vfDone
  repeat' (first | assumption | dsimp only | with_reducible apply keep_scrubCaches | with_reducible apply keep_clearInst
                 | with_reducible apply keep_lifeAdd | with_reducible apply keep_emit
                 | with_reducible (refine keep_foldl (fun s x hs => ?_) _ ?_))

theorem keep_vfCore {a0} {s : State} (h : DeviceInv s) : DeviceInv (vfCore a0 s) := keep_vfDone (keep_vfStop h)

theorem keep_ringWrite {fn base logb} {i : Nat} (bs : List Byte) {s : State} (h : DeviceInv s) :
    DeviceInv (ringWrite fn base logb i bs s) := by
  induction bs generalizing i s with
  | nil => exact h
  | cons b bs ih => exact ih (keep_written h h)

theorem keep_clearPoison {ws} {s : State} (h : DeviceInv s) : DeviceInv (clearPoison ws s) := by
  obtain ⟨h1, h2, h3, h4, h5⟩ := wf_iff.1 h.mem
  unfold clearPoison
  split
  · exact h
  · exact DeviceInv.mk_mem h (wf_iff.2 ⟨h1, h2, wf_filter _ h3, h4, h5⟩)

theorem keep_carryLine {a0 a1} {s : State} (h : DeviceInv s) :
    DeviceInv (carryLine a0 a1 s) := by
  unfold carryLine
  repeat' (first | assumption | simp only [DeviceInv.mk_same] | split 
                 | with_reducible (refine keep_foldl (fun s x hs => ?_) _ ?_)
                 | with_reducible refine keep_pair ?_ (by assumption) | with_reducible refine keep_pair2 ?_ (by assumption)
                 | dsimp only)

theorem keep_signLines {a0} {s : State} (h : DeviceInv s) :
    DeviceInv (signLines a0 s) := by
  unfold signLines
  repeat' (first | assumption | split | with_reducible apply keep_onG | with_reducible apply keep_carryLine
                 | with_reducible (refine keep_foldl (fun s x hs => ?_) _ ?_)
                 | with_reducible refine keep_pair ?_ (by assumption) | with_reducible refine keep_pair2 ?_ (by assumption)
                 | dsimp only)

theorem keep_releaseWait {s : State} (h : DeviceInv s) : DeviceInv (releaseWait s) := DeviceInv.mk_same.2 h

theorem keep_releaseLines {a0} {s : State} (h : DeviceInv s) :
    DeviceInv (releaseLines a0 s) := by
  unfold releaseLines
  repeat' (first | assumption | split | with_reducible apply keep_releaseWait | with_reducible apply keep_onG
                 | with_reducible apply keep_carryLine | with_reducible (refine keep_foldl (fun s x hs => ?_) _ ?_)
                 | with_reducible refine keep_pair ?_ (by assumption) | with_reducible refine keep_pair2 ?_ (by assumption)
                 | dsimp only)

theorem keep_sendSpots {a0 a1 a2} {s : State} (h : DeviceInv s) :
    DeviceInv (sendSpots a0 a1 a2 s) := by
  unfold sendSpots
  repeat' (first | assumption | simp only [DeviceInv.mk_same] | split | with_reducible apply keep_sendOut
                 | with_reducible (refine keep_foldl (fun s x hs => ?_) _ ?_)
                 | with_reducible refine keep_pair ?_ (by assumption) | with_reducible refine keep_pair2 ?_ (by assumption)
                 | dsimp only)

theorem keep_hitsOf {a0 a1 a2} {s : State} (h : DeviceInv s) :
    DeviceInv (hitsOf a0 a1 a2 s) := by
  unfold hitsOf
  repeat' (first | assumption | simp only [DeviceInv.mk_same] | split | with_reducible apply keep_wpGroup
                 | with_reducible apply keep_sendSpots | with_reducible (refine keep_foldl (fun s x hs => ?_) _ ?_)
                 | with_reducible refine keep_pair ?_ (by assumption) | with_reducible refine keep_pair2 ?_ (by assumption)
                 | dsimp only)

theorem keep_rememberAll {ps} {s : State} (h : DeviceInv s) : DeviceInv (rememberAll ps s) := by
  unfold rememberAll
  repeat' (first | assumption | split | with_reducible apply keep_tlbPut
                 | with_reducible (refine keep_foldl (fun s x hs => ?_) _ ?_))

theorem keep_l1Store {a0 a1 a2} {s : State} (h : DeviceInv s) :
    DeviceInv (l1Store a0 a1 a2 s) := by
  unfold l1Store
  repeat' (first | assumption | simp only [DeviceInv.mk_same] | split 
                 | with_reducible (refine keep_foldl (fun s x hs => ?_) _ ?_)
                 | with_reducible refine keep_pair ?_ (by assumption) | with_reducible refine keep_pair2 ?_ (by assumption)
                 | dsimp only)

theorem keep_copyStore {a0 a1 a2} {s : State} (h : DeviceInv s) :
    DeviceInv (copyStore a0 a1 a2 s) := by
  unfold copyStore
  repeat' (first | assumption | simp only [DeviceInv.mk_same] | split | with_reducible apply keep_l1Store
                 | with_reducible (refine keep_foldl (fun s x hs => ?_) _ ?_)
                 | with_reducible refine keep_pair ?_ (by assumption) | with_reducible refine keep_pair2 ?_ (by assumption)
                 | dsimp only)

theorem keep_l2Fill {a0 a1} {s : State} (h : DeviceInv s) :
    DeviceInv (l2Fill a0 a1 s) := by
  unfold l2Fill
  repeat' (first | assumption | simp only [DeviceInv.mk_same] | split 
                 | with_reducible (refine keep_foldl (fun s x hs => ?_) _ ?_)
                 | with_reducible refine keep_pair ?_ (by assumption) | with_reducible refine keep_pair2 ?_ (by assumption)
                 | dsimp only)

theorem keep_cacheWrites {a0} {s : State} (h : DeviceInv s) :
    DeviceInv (cacheWrites a0 s) := by
  unfold cacheWrites
  repeat' (first | assumption | simp only [DeviceInv.mk_same] | split | with_reducible apply keep_l2Fill
                 | with_reducible (refine keep_foldl (fun s x hs => ?_) _ ?_)
                 | with_reducible refine keep_pair ?_ (by assumption) | with_reducible refine keep_pair2 ?_ (by assumption)
                 | dsimp only)

theorem keep_storeAll {a0 a1 a2 a3} {s : State} (h : DeviceInv s) :
    DeviceInv (storeAll a0 a1 a2 a3 s) := by
  unfold storeAll
  repeat' (first | assumption | split | with_reducible apply keep_spotWrite | with_reducible apply keep_clearPoison
                 | with_reducible apply keep_copyStore | with_reducible apply keep_signLines
                 | with_reducible apply keep_releaseLines | with_reducible apply keep_hitsOf
                 | with_reducible apply keep_cacheWrites | with_reducible apply keep_rememberAll
                 | with_reducible apply keep_onG | with_reducible (refine keep_foldl (fun s x hs => ?_) _ ?_)
                 | with_reducible refine keep_pair ?_ (by assumption) | with_reducible refine keep_pair2 ?_ (by assumption)
                 | dsimp only)

theorem keep_portWait {sp ls} {s : State} (h : DeviceInv s) : DeviceInv (portWait sp ls s) := by
  unfold portWait
  split <;> first | exact h | exact DeviceInv.mk_same.2 h

theorem keep_seqNext {e} {s : State} (h : DeviceInv s) : DeviceInv (seqNext e s) := keep_settle (DeviceInv.mk_same.2 h)

theorem keep_beginNow {s : State} (h : DeviceInv s) :
    DeviceInv (beginNow s) := by
  unfold beginNow
  repeat' (first | assumption | simp only [DeviceInv.mk_same] | split 
                 | with_reducible (refine keep_foldl (fun s x hs => ?_) _ ?_)
                 | with_reducible refine keep_pair ?_ (by assumption) | with_reducible refine keep_pair2 ?_ (by assumption)
                 | dsimp only)

theorem keep_placeAt {a0 a1} {s : State} (h : DeviceInv s) :
    DeviceInv (placeAt a0 a1 s) := by
  unfold placeAt
  repeat' (first | assumption | simp only [DeviceInv.mk_same] | split | with_reducible apply keep_beginNow
                 | with_reducible apply keep_gWrite | with_reducible (refine keep_foldl (fun s x hs => ?_) _ ?_)
                 | with_reducible refine keep_pair ?_ (by assumption) | with_reducible refine keep_pair2 ?_ (by assumption)
                 | dsimp only)

theorem keep_haltNow {ty payload} {s : State} (h : DeviceInv s) :
    DeviceInv (haltNow ty payload s) := keep_traceMine (DeviceInv.mk_same.2 h)

theorem keep_watchdogStop {s : State} (h : DeviceInv s) : DeviceInv (watchdogStop s) := by
  unfold watchdogStop
  repeat' (first | assumption | split | with_reducible apply keep_onG | with_reducible apply keep_traceMine
                 | with_reducible apply keep_withBroken | with_reducible apply keep_endGroup
                 | with_reducible refine keep_pair ?_ (by assumption) | with_reducible refine keep_pair2 ?_ (by assumption))

theorem keep_landStop {s : State} (h : DeviceInv s) : DeviceInv (landStop s) := by
  unfold landStop
  repeat' (first | assumption | split | with_reducible apply keep_haltNow | with_reducible apply keep_watchdogStop
                 | with_reducible apply keep_onG)

theorem keep_failLaunches {us status} {s : State} (h : DeviceInv s) : DeviceInv (failLaunches us status s) := DeviceInv.mk_same.2 h

theorem keep_reportReset {ns} {s : State} (h : DeviceInv s) : DeviceInv (reportReset ns s) := by
  unfold reportReset
  repeat' (first | assumption | dsimp only | split | with_reducible apply keep_emit
                 | with_reducible (refine keep_foldl (fun s x hs => ?_) _ ?_))

theorem keep_sliceStop {a0} {s : State} (h : DeviceInv s) : DeviceInv (sliceStop a0 s) := by
  unfold sliceStop
  repeat' (first | assumption | simp only [DeviceInv.mk_same] | dsimp only | with_reducible apply keep_wipeTeams
                 | with_reducible apply keep_failLaunches | with_reducible apply keep_endLeases)

theorem keep_sliceDone {a0} {s : State} (h : DeviceInv s) : DeviceInv (sliceDone a0 s) := by
  unfold sliceDone
  repeat' (first | assumption | with_reducible apply keep_reportReset | with_reducible apply keep_lifeAdd
                 | with_reducible apply keep_clearInst | with_reducible apply keep_scrubCaches
                 | with_reducible (refine keep_foldl (fun s x hs => ?_) _ ?_))

theorem keep_quiesce {ns} {s : State} (h : DeviceInv s) : DeviceInv (quiesce ns s) :=
  keep_foldl (fun _ _ hs => keep_updSlice hs) _ h

theorem keep_rejoin {s : State} (h : DeviceInv s) : DeviceInv (rejoin s) :=
  ⟨h.1, h.2, (List.length_map _).trans h.3, h.4⟩

theorem keep_beginReset {r} {s : State} (h : DeviceInv s) : DeviceInv (beginReset r s) := by
  unfold beginReset
  simp only [DeviceInv.mk_same]
  refine keep_quiesce (keep_foldl (fun s x hs => keep_vfStop hs) _ ?_)
  split
  · exact keep_abortPm h
  · exact keep_sliceStop (keep_abortPm h)

theorem keep_endReset {x} {s : State} (h : DeviceInv s) : DeviceInv (endReset x s) := by
  unfold endReset
  simp only [DeviceInv.mk_same]
  refine keep_clearInst (keep_foldl (fun s x hs => keep_vfDone hs) _ ?_)
  split
  · exact keep_rejoin h
  · exact keep_sliceDone (keep_rejoin h)

theorem keep_runReset {r} {s : State} (h : DeviceInv s) : DeviceInv (runReset r s) := by
  unfold runReset
  repeat' (first | assumption | split | with_reducible apply keep_beginReset | with_reducible apply keep_endReset)

theorem keep_covrAdvise {o} {s : State} (h : DeviceInv s) : DeviceInv (covrAdvise o s) := keep_emit h

theorem keep_deliverHit {s : State} (h : DeviceInv s) : DeviceInv (deliverHit s) := by
  unfold deliverHit
  repeat' (first | assumption | split | with_reducible apply keep_onG | with_reducible apply keep_takeFault)

theorem keep_fireMatch {a0} {s : State} (h : DeviceInv s) :
    DeviceInv (fireMatch a0 s) := by
  unfold fireMatch
  repeat' (first | assumption | split | with_reducible apply keep_onG | with_reducible apply keep_traceMine
                 | with_reducible apply keep_countMine | with_reducible apply keep_enterShadow
                 | with_reducible (refine keep_foldl (fun s x hs => ?_) _ ?_)
                 | with_reducible refine keep_pair ?_ (by assumption) | with_reducible refine keep_pair2 ?_ (by assumption)
                 | dsimp only)

theorem keep_wrG {e d wide act v} {s : State} (h : DeviceInv s) : DeviceInv (wrG e d wide act v s) := by
  unfold wrG
  repeat' (first | assumption | simp only [DeviceInv.mk_same] | split)

theorem keep_reportLinks {ps} {s : State} (h : DeviceInv s) : DeviceInv (reportLinks ps s) := by
  unfold reportLinks
  repeat' (first | assumption | split | with_reducible apply keep_linkPoison)

theorem keep_acquireL1 {a0 a1 a2} {s : State} (h : DeviceInv s) :
    DeviceInv (acquireL1 a0 a1 a2 s) := by
  unfold acquireL1
  repeat' (first | assumption | split | with_reducible apply keep_l1Drop | with_reducible apply keep_countEv
                 | with_reducible (refine keep_foldl (fun s x hs => ?_) _ ?_)
                 | with_reducible refine keep_pair ?_ (by assumption) | with_reducible refine keep_pair2 ?_ (by assumption)
                 | dsimp only)

theorem keep_receive {a0} {s : State} (h : DeviceInv s) :
    DeviceInv (receive a0 s) := by
  unfold receive
  repeat' (first | assumption | split | with_reducible apply keep_acquireL1 | with_reducible apply keep_onG
                 | with_reducible (refine keep_foldl (fun s x hs => ?_) _ ?_)
                 | with_reducible refine keep_pair ?_ (by assumption) | with_reducible refine keep_pair2 ?_ (by assumption)
                 | dsimp only)

theorem keep_acquireAt {a0} {s : State} (h : DeviceInv s) :
    DeviceInv (acquireAt a0 s) := by
  unfold acquireAt
  repeat' (first | assumption | simp only [DeviceInv.mk_same] | split | with_reducible apply keep_receive
                 | with_reducible (refine keep_foldl (fun s x hs => ?_) _ ?_)
                 | with_reducible refine keep_pair ?_ (by assumption) | with_reducible refine keep_pair2 ?_ (by assumption)
                 | dsimp only)

theorem keep_l2Reads {a0} {s : State} (h : DeviceInv s) :
    DeviceInv (l2Reads a0 s) := by
  unfold l2Reads
  repeat' (first | assumption | simp only [DeviceInv.mk_same] | split | with_reducible apply keep_countMine
                 | with_reducible apply keep_l2Fill | with_reducible (refine keep_foldl (fun s x hs => ?_) _ ?_)
                 | with_reducible refine keep_pair ?_ (by assumption) | with_reducible refine keep_pair2 ?_ (by assumption)
                 | dsimp only)

theorem keep_l1Fill {a0 a1} {s : State} (h : DeviceInv s) :
    DeviceInv (l1Fill a0 a1 s) := by
  unfold l1Fill
  repeat' (first | assumption | simp only [DeviceInv.mk_same] | split 
                 | with_reducible (refine keep_foldl (fun s x hs => ?_) _ ?_)
                 | with_reducible refine keep_pair ?_ (by assumption) | with_reducible refine keep_pair2 ?_ (by assumption)
                 | dsimp only)

theorem keep_cacheLoads {a0 a1} {s : State} (h : DeviceInv s) :
    DeviceInv (cacheLoads a0 a1 s) := by
  unfold cacheLoads
  repeat' (first | assumption | split | with_reducible apply keep_l2Reads | with_reducible apply keep_countMine
                 | with_reducible apply keep_l1Fill | with_reducible apply keep_l1Drop
                 | with_reducible (refine keep_foldl (fun s x hs => ?_) _ ?_)
                 | with_reducible refine keep_pair ?_ (by assumption) | with_reducible refine keep_pair2 ?_ (by assumption)
                 | dsimp only)

theorem keep_loadEffects {a0 a1 a2 a3} {s : State} (h : DeviceInv s) :
    DeviceInv (loadEffects a0 a1 a2 a3 s) := by
  unfold loadEffects
  repeat' (first | assumption | split | with_reducible apply keep_acquireAt | with_reducible apply keep_hitsOf
                 | with_reducible apply keep_reportLinks | with_reducible apply keep_cacheLoads
                 | with_reducible apply keep_rememberAll | with_reducible (refine keep_foldl (fun s x hs => ?_) _ ?_)
                 | with_reducible refine keep_pair ?_ (by assumption) | with_reducible refine keep_pair2 ?_ (by assumption)
                 | dsimp only)

theorem keep_wrGN {e d n v m} {s : State} (h : DeviceInv s) : DeviceInv (wrGN e d n v m s) := by
  unfold wrGN
  repeat' (first | assumption | simp only [DeviceInv.mk_same] | split | with_reducible (refine keep_foldl (fun s x hs => ?_) _ ?_))

theorem keep_pendOn {ks} {s : State} (h : DeviceInv s) : DeviceInv (pendOn ks s) := DeviceInv.mk_same.2 h

theorem keep_wrV {e d wide act f} {s : State} (h : DeviceInv s) : DeviceInv (wrV e d wide act f s) := keep_wrVec h

theorem keep_raiseFlags {f} {s : State} (h : DeviceInv s) : DeviceInv (raiseFlags f s) := DeviceInv.mk_same.2 h

theorem keep_wrP {e d act f} {s : State} (h : DeviceInv s) : DeviceInv (wrP e d act f s) := by
  unfold wrP
  repeat' (first | assumption | simp only [DeviceInv.mk_same] | split)

theorem keep_wrFp {e d wide act f} {s : State} (h : DeviceInv s) : DeviceInv (wrFp e d wide act f s) := by
  unfold wrFp
  repeat' (first | assumption | split | with_reducible apply keep_raiseFlags | with_reducible apply keep_wrV)

theorem keep_poisonTarget {a b c d e} {r : State × Olds} (h : DeviceInv r.1) : DeviceInv (poisonTarget a b c d e r).1 := by
  unfold poisonTarget
  split
  · exact keep_emit h
  · exact h

theorem keep_swapLane {a b c d e f} {r : State × Olds} (h : DeviceInv r.1) : DeviceInv (swapLane a b c d e f r).1 := by
  unfold swapLane
  dsimp only
  repeat' (first | assumption | apply keep_poisonTarget | apply keep_spotWrite | split)

theorem keep_combineSet {a b c d e f} {r : State × Olds} (h : DeviceInv r.1) : DeviceInv (combineSet a b c d e f r).1 := by
  unfold combineSet
  dsimp only
  repeat' (first | assumption | apply keep_poisonTarget | apply keep_spotWrite | split)

theorem keep_atomAll {a b c d e f} {s : State} (h : DeviceInv s) : DeviceInv (atomAll a b c d e f s).1 := by
  unfold atomAll
  dsimp only
  split
  · exact keep_foldl1 (fun _ _ h => keep_swapLane h) _ h
  · exact keep_foldl1 (fun _ _ h => keep_combineSet h) _ h

theorem keep_dropLines {a0} {s : State} (h : DeviceInv s) :
    DeviceInv (dropLines a0 s) := by
  unfold dropLines
  repeat' (first | assumption | simp only [DeviceInv.mk_same] | split | with_reducible apply keep_l1Drop
                 | with_reducible (refine keep_foldl (fun s x hs => ?_) _ ?_)
                 | with_reducible refine keep_pair ?_ (by assumption) | with_reducible refine keep_pair2 ?_ (by assumption)
                 | dsimp only)

theorem keep_atomEffects {a0 a1 a2 a3} {s : State} (h : DeviceInv s) :
    DeviceInv (atomEffects a0 a1 a2 a3 s) := by
  unfold atomEffects
  repeat' (first | assumption | split | with_reducible apply keep_dropLines | with_reducible apply keep_acquireAt
                 | with_reducible apply keep_signLines | with_reducible apply keep_releaseLines
                 | with_reducible apply keep_hitsOf | with_reducible apply keep_reportLinks
                 | with_reducible apply keep_cacheWrites | with_reducible apply keep_rememberAll
                 | with_reducible apply keep_onG | with_reducible (refine keep_foldl (fun s x hs => ?_) _ ?_)
                 | with_reducible refine keep_pair ?_ (by assumption) | with_reducible refine keep_pair2 ?_ (by assumption)
                 | dsimp only)

theorem keep_atmcLane {a b c d e} {r : State × List AtmcOut} (h : DeviceInv r.1) : DeviceInv (atmcLane a b c d e r).1 := by
  unfold atmcLane
  dsimp only
  repeat' (first | assumption | apply keep_taskFault | apply keep_spotWrite | simp only [DeviceInv.mk_same] | split)

theorem keep_finishWait {a0} {s : State} (h : DeviceInv s) :
    DeviceInv (finishWait a0 s) := by
  unfold finishWait
  repeat' (first | assumption | simp only [DeviceInv.mk_same] | split | with_reducible apply keep_receive
                 | with_reducible (refine keep_foldl (fun s x hs => ?_) _ ?_)
                 | with_reducible refine keep_pair ?_ (by assumption) | with_reducible refine keep_pair2 ?_ (by assumption)
                 | dsimp only)

theorem keep_goto {va} {s : State} (h : DeviceInv s) : DeviceInv (goto va s) := keep_settle (DeviceInv.mk_same.2 h)

theorem keep_afterWait {a0} {s : State} (h : DeviceInv s) :
    DeviceInv (afterWait a0 s) := by
  unfold afterWait
  repeat' (first | assumption | simp only [DeviceInv.mk_same] | split | with_reducible apply keep_goto
                 | with_reducible apply keep_finishWait | with_reducible (refine keep_foldl (fun s x hs => ?_) _ ?_)
                 | with_reducible refine keep_pair ?_ (by assumption) | with_reducible refine keep_pair2 ?_ (by assumption)
                 | dsimp only)

theorem keep_suspendWait {w} {s : State} (h : DeviceInv s) : DeviceInv (suspendWait w s) := by
  unfold suspendWait
  repeat' (first | assumption | simp only [DeviceInv.mk_same] | split | with_reducible apply keep_settle
                 | with_reducible apply keep_afterWait)

theorem keep_arm {m} {s : State} (h : DeviceInv s) : DeviceInv (arm m s) := by
  unfold arm
  repeat' (first | assumption | simp only [DeviceInv.mk_same] | split | with_reducible apply keep_forcePhase)

theorem keep_launchOp {kind lock bar crec} {s : State} (h : DeviceInv s) : DeviceInv (launchOp kind lock bar crec s) := by
  unfold launchOp
  repeat' (first | assumption | simp only [DeviceInv.mk_same] | split | with_reducible apply keep_newUid
                 | with_reducible apply keep_releaseWait | with_reducible apply keep_onG
                 | with_reducible refine keep_pair ?_ (by assumption) | with_reducible refine keep_pair2 ?_ (by assumption))

theorem keep_settleTile {r} {s : State} (h : DeviceInv s) : DeviceInv (settleTile r s) := by
  unfold settleTile
  repeat' (first | assumption | split | with_reducible apply keep_updOp | with_reducible apply keep_updTile
                 | with_reducible apply keep_zldRow | with_reducible (refine keep_foldl (fun s x hs => ?_) _ ?_))

theorem keep_startRows {v uid} {s : State} (h : DeviceInv s) : DeviceInv (startRows v uid s) := DeviceInv.mk_same.2 h

theorem keep_takeSlot {tag pool st} {s t : State} {va : Nat} (h : DeviceInv s) (e : takeSlot tag pool st s = some (va, t)) :
    DeviceInv t := by
  unfold takeSlot at e
  dsimp only at e
  repeat' (first | contradiction | split at e)
  cases e
  exact keep_bump (keep_setSlotState (keep_zeroSlot h))

theorem keep_releaseOut {s : State} (h : DeviceInv s) : DeviceInv (releaseOut s) := keep_onG (DeviceInv.mk_same.2 h)

theorem keep_updQuery {uid f} {s : State} (h : DeviceInv s) : DeviceInv (updQuery uid f s) := DeviceInv.mk_same.2 h

theorem keep_closeQuery {a0 a1 a2} {s : State} (h : DeviceInv s) :
    DeviceInv (closeQuery a0 a1 a2 s) := by
  unfold closeQuery
  repeat' (first | assumption | split | with_reducible apply keep_updQuery | with_reducible apply keep_teamQuiet
                 | with_reducible apply keep_touchWdog | with_reducible apply keep_batchCarry
                 | with_reducible (refine keep_foldl (fun s x hs => ?_) _ ?_)
                 | with_reducible refine keep_pair ?_ (by assumption) | with_reducible refine keep_pair2 ?_ (by assumption)
                 | dsimp only)

theorem keep_creditQuery {q tag bytes sig} {s : State} (h : DeviceInv s) : DeviceInv (creditQuery q tag bytes sig s) := by
  unfold creditQuery
  repeat' (first | assumption | split | with_reducible apply keep_credit)

theorem keep_faultQuery {a b c} {s : State} (h : DeviceInv s) : DeviceInv (faultQuery a b c s) := by
  unfold faultQuery
  split
  · exact h
  · refine keep_closeQuery (keep_creditQuery (keep_emit (keep_foldl (fun s x hs => ?_) _ h)))
    split
    · exact keep_vPut hs (by assumption)
    · exact hs

theorem keep_wake {s t : State} (h : DeviceInv s) (e : wake s = some t) : DeviceInv t := by
  have h' : ∀ x : Group, DeviceInv { s with g := x } := fun x => DeviceInv.mk_same.2 h
  unfold wake at e
  repeat' (first | contradiction | split at e)
  all_goals (cases e; first | exact keep_afterWait h | exact keep_afterWait (h' _))

theorem keep_engineFault {o opc} {s : State} (h : DeviceInv s) : DeviceInv (engineFault o opc s) := by
  unfold engineFault
  repeat' (first | assumption | split | with_reducible apply keep_emit)

theorem keep_completeCopy {uid opc mine} {s : State} (h : DeviceInv s) : DeviceInv (completeCopy uid opc mine s) := by
  unfold completeCopy
  repeat' (first | assumption | split | with_reducible apply keep_finishOp | with_reducible apply keep_creditOp
                 | with_reducible apply keep_writeRecord | with_reducible apply keep_engineFault)

theorem keep_completeRows {uid opc rows} {s : State} (h : DeviceInv s) : DeviceInv (completeRows uid opc rows s) := by
  unfold completeRows
  repeat' (first | assumption | split | with_reducible apply keep_finishOp | with_reducible apply keep_engineFault
                 | with_reducible apply keep_noteRows)

theorem keep_covrAdvance {op} {s : State} (h : DeviceInv s) : DeviceInv (covrAdvance op s).2 := by
  unfold covrAdvance
  repeat' (first | assumption | split | with_reducible apply keep_stopOp | with_reducible apply keep_covrAdvise
                 | with_reducible apply keep_updOp)

theorem keep_writeCells {q tag} {rs : List ((Nat × Nat) × List Byte)} {s t : State} (h : DeviceInv s)
    (e : writeCells q tag rs s = .ok t) : DeviceInv t := by
  suffices H : ∀ (r : Except (Nat × Nat) State), (∀ t, r = .ok t → DeviceInv t) → ∀ t, (rs.foldl (fun r x => match r with
      | .error f => .error f
      | .ok s => match vPut tag (q.recAt x.1.1 x.1.2) x.2 s with
        | .ok s => .ok s
        | .error (c, va, _) => .error (c, va)) r) = .ok t → DeviceInv t from
    H (.ok s) (fun _ k => by cases k; exact h) t e
  intro r hr
  clear e
  induction rs generalizing r with
  | nil => exact hr
  | cons x rs ih =>
    apply ih
    intro t k
    cases r with
    | error f => cases k
    | ok u =>
      dsimp only at k
      cases e : vPut tag (q.recAt x.1.1 x.1.2) x.2 u with
      | ok v => rw [e] at k; cases k; exact keep_vPut (hr _ rfl) e
      | error f => rw [e] at k; cases k

theorem keep_endBeam {uid beam rs} {s : State} (h : DeviceInv s) : DeviceInv (endBeam uid beam rs s) := by
  unfold endBeam
  dsimp only
  split
  · exact h
  · split
    · exact keep_faultQuery h
    · exact keep_bump (keep_creditQuery (keep_touchWdog (keep_wpEngine (keep_updQuery (keep_writeCells h (by assumption))))))

theorem keep_spawnBeam {a b c d e} {s : State} (h : DeviceInv s) : DeviceInv (spawnBeam a b c d e s) := by
  unfold spawnBeam
  dsimp only
  split
  · exact keep_endBeam (keep_updQuery h)
  · split
    · exact h
    · split
      · exact keep_updQuery h
      · next hs =>
        have h1 := keep_takeSlot h hs
        split
        · exact keep_faultQuery h
        · next hw =>
          have h2 := keep_writeCells h1 hw
          exact keep_countCode (keep_submitRec (keep_updQuery (keep_written (keep_wpEngine h2) (keep_wpEngine h2))))

theorem keep_startSlot {core slot} {s : State} (h : DeviceInv s) : DeviceInv (startSlot core slot s).2 := DeviceInv.mk_same.2 h

theorem keep_startGroup {a0 a1 a2 a3 a4} {s : State} (h : DeviceInv s) :
    DeviceInv (startGroup a0 a1 a2 a3 a4 s) := by
  unfold startGroup
  repeat' (first | assumption | simp only [DeviceInv.mk_same] | split | with_reducible apply keep_startSlot
                 | with_reducible apply keep_newUid | with_reducible apply keep_acquireL1 | with_reducible apply keep_trace
                 | with_reducible (refine keep_foldl (fun s x hs => ?_) _ ?_)
                 | with_reducible refine keep_pair ?_ (by assumption) | with_reducible refine keep_pair2 ?_ (by assumption)
                 | dsimp only)

theorem keep_putTeam {proto entry sig core seat slots} {s : State} (h : DeviceInv s) :
    DeviceInv (putTeam proto entry sig core seat slots s) := by
  unfold putTeam
  repeat' (first | assumption | simp only [DeviceInv.mk_same] | split | with_reducible apply keep_newUid
                 | with_reducible apply keep_startGroup | with_reducible refine keep_pair ?_ (by assumption)
                 | with_reducible refine keep_pair2 ?_ (by assumption) | with_reducible (refine keep_foldl (fun s x hs => ?_) _ ?_))

theorem keep_startWork {w core seat slots} {s : State} (h : DeviceInv s) : DeviceInv (startWork w core seat slots s) := by
  unfold startWork
  repeat' (first | assumption | simp only [DeviceInv.mk_same] | split | with_reducible apply keep_putTeam
                 | with_reducible apply keep_setSlotState | with_reducible apply keep_countCode
                 | with_reducible (refine keep_foldl (fun s x hs => ?_) _ ?_))

theorem keep_sweep {s : State} (h : DeviceInv s) : DeviceInv (sweep s) := DeviceInv.mk_same.2 h

theorem keep_moveSwarm {a b} {s : State} (h : DeviceInv s) : DeviceInv (moveSwarm a b s) := by
  unfold moveSwarm
  dsimp only
  refine keep_foldl1 (fun r x hr => ?_) _ h
  split
  · exact hr
  · with_reducible apply keep_mapTeams
    exact hr

theorem keep_landHeld {s : State} (h : DeviceInv s) :
    DeviceInv (landHeld s) := by
  unfold landHeld
  repeat' (first | assumption | simp only [DeviceInv.mk_same] | split | with_reducible apply keep_landCredit
                 | with_reducible (refine keep_foldl (fun s x hs => ?_) _ ?_)
                 | with_reducible refine keep_pair ?_ (by assumption) | with_reducible refine keep_pair2 ?_ (by assumption)
                 | dsimp only)

theorem keep_relock {a0} {s : State} (h : DeviceInv s) :
    DeviceInv (relock a0 s) := by
  unfold relock
  repeat' (first | assumption | simp only [DeviceInv.mk_same] | split | with_reducible apply keep_updGroup
                 | with_reducible (refine keep_foldl (fun s x hs => ?_) _ ?_)
                 | with_reducible refine keep_pair ?_ (by assumption) | with_reducible refine keep_pair2 ?_ (by assumption)
                 | dsimp only)

theorem keep_resumeTeam {uid slots} {s : State} (h : DeviceInv s) : DeviceInv (resumeTeam uid slots s) := by
  unfold resumeTeam
  split
  · exact h
  · next t _ =>
    have k : ∀ x : State, DeviceInv x → ∀ l, DeviceInv { x with slices := x.slices.map fun z => { z with remap := z.remap.filter (· != uid) }, l1 := l } :=
      fun x hx l => DeviceInv.mk_same.2 (keep_mapSlices hx)
    exact keep_landHeld (keep_foldl (fun s x hs => keep_relock hs) _ (keep_updTeam (k _
      (keep_foldl (fun s x hs => keep_updGroup (keep_startSlot hs)) _ h) _)))

theorem keep_tryResume {x} {s t : State} (h : DeviceInv s) (e : tryResume x s = some t) : DeviceInv t := by
  unfold tryResume at e
  split at e
  · cases k : fitSaved s x with
    | none => simp [k] at e
    | some y => simp only [k, Option.map_some, Option.some.injEq] at e; subst e; exact keep_resumeTeam h
  · cases e

theorem keep_resumeSwarm {a b} {s t : State} (h : DeviceInv s) (e : resumeSwarm a b s = some t) : DeviceInv t := by
  unfold resumeSwarm at e
  dsimp only at e
  suffices H : ∀ (l : List Team) (r : Option State), (∀ t, r = some t → DeviceInv t) → ∀ t, (l.foldl (fun r t => match r with
    | none => none
    | some s => match findTeam s t.uid with
      | some t => tryResume t s
      | none => none) r) = some t → DeviceInv t from
    H _ _ (fun _ k => by cases k; exact keep_moveSwarm h) t e
  intro l
  induction l with
  | nil => exact fun r hr => hr
  | cons x l ih =>
    intro r hr
    apply ih
    intro t k
    cases r with
    | none => cases k
    | some u =>
      dsimp only at k
      cases e : findTeam u x.uid with
      | none => rw [e] at k; cases k
      | some v => rw [e] at k; exact keep_tryResume (hr _ rfl) k

theorem keep_resumeSub {x} {s : State} (h : DeviceInv s) : DeviceInv (resumeSub x s).1 := by
  unfold resumeSub
  cases e : resumeSwarm x.tag x.uid s with
  | some t =>
    have ht := keep_resumeSwarm h e
    dsimp only
    repeat' (first | exact ht | split | (refine keep_foldl1 (fun r x hr => ?_) _ h) | exact keep_tryResume hr (by assumption)
                   | assumption)
  | none =>
    dsimp only
    repeat' (first | exact h | split | (refine keep_foldl1 (fun r x hr => ?_) _ h) | exact keep_tryResume hr (by assumption)
                   | assumption)

theorem keep_placeNext {x} {s t : State} (h : DeviceInv s) (e : placeNext x s = some t) : DeviceInv t := by
  unfold placeNext at e
  split at e
  · cases e
  · split at e
    · cases e
    · dsimp only at e
      obtain ⟨r, -, rfl⟩ := Option.map_eq_some_iff.1 e
      exact keep_updSub (keep_putTeam h)

theorem keep_placeTeams {x} (n : Nat) {s : State} (h : DeviceInv s) : DeviceInv (placeTeams x n s).1 := by
  induction n generalizing s with
  | zero => exact h
  | succ n ih =>
    unfold placeTeams
    split
    · exact ih (keep_placeNext h (by assumption))
    · exact h

theorem keep_visitSub {x} {s : State} (h : DeviceInv s) : DeviceInv (visitSub x s).1 := by
  unfold visitSub
  repeat' (first | assumption | dsimp only | split | with_reducible apply keep_resumeSub
                 | with_reducible apply keep_placeTeams | with_reducible refine keep_pair ?_ (by assumption)
                 | with_reducible refine keep_pair2 ?_ (by assumption))

theorem keep_visit {a} {s : State} (h : DeviceInv s) : DeviceInv (visit a s).1 := by
  unfold visit
  repeat' (first | assumption | split | with_reducible apply keep_visitSub | with_reducible apply keep_startWork
                 | with_reducible refine keep_pair ?_ (by assumption) | with_reducible refine keep_pair2 ?_ (by assumption))

theorem keep_markPreempt {team} {s : State} (h : DeviceInv s) : DeviceInv (markPreempt team s) := DeviceInv.mk_same.2 h

theorem keep_quietGroups {team} {s : State} (h : DeviceInv s) :
    DeviceInv (quietGroups team s) := keep_fireMons (DeviceInv.mk_same.2 h)

theorem keep_switchContext {slice} {s : State} (h : DeviceInv s) : DeviceInv (switchContext slice s) := by
  unfold switchContext
  repeat' (first | assumption | dsimp only | split | with_reducible apply keep_updSlice)

theorem keep_writeTrCtl {fn slice cl val} {s : State} (h : DeviceInv s) : DeviceInv (writeTrCtl fn slice cl val s) := by
  unfold writeTrCtl
  repeat' (first | assumption | dsimp only | split | with_reducible apply keep_obsSet)

theorem keep_writeTrRptr {fn slice cl val} {s : State} (h : DeviceInv s) : DeviceInv (writeTrRptr fn slice cl val s) := by
  unfold writeTrRptr
  repeat' (first | assumption | dsimp only | split | with_reducible apply keep_obsSet)

theorem keep_startTi {fn lo n} {s : State} (h : DeviceInv s) : DeviceInv (startTi fn lo n s) := keep_updFn (DeviceInv.mk_same.2 h)

theorem keep_copyRun {a b c} (n : Nat) {i} {s : State} (h : DeviceInv s) : DeviceInv (copyRun a b c n i s).2 := by
  induction n generalizing i s with
  | zero => exact h
  | succ n ih =>
    unfold copyRun
    dsimp only
    repeat' (first | assumption | apply ih | apply keep_tlbPut | apply keep_gPut | split)

theorem keep_putRun {a b f} (n : Nat) {i} {s : State} (h : DeviceInv s) : DeviceInv (putRun a b f n i s).2 := by
  induction n generalizing i s with
  | zero => exact h
  | succ n ih =>
    unfold putRun
    dsimp only
    repeat' (first | assumption | apply ih | apply keep_tlbPut | apply keep_gPut | split)

theorem keep_passTurn {fn r} {s : State} (h : DeviceInv s) : DeviceInv (passTurn fn r s) := by
  unfold passTurn
  repeat' (first | assumption | simp only [DeviceInv.mk_same] | split)

theorem keep_runEntry {a b c} {s : State} (h : DeviceInv s) : DeviceInv (runEntry a b c s).2 := by
  unfold runEntry
  dsimp only
  repeat' (first | assumption | apply keep_copyRun | apply keep_putRun | apply keep_clearPoison | split)

theorem keep_setLane {slice l} {s : State} (h : DeviceInv s) : DeviceInv (setLane slice l s) := DeviceInv.mk_same.2 h

theorem keep_updLane {slice f} {s : State} (h : DeviceInv s) : DeviceInv (updLane slice f s) := DeviceInv.mk_same.2 h

theorem keep_updFrame {fn ring f} {s : State} (h : DeviceInv s) : DeviceInv (updFrame fn ring f s) := keep_updCtx h

theorem keep_noLimits {tag} {s : State} (h : DeviceInv s) : DeviceInv (noLimits tag s) := keep_updFn h

theorem keep_own {x0 ns} {s : State} (h : DeviceInv s) : DeviceInv (own x0 ns s) := by
  unfold own
  repeat' (first | assumption | split | with_reducible apply keep_updSlice
                 | with_reducible (refine keep_foldl (fun s x hs => ?_) _ ?_))

theorem keep_disown {x0 ns} {s : State} (h : DeviceInv s) : DeviceInv (disown x0 ns s) := by
  unfold disown
  repeat' (first | assumption | split | with_reducible apply keep_updSlice | with_reducible apply keep_own
                 | with_reducible (refine keep_foldl (fun s x hs => ?_) _ ?_))

theorem keep_scrub {a0} {s : State} (h : DeviceInv s) :
    DeviceInv (scrub a0 s) := by
  unfold scrub
  repeat' (first | assumption | simp only [DeviceInv.mk_same] | split | with_reducible apply keep_scrubCaches
                 | with_reducible apply keep_wipeTeams | with_reducible (refine keep_foldl (fun s x hs => ?_) _ ?_)
                 | with_reducible refine keep_pair ?_ (by assumption) | with_reducible refine keep_pair2 ?_ (by assumption)
                 | dsimp only)

theorem keep_endLoans {ts ns} {s : State} (h : DeviceInv s) : DeviceInv (endLoans ts ns s) := by
  unfold endLoans
  simp only [DeviceInv.mk_same]
  exact keep_endLeases h

theorem keep_releasePart {x0} {s : State} (h : DeviceInv s) : DeviceInv (releasePart x0 s) := by
  unfold releasePart
  repeat' (first | assumption | split | with_reducible apply keep_noLimits | with_reducible apply keep_disown
                 | with_reducible apply keep_scrub | with_reducible apply keep_endLoans
                 | with_reducible (refine keep_foldl (fun s x hs => ?_) _ ?_))

theorem keep_fwResult {r} {s : State} (h : DeviceInv s) : DeviceInv (fwResult r s) := DeviceInv.mk_same.2 h

theorem keep_setOther {x} {s : State} (h : DeviceInv s) : DeviceInv (setOther x s) := DeviceInv.mk_same.2 h

theorem keep_crown {port} {s : State} (h : DeviceInv s) : DeviceInv (crown port s) := DeviceInv.mk_same.2 h

theorem keep_startSub {uid} {s : State} (h : DeviceInv s) : DeviceInv (startSub uid s) := DeviceInv.mk_same.2 h

theorem keep_readFence {a0} {s : State} (h : DeviceInv s) :
    DeviceInv (readFence a0 s) := by
  unfold readFence
  repeat' (first | assumption | split | with_reducible apply keep_completeSub | with_reducible apply keep_sendOut
                 | with_reducible apply keep_tlbPut | with_reducible apply keep_updSub
                 | with_reducible (refine keep_foldl (fun s x hs => ?_) _ ?_)
                 | with_reducible refine keep_pair ?_ (by assumption) | with_reducible refine keep_pair2 ?_ (by assumption)
                 | dsimp only)

theorem keep_apFail {fn} {s : State} (h : DeviceInv s) : DeviceInv (apFail fn s) := keep_updFn h

theorem keep_startRetrain {port} {s : State} (h : DeviceInv s) : DeviceInv (startRetrain port s) := by
  unfold startRetrain
  repeat' (first | assumption | dsimp only | split | with_reducible apply keep_updPort
                 | with_reducible apply keep_lifeAdd | with_reducible apply keep_emit)

theorem keep_countCauses {base step a} {s : State} (h : DeviceInv s) : DeviceInv (countCauses base step a s) := by
  unfold countCauses
  repeat' (first | assumption | split | with_reducible apply keep_lifeAdd
                 | with_reducible (refine keep_foldl (fun s x hs => ?_) _ ?_))

theorem keep_countTime {a b} {s : State} (h : DeviceInv s) : DeviceInv (countTime a b s) := by
  unfold countTime
  have H : ∀ s, DeviceInv s → DeviceInv (if crossed s 3600000000000 then lifeAdd 0x14 1 s else s) := by
    intro s h
    split
    · exact keep_lifeAdd h
    · exact h
  apply H
  dsimp only
  split
  · split
    · exact keep_bump (keep_lifeAdd (keep_lifeAdd h))
    · exact keep_countCauses (keep_bump (keep_lifeAdd (keep_lifeAdd h)))
  · exact h

theorem keep_writeFwCtl {fn v} {s : State} (h : DeviceInv s) : DeviceInv (writeFwCtl fn v s) := by
  unfold writeFwCtl
  repeat' (first | assumption | simp only [DeviceInv.mk_same] | split | with_reducible apply keep_fwResult)

theorem keep_writeSqCtl {fn q v} {s : State} (h : DeviceInv s) : DeviceInv (writeSqCtl fn q v s) := by
  unfold writeSqCtl
  repeat' (first | assumption | split | with_reducible apply keep_updSq)

theorem keep_bankWrite {fn slice b off v} {s : State} (h : DeviceInv s) : DeviceInv (bankWrite fn slice b off v s) := by
  unfold bankWrite
  repeat' (first | assumption | simp only [DeviceInv.mk_same] | split | with_reducible apply keep_obsSet
                 | with_reducible apply keep_writeCbCtl)

theorem keep_writeGpc {fn slice cl v} {s : State} (h : DeviceInv s) : DeviceInv (writeGpc fn slice cl v s) := by
  unfold writeGpc
  repeat' (first | assumption | split | with_reducible apply keep_updGroup)

theorem keep_obsWrite {fn slice o v} {s : State} (h : DeviceInv s) : DeviceInv (obsWrite fn slice o v s) := by
  unfold obsWrite
  repeat' (first | assumption | simp only [DeviceInv.mk_same] | split | with_reducible apply keep_obsSet
                 | with_reducible apply keep_holdWrite | with_reducible apply keep_bankWrite
                 | with_reducible apply keep_writeTrCtl | with_reducible apply keep_writeTrRptr
                 | with_reducible apply keep_writeGpc)

theorem keep_pmGo {s : State} (h : DeviceInv s) : DeviceInv (pmGo s) := by
  unfold pmGo
  repeat' (first | assumption | simp only [DeviceInv.mk_same] | split | with_reducible apply keep_pmEnd)

theorem keep_writeRst {v} {s : State} (h : DeviceInv s) : DeviceInv (writeRst v s) := by
  unfold writeRst
  repeat' (first | assumption | split | with_reducible apply keep_askReset)

theorem keep_regWrite {fn r v} {s : State} (h : DeviceInv s) : DeviceInv (regWrite fn r v s) := by
  unfold regWrite
  repeat' (first | assumption | simp only [DeviceInv.mk_same] | split | with_reducible apply keep_updFn
                 | with_reducible apply keep_updSq | with_reducible apply keep_writeSqCtl | with_reducible apply keep_obsWrite
                 | with_reducible apply keep_pmGo | with_reducible apply keep_writeRst)

theorem keep_suspendYield {pc} {s : State} (h : DeviceInv s) : DeviceInv (suspendYield pc s) := by
  unfold suspendYield
  repeat' (first | assumption | simp only [DeviceInv.mk_same] | split | with_reducible apply keep_settle
                 | with_reducible apply keep_afterWait)

theorem keep_leaveShadow {suppress} {s : State} (h : DeviceInv s) :
    DeviceInv (leaveShadow suppress s) := keep_goto (DeviceInv.mk_same.2 h)

theorem keep_noteHit {x0 act} {s : State} (h : DeviceInv s) : DeviceInv (noteHit x0 act s) := DeviceInv.mk_same.2 h

theorem keep_splitEnd {a b} {s t : State} {n : Nat} (h : DeviceInv s) (e : splitEnd a b s = some (n, t)) : DeviceInv t := by
  unfold splitEnd at e
  dsimp only at e
  split at e
  · cases e
  · cases e; exact keep_disown (keep_scrub h)

theorem keep_forceSwarms {x0 ns} {s : State} (h : DeviceInv s) : DeviceInv (forceSwarms x0 ns s) := DeviceInv.mk_same.2 h

theorem keep_endClaim {c} {s : State} (h : DeviceInv s) : DeviceInv (endClaim c s) := by
  unfold endClaim
  repeat' (first | assumption | simp only [DeviceInv.mk_same] | split | with_reducible apply keep_bankWrite
                 | with_reducible apply keep_obsSet | with_reducible apply keep_trace
                 | with_reducible (refine keep_foldl (fun s x hs => ?_) _ ?_))

theorem keep_acceptHeld {tag} {s : State} (h : DeviceInv s) : DeviceInv (acceptHeld tag s) := by
  unfold acceptHeld
  repeat' (first | assumption | split | with_reducible apply keep_meterLease | with_reducible apply keep_updOp
                 | with_reducible (refine keep_foldl (fun s x hs => ?_) _ ?_))

theorem keep_refillAll {s : State} (h : DeviceInv s) : DeviceInv (refillAll s) := by
  unfold refillAll
  exact keep_foldl (fun s x hs => keep_updFn (DeviceInv.mk_same.2 hs)) _ h

theorem keep_runSlot {b} {s : State} (h : DeviceInv s) : DeviceInv (runSlot b s) := DeviceInv.mk_same.2 h

theorem keep_unpowered {s : State} (h : DeviceInv s) : DeviceInv (unpowered s) := by
  obtain ⟨-, -, -, h4, -⟩ := wf_iff.1 h.mem
  exact ⟨wf_iff.2 ⟨rfl, rfl, rfl, h4, rfl⟩, rfl, rfl, rfl⟩

theorem keep_noResult {s : State} (h : DeviceInv s) : DeviceInv (noResult s) := DeviceInv.mk_same.2 h

theorem keep_lifeSet {off n} {s : State} (h : DeviceInv s) : DeviceInv (lifeSet off n s) := DeviceInv.mk_same.2 h

theorem keep_emptied {s : State} (h : DeviceInv s) : DeviceInv (emptied s) := DeviceInv.mk_same.2 h

theorem keep_diverge {target join next tk fk hint} {s : State} (h : DeviceInv s) :
    DeviceInv (diverge target join next tk fk hint s) := by
  unfold diverge
  repeat' (first | assumption | (intro t; have ht : DeviceInv t := ?_; clear_value t)
                 | (intro t; have ht : DeviceInv t.1 := ?_; clear_value t)
                 | (intro t; have ht : DeviceInv t.2 := ?_; clear_value t) | intro t | lift_lets | dsimp only [t]
                 | simp only [DeviceInv.mk_same] | split | with_reducible apply keep_countMine | with_reducible apply keep_settle
                 | dsimp only)

theorem keep_readMore {a0 a1 a2} {s : State} (h : DeviceInv s) :
    DeviceInv (readMore a0 a1 a2 s) := by
  unfold readMore
  repeat' (first | assumption | split | with_reducible apply keep_onG
                 | with_reducible (refine keep_foldl (fun s x hs => ?_) _ ?_)
                 | with_reducible refine keep_pair ?_ (by assumption) | with_reducible refine keep_pair2 ?_ (by assumption)
                 | dsimp only)

theorem keep_closeExpired {s : State} (h : DeviceInv s) :
    DeviceInv (closeExpired s) := by
  unfold closeExpired
  repeat' (first | assumption | simp only [DeviceInv.mk_same] | split | with_reducible apply keep_closeDue
                 | with_reducible (refine keep_foldl (fun s x hs => ?_) _ ?_)
                 | with_reducible refine keep_pair ?_ (by assumption) | with_reducible refine keep_pair2 ?_ (by assumption)
                 | dsimp only)

theorem keep_fenceRelease {s : State} (h : DeviceInv s) :
    DeviceInv (fenceRelease s) := by
  unfold fenceRelease
  repeat' (first | assumption | simp only [DeviceInv.mk_same] | split | with_reducible apply keep_releaseWait
                 | with_reducible (refine keep_foldl (fun s x hs => ?_) _ ?_)
                 | with_reducible refine keep_pair ?_ (by assumption) | with_reducible refine keep_pair2 ?_ (by assumption)
                 | dsimp only)

theorem keep_installSave {a0 a1} {s : State} (h : DeviceInv s) :
    DeviceInv (installSave a0 a1 s) := by
  unfold installSave
  repeat' (first | assumption | split | with_reducible apply keep_updTeam | with_reducible apply keep_switchContext
                 | with_reducible apply keep_updSlice | with_reducible (refine keep_foldl (fun s x hs => ?_) _ ?_)
                 | with_reducible refine keep_pair ?_ (by assumption) | with_reducible refine keep_pair2 ?_ (by assumption)
                 | dsimp only)

theorem keep_barrierSave {a0} {s : State} (h : DeviceInv s) :
    DeviceInv (barrierSave a0 s) := by
  unfold barrierSave
  repeat' (first | assumption | split | with_reducible apply keep_updGroup | with_reducible apply keep_quietGroups
                 | with_reducible apply keep_installSave | with_reducible apply keep_updTeam
                 | with_reducible (refine keep_foldl (fun s x hs => ?_) _ ?_)
                 | with_reducible refine keep_pair ?_ (by assumption) | with_reducible refine keep_pair2 ?_ (by assumption)
                 | dsimp only)

theorem keep_visitDue {a0 a1} {s : State} (h : DeviceInv s) :
    DeviceInv (visitDue a0 a1 s) := by
  unfold visitDue
  repeat' (first | assumption | split | with_reducible apply keep_visit
                 | with_reducible (refine keep_foldl (fun s x hs => ?_) _ ?_)
                 | with_reducible refine keep_pair ?_ (by assumption) | with_reducible refine keep_pair2 ?_ (by assumption)
                 | dsimp only)

theorem keep_flushWays {a0 a1 a2 a3} {s : State} (h : DeviceInv s) :
    DeviceInv (flushWays a0 a1 a2 a3 s) := by
  unfold flushWays
  repeat' (first | assumption | simp only [DeviceInv.mk_same] | split | with_reducible apply keep_bump
                 | with_reducible (refine keep_foldl (fun s x hs => ?_) _ ?_)
                 | with_reducible refine keep_pair ?_ (by assumption) | with_reducible refine keep_pair2 ?_ (by assumption)
                 | dsimp only)

theorem keep_freshKey {k t} {s : State} (h : DeviceInv s) : DeviceInv (freshKey k t s) := by
  obtain ⟨h1, h2, h3, h4, h5⟩ := wf_iff.1 h.mem
  unfold freshKey
  have k := DeviceInv.mk_mem (m := { s.mem with under := s.mem.under.filter fun c => c.1 % 4096 != k }) h
    (wf_iff.2 ⟨h1, h2, h3, h4, wf_filter _ h5⟩)
  exact DeviceInv.mk_same.2 k

theorem keep_sendEntry {a0 a1 a2} {s : State} (h : DeviceInv s) :
    DeviceInv (sendEntry a0 a1 a2 s) := by
  unfold sendEntry
  repeat' (first | assumption | simp only [DeviceInv.mk_same] | split | with_reducible apply keep_sendVa
                 | with_reducible (refine keep_foldl (fun s x hs => ?_) _ ?_)
                 | with_reducible refine keep_pair ?_ (by assumption) | with_reducible refine keep_pair2 ?_ (by assumption)
                 | dsimp only)

theorem keep_giveBack {a0} {s : State} (h : DeviceInv s) :
    DeviceInv (giveBack a0 s) := by
  unfold giveBack
  repeat' (first | assumption | simp only [DeviceInv.mk_same] | split | with_reducible apply keep_sendOut
                 | with_reducible (refine keep_foldl (fun s x hs => ?_) _ ?_)
                 | with_reducible refine keep_pair ?_ (by assumption) | with_reducible refine keep_pair2 ?_ (by assumption)
                 | dsimp only)

theorem keep_passHeld {a0 a1} {s : State} (h : DeviceInv s) :
    DeviceInv (passHeld a0 a1 s) := by
  unfold passHeld
  repeat' (first | assumption | split | with_reducible apply keep_updPort
                 | with_reducible (refine keep_foldl (fun s x hs => ?_) _ ?_)
                 | with_reducible refine keep_pair ?_ (by assumption) | with_reducible refine keep_pair2 ?_ (by assumption)
                 | dsimp only)

theorem keep_takeTurn {s : State} (h : DeviceInv s) :
    DeviceInv (takeTurn s) := by
  unfold takeTurn
  repeat' (first | assumption | simp only [DeviceInv.mk_same] | split 
                 | with_reducible (refine keep_foldl (fun s x hs => ?_) _ ?_)
                 | with_reducible refine keep_pair ?_ (by assumption) | with_reducible refine keep_pair2 ?_ (by assumption)
                 | dsimp only)

theorem keep_withGroup {s : State} (h : DeviceInv s) : DeviceInv (withGroup s) := by
  obtain ⟨h1, h2, h3, h4, h5⟩ := wf_iff.1 h.mem
  unfold withGroup
  refine keep_updFn (keep_updSlice ?_)
  have hm : (pokeBytes (pokeBytes s.mem.hbm 0x1000 8 0x2001) 0x2000 8 (2 ^ 52 + 0x1F)).wf = true :=
    wf_pokeN _ _ _ (wf_pokeN _ _ _ h1)
  generalize pokeBytes (pokeBytes s.mem.hbm 0x1000 8 0x2001) 0x2000 8 (2 ^ 52 + 0x1F) = m at hm ⊢
  exact ⟨wf_iff.2 ⟨hm, h2, h3, h4, h5⟩, h.2, h.3, h.4⟩

theorem keep_passTime {a0} {s : State} (h : DeviceInv s) :
    DeviceInv (passTime a0 s) := by
  unfold passTime
  repeat' (first | assumption | simp only [DeviceInv.mk_same] | split | with_reducible apply keep_closeExpired
                 | with_reducible (refine keep_foldl (fun s x hs => ?_) _ ?_)
                 | with_reducible refine keep_pair ?_ (by assumption) | with_reducible refine keep_pair2 ?_ (by assumption)
                 | dsimp only)

/-! ### Outcomes of meanings -/

/-- The outcome goes on in a good state, or stops. -/
def Good (o : Host.Outcome State Fault Refusal) : Prop := match o with | .next t => DeviceInv t | _ => True
/-- The body runs on into a good state, or faults. -/
def Fine (a : Act) : Prop := match a with | .ok t => DeviceInv t | .fault _ => True

theorem good_next {t : State} : Good (.next t) ↔ DeviceInv t := Iff.rfl

theorem good_fault {f : Fault} : Good (.fault f) ↔ True := Iff.rfl

theorem fine_ok {t : State} : Fine (.ok t) ↔ DeviceInv t := Iff.rfl

theorem fine_fault {f} : Fine (.fault f) ↔ True := Iff.rfl

theorem keep_issue {i : Instr} {s : State} {body : Enc → State → Act} (h : DeviceInv s) (hb : ∀ e s, DeviceInv s → Fine (body e s)) :
    Good (issue i s body) := by
  unfold issue
  cases toEnc i with
  | none => exact h
  | some e =>
    dsimp only
    cases issueFault e s with
    | some f => exact keep_takeFault h
    | none =>
      have k := hb e (beginIssue e s) (keep_beginIssue h)
      dsimp only
      cases hk : body e (beginIssue e s) with
      | ok t => rw [hk] at k; exact k
      | fault f => exact keep_takeFault h

theorem keep_plain {f : Enc → State → State} (hf : ∀ e s, DeviceInv s → DeviceInv (f e s)) {e s} (h : DeviceInv s) :
    Fine (plain f e s) := keep_seqNext (hf _ _ h)

theorem keep_lanewise {h w d f e} {s : State} (hs : DeviceInv s) : Fine (lanewise h w d f e s) := keep_plain (fun _ _ h => keep_wrV h) hs

theorem keep_lane1 {h w d f a e} {s : State} (hs : DeviceInv s) : Fine (lane1 h w d a f e s) := keep_lanewise hs

theorem keep_lane2 {h w d f a b e} {s : State} (hs : DeviceInv s) : Fine (lane2 h w d a b f e s) := keep_lanewise hs

theorem keep_lane3 {h w d f a b c e} {s : State} (hs : DeviceInv s) : Fine (lane3 h w d a b c f e s) := keep_lanewise hs

theorem keep_laneShift {h w d f a b e} {s : State} (hs : DeviceInv s) : Fine (laneShift h w d a b f e s) := keep_lanewise hs

theorem keep_laneW {h d f e} {s : State} (hs : DeviceInv s) : Fine (laneW h d f e s) := keep_lanewise hs

theorem keep_predwise {h d f e} {s : State} (hs : DeviceInv s) : Fine (predwise h d f e s) := keep_plain (fun _ _ h => keep_wrP h) hs

theorem keep_uni {h w d f e} {s : State} (hs : DeviceInv s) : Fine (uni h w d f e s) := keep_plain (fun _ _ h => keep_wrG h) hs

theorem keep_fpwise {h T d f e} {s : State} (hs : DeviceInv s) : Fine (fpwise h T d f e s) := keep_plain (fun _ _ h => keep_wrFp h) hs

theorem keep_lanewiseOpt {h T d f e} {s : State} (hs : DeviceInv s) : Fine (lanewiseOpt h T d f e s) := keep_plain (fun _ _ h => keep_wrVec h) hs

theorem keep_sfuOp {g h T i d a e} {s : State} (hs : DeviceInv s) : Fine (sfuOp g h T i d a e s) := by
  refine keep_plain (fun e s h => ?_) hs
  dsimp only
  split
  · exact keep_wrFp h
  · exact keep_onG (keep_wrFp h)

theorem keep_onObj {h a f e} {s : State} (hs : DeviceInv s) (hf : ∀ n e s, DeviceInv s → Fine (f n e s)) : Fine (onObj h a f e s) := by
  unfold onObj
  dsimp only
  split
  · exact keep_seqNext hs
  · split
    · trivial
    · exact hf _ _ _ hs

theorem fine_ite {c : Prop} [Decidable c] {a b : Act} (ha : Fine a) (hb : Fine b) : Fine (if c then a else b) := by
  split
  · exact ha
  · exact hb

theorem keep_branch {gd hint t j e} {s : State} (hs : DeviceInv s) : Fine (branch gd hint t j e s) :=
  fine_ite (keep_seqNext hs) (fine_ite True.intro (fine_ite (keep_goto hs) (fine_ite True.intro (keep_diverge hs))))

theorem keep_callTo {ch d t e} {s : State} (hs : DeviceInv s) : Fine (callTo ch d t e s) := by
  refine fine_ite (keep_seqNext hs) (fine_ite True.intro (fine_ite True.intro ?_))
  dsimp only
  have h : DeviceInv (match d with
      | .g r => onG (Group.setGPair r.toNat ((nextPc e s).zeroExtend 64)) s
      | _ => s) := by
    split
    · exact keep_onG hs
    · exact hs
  exact fine_ite (keep_goto h) (keep_diverge h)

theorem keep_answer {fn bs} {s : State} (h : DeviceInv s) : Good (answer fn bs s) := by
  unfold answer
  split
  · exact keep_bump (keep_updFn h)
  · exact h

theorem keep_pmRun {op mine run} {s : State} (h : DeviceInv s) (hr : ∀ s, DeviceInv s → ∀ n t, run s = some (n, t) → DeviceInv t) :
    Good (pmRun op mine run s) := by
  unfold pmRun
  split
  · split
    · exact keep_pmEnd (hr _ h _ _ (by assumption))
    · exact h
  · exact h

theorem keep_fwCmd {p run} {s : State} (h : DeviceInv s) (hr : ∀ s, DeviceInv s → DeviceInv (run s)) : Good (fwCmd p run s) := by
  unfold fwCmd
  split
  · exact h
  · split
    · exact hr _ h
    · exact keep_fwResult h

end Sys2Proof.Machine
end

