-- ==== Sys2Proof/Laws/PerInstr.lean ====
section
/-!
SUPPORT. A statement made for every instruction: an encoding has the length its LEN field names, and its words fill that
length (spec/02 R42, R49); one lemma a constructor.
-/
namespace Sys2Proof.Laws

/-- The words of an encoding are as many as its form has, LEN names that form, and the length is 8, 12 or 16 bytes. -/
def EncodingLength.Statement (i : Instr) : Prop :=
  ∀ e, toEnc i = some e → e.w.len = e.f.len ∧ 4 * e.words.length = e.f.bytes ∧ (e.f.bytes = 8 ∨ e.f.bytes = 12 ∨ e.f.bytes = 16)

theorem EncodingLength.of_fields (i : Instr) (e : Enc) (h : toEnc i = some e) (hl : e.w.len = e.f.len) :
    EncodingLength.Statement i := by
  intro e' h'
  rw [h] at h'
  cases h'
  refine ⟨hl, ?_, ?_⟩ <;> cases hf : e.f <;> simp [Enc.words, Form.bytes, hf]

theorem EncodingLength.of_none (i : Instr) (h : toEnc i = none) : EncodingLength.Statement i := by
  intro e h'
  rw [h] at h'
  cases h'

theorem EncodingLength.nop (stay : Bool) : EncodingLength.Statement (.nop stay) :=
  EncodingLength.of_fields _ _ rfl rfl
theorem EncodingLength.bra (ch : CHdr) (join : BitVec 20) (target : Word) : EncodingLength.Statement (.bra ch join target) :=
  EncodingLength.of_fields _ _ rfl rfl
theorem EncodingLength.brx (ch : CHdr) (a : Opnd) (join : Word) : EncodingLength.Statement (.brx ch a join) :=
  EncodingLength.of_fields _ _ rfl rfl
theorem EncodingLength.call (ch : CHdr) (d : Opnd) (target : Word) : EncodingLength.Statement (.call ch d target) :=
  EncodingLength.of_fields _ _ rfl rfl
theorem EncodingLength.callx (ch : CHdr) (d a : Opnd) : EncodingLength.Statement (.callx ch d a) :=
  EncodingLength.of_fields _ _ rfl rfl
theorem EncodingLength.ret (gd : Guard) (a : Opnd) : EncodingLength.Statement (.ret gd a) :=
  EncodingLength.of_fields _ _ rfl rfl
theorem EncodingLength.exit (gd : Guard) : EncodingLength.Statement (.exit gd) :=
  EncodingLength.of_fields _ _ rfl rfl
theorem EncodingLength.trap (gd : Guard) (a : Opnd) : EncodingLength.Statement (.trap gd a) :=
  EncodingLength.of_fields _ _ rfl rfl
theorem EncodingLength.brk (h : Hdr) : EncodingLength.Statement (.brk h) :=
  EncodingLength.of_fields _ _ rfl rfl
theorem EncodingLength.sysrd (h : Hdr) (w64 : Bool) (d a : Opnd) : EncodingLength.Statement (.sysrd h w64 d a) :=
  EncodingLength.of_fields _ _ rfl rfl
theorem EncodingLength.syswr (h : Hdr) (w64 : Bool) (a b : Opnd) : EncodingLength.Statement (.syswr h w64 a b) :=
  EncodingLength.of_fields _ _ rfl rfl
theorem EncodingLength.emrd (h : Hdr) (d : Opnd) : EncodingLength.Statement (.emrd h d) :=
  EncodingLength.of_fields _ _ rfl rfl
theorem EncodingLength.emwr (gd : Guard) (a : Opnd) : EncodingLength.Statement (.emwr gd a) :=
  EncodingLength.of_fields _ _ rfl rfl
theorem EncodingLength.gmov (h : Hdr) (ty : IType) (d a : Opnd) : EncodingLength.Statement (.gmov h ty d a) :=
  EncodingLength.of_fields _ _ rfl rfl
theorem EncodingLength.gadd (h : Hdr) (ty : IType) (sat : Bool) (d a b : Opnd) : EncodingLength.Statement (.gadd h ty sat d a b) :=
  EncodingLength.of_fields _ _ rfl rfl
theorem EncodingLength.gsub (h : Hdr) (ty : IType) (sat : Bool) (d a b : Opnd) : EncodingLength.Statement (.gsub h ty sat d a b) :=
  EncodingLength.of_fields _ _ rfl rfl
theorem EncodingLength.gmul (h : Hdr) (ty : IType) (d a b : Opnd) : EncodingLength.Statement (.gmul h ty d a b) :=
  EncodingLength.of_fields _ _ rfl rfl
theorem EncodingLength.gmulh (h : Hdr) (ty : IType) (d a b : Opnd) : EncodingLength.Statement (.gmulh h ty d a b) :=
  EncodingLength.of_fields _ _ rfl rfl
theorem EncodingLength.gmad (h : Hdr) (ty : IType) (sat : Bool) (d a b c : Opnd) : EncodingLength.Statement (.gmad h ty sat d a b c) :=
  EncodingLength.of_fields _ _ rfl rfl
theorem EncodingLength.gand (h : Hdr) (ty : IType) (d a b : Opnd) : EncodingLength.Statement (.gand h ty d a b) :=
  EncodingLength.of_fields _ _ rfl rfl
theorem EncodingLength.gor (h : Hdr) (ty : IType) (d a b : Opnd) : EncodingLength.Statement (.gor h ty d a b) :=
  EncodingLength.of_fields _ _ rfl rfl
theorem EncodingLength.gxor (h : Hdr) (ty : IType) (d a b : Opnd) : EncodingLength.Statement (.gxor h ty d a b) :=
  EncodingLength.of_fields _ _ rfl rfl
theorem EncodingLength.gshl (h : Hdr) (ty : IType) (d a b : Opnd) : EncodingLength.Statement (.gshl h ty d a b) :=
  EncodingLength.of_fields _ _ rfl rfl
theorem EncodingLength.gshr (h : Hdr) (ty : IType) (d a b : Opnd) : EncodingLength.Statement (.gshr h ty d a b) :=
  EncodingLength.of_fields _ _ rfl rfl
theorem EncodingLength.gsar (h : Hdr) (ty : IType) (d a b : Opnd) : EncodingLength.Statement (.gsar h ty d a b) :=
  EncodingLength.of_fields _ _ rfl rfl
theorem EncodingLength.gmin (h : Hdr) (ty : IType) (d a b : Opnd) : EncodingLength.Statement (.gmin h ty d a b) :=
  EncodingLength.of_fields _ _ rfl rfl
theorem EncodingLength.gmax (h : Hdr) (ty : IType) (d a b : Opnd) : EncodingLength.Statement (.gmax h ty d a b) :=
  EncodingLength.of_fields _ _ rfl rfl
theorem EncodingLength.gcmp (h : Hdr) (ty : IType) (cond : Cond) (d a b : Opnd) : EncodingLength.Statement (.gcmp h ty cond d a b) :=
  EncodingLength.of_fields _ _ rfl rfl
theorem EncodingLength.gsel (h : Hdr) (ty : IType) (d a b c : Opnd) : EncodingLength.Statement (.gsel h ty d a b c) :=
  EncodingLength.of_fields _ _ rfl rfl
theorem EncodingLength.glea (h : Hdr) (sh : BitVec 3) (d a b : Opnd) : EncodingLength.Statement (.glea h sh d a b) :=
  EncodingLength.of_fields _ _ rfl rfl
theorem EncodingLength.gbfx (h : Hdr) (ty : IType) (d a b : Opnd) : EncodingLength.Statement (.gbfx h ty d a b) :=
  EncodingLength.of_fields _ _ rfl rfl
theorem EncodingLength.gbfi (h : Hdr) (d a b c : Opnd) : EncodingLength.Statement (.gbfi h d a b c) :=
  EncodingLength.of_fields _ _ rfl rfl
theorem EncodingLength.gclz (h : Hdr) (ty : IType) (d a : Opnd) : EncodingLength.Statement (.gclz h ty d a) :=
  EncodingLength.of_fields _ _ rfl rfl
theorem EncodingLength.gpopc (h : Hdr) (ty : IType) (d a : Opnd) : EncodingLength.Statement (.gpopc h ty d a) :=
  EncodingLength.of_fields _ _ rfl rfl
theorem EncodingLength.gld (h : Hdr) (sp : Space) (pol : CachePol) (sz : Size) (d a b : Opnd) (disp : Disp) : EncodingLength.Statement (.gld h sp pol sz d a b disp) :=
  EncodingLength.of_fields _ _ rfl rfl
theorem EncodingLength.gst (h : Hdr) (sp : Space) (pol : CachePol) (sz : Size) (d a b : Opnd) (disp : Disp) : EncodingLength.Statement (.gst h sp pol sz d a b disp) :=
  EncodingLength.of_fields _ _ rfl rfl
theorem EncodingLength.add (h : Hdr) (ty : IType) (sat : Bool) (d a b : Opnd) : EncodingLength.Statement (.add h ty sat d a b) :=
  EncodingLength.of_fields _ _ rfl rfl
theorem EncodingLength.sub (h : Hdr) (ty : IType) (sat : Bool) (d a b : Opnd) : EncodingLength.Statement (.sub h ty sat d a b) :=
  EncodingLength.of_fields _ _ rfl rfl
theorem EncodingLength.mul (h : Hdr) (ty : IType) (d a b : Opnd) : EncodingLength.Statement (.mul h ty d a b) :=
  EncodingLength.of_fields _ _ rfl rfl
theorem EncodingLength.mulh (h : Hdr) (ty : IType) (d a b : Opnd) : EncodingLength.Statement (.mulh h ty d a b) :=
  EncodingLength.of_fields _ _ rfl rfl
theorem EncodingLength.mad (h : Hdr) (ty : IType) (sat : Bool) (d a b c : Opnd) : EncodingLength.Statement (.mad h ty sat d a b c) :=
  EncodingLength.of_fields _ _ rfl rfl
theorem EncodingLength.and (h : Hdr) (ty : IType) (d a b : Opnd) : EncodingLength.Statement (.and h ty d a b) :=
  EncodingLength.of_fields _ _ rfl rfl
theorem EncodingLength.or (h : Hdr) (ty : IType) (d a b : Opnd) : EncodingLength.Statement (.or h ty d a b) :=
  EncodingLength.of_fields _ _ rfl rfl
theorem EncodingLength.xor (h : Hdr) (ty : IType) (d a b : Opnd) : EncodingLength.Statement (.xor h ty d a b) :=
  EncodingLength.of_fields _ _ rfl rfl
theorem EncodingLength.shl (h : Hdr) (ty : IType) (d a b : Opnd) : EncodingLength.Statement (.shl h ty d a b) :=
  EncodingLength.of_fields _ _ rfl rfl
theorem EncodingLength.shr (h : Hdr) (ty : IType) (d a b : Opnd) : EncodingLength.Statement (.shr h ty d a b) :=
  EncodingLength.of_fields _ _ rfl rfl
theorem EncodingLength.sar (h : Hdr) (ty : IType) (d a b : Opnd) : EncodingLength.Statement (.sar h ty d a b) :=
  EncodingLength.of_fields _ _ rfl rfl
theorem EncodingLength.min (h : Hdr) (ty : IType) (d a b : Opnd) : EncodingLength.Statement (.min h ty d a b) :=
  EncodingLength.of_fields _ _ rfl rfl
theorem EncodingLength.max (h : Hdr) (ty : IType) (d a b : Opnd) : EncodingLength.Statement (.max h ty d a b) :=
  EncodingLength.of_fields _ _ rfl rfl
theorem EncodingLength.abs (h : Hdr) (ty : IType) (sat : Bool) (d a : Opnd) : EncodingLength.Statement (.abs h ty sat d a) :=
  EncodingLength.of_fields _ _ rfl rfl
theorem EncodingLength.sel (h : Hdr) (ty : IType) (d a b c : Opnd) : EncodingLength.Statement (.sel h ty d a b c) :=
  EncodingLength.of_fields _ _ rfl rfl
theorem EncodingLength.cmp (h : Hdr) (ty : IType) (cond : Cond) (d a b : Opnd) : EncodingLength.Statement (.cmp h ty cond d a b) :=
  EncodingLength.of_fields _ _ rfl rfl
theorem EncodingLength.bfx (h : Hdr) (ty : IType) (d a b : Opnd) : EncodingLength.Statement (.bfx h ty d a b) :=
  EncodingLength.of_fields _ _ rfl rfl
theorem EncodingLength.bfi (h : Hdr) (d a b c : Opnd) : EncodingLength.Statement (.bfi h d a b c) :=
  EncodingLength.of_fields _ _ rfl rfl
theorem EncodingLength.clz (h : Hdr) (ty : IType) (d a : Opnd) : EncodingLength.Statement (.clz h ty d a) :=
  EncodingLength.of_fields _ _ rfl rfl
theorem EncodingLength.popc (h : Hdr) (ty : IType) (d a : Opnd) : EncodingLength.Statement (.popc h ty d a) :=
  EncodingLength.of_fields _ _ rfl rfl
theorem EncodingLength.brev (h : Hdr) (ty : IType) (d a : Opnd) : EncodingLength.Statement (.brev h ty d a) :=
  EncodingLength.of_fields _ _ rfl rfl
theorem EncodingLength.idp4 (h : Hdr) (aN bN sat : Bool) (d a b c : Opnd) : EncodingLength.Statement (.idp4 h aN bN sat d a b c) :=
  EncodingLength.of_fields _ _ rfl rfl
theorem EncodingLength.sad (h : Hdr) (ty : IType) (d a b c : Opnd) : EncodingLength.Statement (.sad h ty d a b c) :=
  EncodingLength.of_fields _ _ rfl rfl
theorem EncodingLength.addc (h : Hdr) (d a b c : Opnd) : EncodingLength.Statement (.addc h d a b c) :=
  EncodingLength.of_fields _ _ rfl rfl
theorem EncodingLength.pand (h : Hdr) (d a b : Opnd) : EncodingLength.Statement (.pand h d a b) :=
  EncodingLength.of_fields _ _ rfl rfl
theorem EncodingLength.por (h : Hdr) (d a b : Opnd) : EncodingLength.Statement (.por h d a b) :=
  EncodingLength.of_fields _ _ rfl rfl
theorem EncodingLength.pxor (h : Hdr) (d a b : Opnd) : EncodingLength.Statement (.pxor h d a b) :=
  EncodingLength.of_fields _ _ rfl rfl
theorem EncodingLength.pnot (h : Hdr) (d a : Opnd) : EncodingLength.Statement (.pnot h d a) :=
  EncodingLength.of_fields _ _ rfl rfl
theorem EncodingLength.vany (h : Hdr) (d a : Opnd) : EncodingLength.Statement (.vany h d a) :=
  EncodingLength.of_fields _ _ rfl rfl
theorem EncodingLength.vall (h : Hdr) (d a : Opnd) : EncodingLength.Statement (.vall h d a) :=
  EncodingLength.of_fields _ _ rfl rfl
theorem EncodingLength.vbal (h : Hdr) (d a : Opnd) : EncodingLength.Statement (.vbal h d a) :=
  EncodingLength.of_fields _ _ rfl rfl
theorem EncodingLength.mbcnt (h : Hdr) (d a : Opnd) : EncodingLength.Statement (.mbcnt h d a) :=
  EncodingLength.of_fields _ _ rfl rfl
theorem EncodingLength.fadd (h : Hdr) (fty : FType) (absa : Bool) (rnd : Rnd) (na nb : Bool) (d a b : Opnd) : EncodingLength.Statement (.fadd h fty absa rnd na nb d a b) :=
  EncodingLength.of_fields _ _ rfl rfl
theorem EncodingLength.fsub (h : Hdr) (fty : FType) (absa : Bool) (rnd : Rnd) (na nb : Bool) (d a b : Opnd) : EncodingLength.Statement (.fsub h fty absa rnd na nb d a b) :=
  EncodingLength.of_fields _ _ rfl rfl
theorem EncodingLength.fmul (h : Hdr) (fty : FType) (absa : Bool) (rnd : Rnd) (na nb : Bool) (d a b : Opnd) : EncodingLength.Statement (.fmul h fty absa rnd na nb d a b) :=
  EncodingLength.of_fields _ _ rfl rfl
theorem EncodingLength.fma (h : Hdr) (fty : FType) (absa : Bool) (rnd : Rnd) (na nc : Bool) (d a b c : Opnd) : EncodingLength.Statement (.fma h fty absa rnd na nc d a b c) :=
  EncodingLength.of_fields _ _ rfl rfl
theorem EncodingLength.fmin (h : Hdr) (fty : FType) (absa na nb : Bool) (d a b : Opnd) : EncodingLength.Statement (.fmin h fty absa na nb d a b) :=
  EncodingLength.of_fields _ _ rfl rfl
theorem EncodingLength.fmax (h : Hdr) (fty : FType) (absa na nb : Bool) (d a b : Opnd) : EncodingLength.Statement (.fmax h fty absa na nb d a b) :=
  EncodingLength.of_fields _ _ rfl rfl
theorem EncodingLength.fcmp (h : Hdr) (fty : FType) (absa : Bool) (fc : FCond) (d a b : Opnd) : EncodingLength.Statement (.fcmp h fty absa fc d a b) :=
  EncodingLength.of_fields _ _ rfl rfl
theorem EncodingLength.frnd (h : Hdr) (fty : FType) (rnd : Rnd) (d a : Opnd) : EncodingLength.Statement (.frnd h fty rnd d a) :=
  EncodingLength.of_fields _ _ rfl rfl
theorem EncodingLength.fclass (h : Hdr) (fty : FType) (d a : Opnd) : EncodingLength.Statement (.fclass h fty d a) :=
  EncodingLength.of_fields _ _ rfl rfl
theorem EncodingLength.fscl (h : Hdr) (fty : FType) (rnd : Rnd) (d a b : Opnd) : EncodingLength.Statement (.fscl h fty rnd d a b) :=
  EncodingLength.of_fields _ _ rfl rfl
theorem EncodingLength.fdp2 (h : Hdr) (fty : FType) (rnd : Rnd) (na nc : Bool) (d a b c : Opnd) : EncodingLength.Statement (.fdp2 h fty rnd na nc d a b c) :=
  EncodingLength.of_fields _ _ rfl rfl
theorem EncodingLength.rcp (h : Hdr) (fty : FType) (ieee : Bool) (d a : Opnd) : EncodingLength.Statement (.rcp h fty ieee d a) :=
  EncodingLength.of_fields _ _ rfl rfl
theorem EncodingLength.rsq (h : Hdr) (fty : FType) (d a : Opnd) : EncodingLength.Statement (.rsq h fty d a) :=
  EncodingLength.of_fields _ _ rfl rfl
theorem EncodingLength.sqt (h : Hdr) (fty : FType) (ieee : Bool) (d a : Opnd) : EncodingLength.Statement (.sqt h fty ieee d a) :=
  EncodingLength.of_fields _ _ rfl rfl
theorem EncodingLength.ex2 (h : Hdr) (fty : FType) (d a : Opnd) : EncodingLength.Statement (.ex2 h fty d a) :=
  EncodingLength.of_fields _ _ rfl rfl
theorem EncodingLength.lg2 (h : Hdr) (fty : FType) (d a : Opnd) : EncodingLength.Statement (.lg2 h fty d a) :=
  EncodingLength.of_fields _ _ rfl rfl
theorem EncodingLength.sin (h : Hdr) (fty : FType) (d a : Opnd) : EncodingLength.Statement (.sin h fty d a) :=
  EncodingLength.of_fields _ _ rfl rfl
theorem EncodingLength.cos (h : Hdr) (fty : FType) (d a : Opnd) : EncodingLength.Statement (.cos h fty d a) :=
  EncodingLength.of_fields _ _ rfl rfl
theorem EncodingLength.tnh (h : Hdr) (fty : FType) (d a : Opnd) : EncodingLength.Statement (.tnh h fty d a) :=
  EncodingLength.of_fields _ _ rfl rfl
theorem EncodingLength.cvt (h : Hdr) (dt st : CType) (rnd : Rnd) (sat : Bool) (d a : Opnd) : EncodingLength.Statement (.cvt h dt st rnd sat d a) :=
  EncodingLength.of_fields _ _ rfl rfl
theorem EncodingLength.cvtp (h : Hdr) (fty : FType) (rnd : Rnd) (sat : Bool) (d a b : Opnd) : EncodingLength.Statement (.cvtp h fty rnd sat d a b) :=
  EncodingLength.of_fields _ _ rfl rfl
theorem EncodingLength.cvtq (h : Hdr) (e5 sat : Bool) (pos : BitVec 2) (d a b : Opnd) : EncodingLength.Statement (.cvtq h e5 sat pos d a b) :=
  EncodingLength.of_fields _ _ rfl rfl
theorem EncodingLength.shfl (h : Hdr) (ty : IType) (mode : ShflMode) (d a b : Opnd) : EncodingLength.Statement (.shfl h ty mode d a b) :=
  EncodingLength.of_fields _ _ rfl rfl
theorem EncodingLength.rdfl (h : Hdr) (ty : IType) (d a : Opnd) : EncodingLength.Statement (.rdfl h ty d a) :=
  EncodingLength.of_fields _ _ rfl rfl
theorem EncodingLength.rdln (h : Hdr) (ty : IType) (d a b : Opnd) : EncodingLength.Statement (.rdln h ty d a b) :=
  EncodingLength.of_fields _ _ rfl rfl
theorem EncodingLength.lred (h : Hdr) (ty : IType) (op : RedOp) (d a : Opnd) : EncodingLength.Statement (.lred h ty op d a) :=
  EncodingLength.of_fields _ _ rfl rfl
theorem EncodingLength.scan (h : Hdr) (ty : IType) (op : RedOp) (exc : Bool) (d a : Opnd) : EncodingLength.Statement (.scan h ty op exc d a) :=
  EncodingLength.of_fields _ _ rfl rfl
theorem EncodingLength.cmpk (h : Hdr) (ty : IType) (d a b c : Opnd) : EncodingLength.Statement (.cmpk h ty d a b c) :=
  EncodingLength.of_fields _ _ rfl rfl
theorem EncodingLength.expd (h : Hdr) (ty : IType) (d a b : Opnd) : EncodingLength.Statement (.expd h ty d a b) :=
  EncodingLength.of_fields _ _ rfl rfl
theorem EncodingLength.bperm (h : Hdr) (byte : Bool) (d a b : Opnd) : EncodingLength.Statement (.bperm h byte d a b) :=
  EncodingLength.of_fields _ _ rfl rfl
theorem EncodingLength.ld (h : Hdr) (sp : Space) (pol : CachePol) (sz : Size) (d a b : Opnd) (disp : Disp) : EncodingLength.Statement (.ld h sp pol sz d a b disp) :=
  EncodingLength.of_fields _ _ rfl rfl
theorem EncodingLength.st (h : Hdr) (sp : Space) (pol : CachePol) (sz : Size) (d a b : Opnd) (disp : Disp) : EncodingLength.Statement (.st h sp pol sz d a b disp) :=
  EncodingLength.of_fields _ _ rfl rfl
theorem EncodingLength.prf (h : Hdr) (l1 : Bool) (a b : Opnd) (disp : Disp) : EncodingLength.Statement (.prf h l1 a b disp) :=
  EncodingLength.of_fields _ _ rfl rfl
theorem EncodingLength.smp (h : Hdr) (mask : BitVec 4) (mode : SmpMode) (d a b c : Opnd) (ou ov ow : BitVec 4) : EncodingLength.Statement (.smp h mask mode d a b c ou ov ow) :=
  EncodingLength.of_fields _ _ rfl rfl
theorem EncodingLength.tld (h : Hdr) (mask : BitVec 4) (d a b : Opnd) : EncodingLength.Statement (.tld h mask d a b) :=
  EncodingLength.of_fields _ _ rfl rfl
theorem EncodingLength.atm (h : Hdr) (op : AOp) (sc : Scope) (w64 : Bool) (d a b c : Opnd) (ad : ADisp) : EncodingLength.Statement (.atm h op sc w64 d a b c ad) :=
  EncodingLength.of_fields _ _ rfl rfl
theorem EncodingLength.ared (h : Hdr) (op : AOp) (sc : Scope) (w64 : Bool) (a b c : Opnd) (ad : ADisp) : EncodingLength.Statement (.ared h op sc w64 a b c ad) :=
  EncodingLength.of_fields _ _ rfl rfl
theorem EncodingLength.atmc (h : Hdr) (sc : Scope) (w64 : Bool) (d a b c : Opnd) (tmpl : DWord) : EncodingLength.Statement (.atmc h sc w64 d a b c tmpl) :=
  EncodingLength.of_fields _ _ rfl rfl
theorem EncodingLength.fence (h : Hdr) (kind : FenceKind) (sc : Scope) : EncodingLength.Statement (.fence h kind sc) :=
  EncodingLength.of_fields _ _ rfl rfl
theorem EncodingLength.bini (h : Hdr) (a b c : Opnd) : EncodingLength.Statement (.bini h a b c) :=
  EncodingLength.of_fields _ _ rfl rfl
theorem EncodingLength.arv (h : Hdr) (sc : Scope) (d a : Opnd) : EncodingLength.Statement (.arv h sc d a) :=
  EncodingLength.of_fields _ _ rfl rfl
theorem EncodingLength.xpct (h : Hdr) (a b : Opnd) : EncodingLength.Statement (.xpct h a b) :=
  EncodingLength.of_fields _ _ rfl rfl
theorem EncodingLength.waitp (h : Hdr) (sc : Scope) (a b : Opnd) : EncodingLength.Statement (.waitp h sc a b) :=
  EncodingLength.of_fields _ _ rfl rfl
theorem EncodingLength.watch (h : Hdr) (a b : Opnd) : EncodingLength.Statement (.watch h a b) :=
  EncodingLength.of_fields _ _ rfl rfl
theorem EncodingLength.bcls (h : Hdr) (d : Opnd) : EncodingLength.Statement (.bcls h d) :=
  EncodingLength.of_fields _ _ rfl rfl
theorem EncodingLength.acp (h : Hdr) (out twoD : Bool) (d a b c : Opnd) (len : BitVec 20) (rows : BitVec 12) (gs : BitVec 20) (ps : BitVec 12) : EncodingLength.Statement (.acp h out twoD d a b c len rows gs ps) :=
  EncodingLength.of_fields _ _ rfl rfl
theorem EncodingLength.amc (h : Hdr) (d a b c : Opnd) (len : BitVec 20) : EncodingLength.Statement (.amc h d a b c len) :=
  EncodingLength.of_fields _ _ rfl rfl
theorem EncodingLength.gang (stay : Bool) (k : BitVec 2) (a : Opnd) : EncodingLength.Statement (.gang stay k a) :=
  EncodingLength.of_fields _ _ rfl rfl
theorem EncodingLength.eset (stay : Bool) (e : BitVec 3) (a : Opnd) : EncodingLength.Statement (.eset stay e a) :=
  EncodingLength.of_fields _ _ rfl rfl
theorem EncodingLength.mma (ls : Bool) (k : BitVec 2) (a b c : Opnd) (er ec : BitVec 3) (kc : BitVec 8) (fbpd : Bool) : EncodingLength.Statement (.mma ls k a b c er ec kc fbpd) :=
  EncodingLength.of_fields _ _ rfl rfl
theorem EncodingLength.zclr (h : Hdr) (a b : Opnd) : EncodingLength.Statement (.zclr h a b) :=
  EncodingLength.of_fields _ _ rfl rfl
theorem EncodingLength.zld (h : Hdr) (a b : Opnd) : EncodingLength.Statement (.zld h a b) :=
  EncodingLength.of_fields _ _ rfl rfl
theorem EncodingLength.zdrn (h : Hdr) (acc : Bool) (cv : DrnCv) (a b c : Opnd) (pd : Bool) (row0 rows cols : BitVec 6) (shift : BitVec 5) (col0 : BitVec 6) (stride : Word) : EncodingLength.Statement (.zdrn h acc cv a b c pd row0 rows cols shift col0 stride) :=
  EncodingLength.of_fields _ _ rfl rfl
theorem EncodingLength.zprg (h : Hdr) (d a : Opnd) : EncodingLength.Statement (.zprg h d a) :=
  EncodingLength.of_fields _ _ rfl rfl
theorem EncodingLength.zgrow (h : Hdr) (d a : Opnd) : EncodingLength.Statement (.zgrow h d a) :=
  EncodingLength.of_fields _ _ rfl rfl
theorem EncodingLength.zfree (h : Hdr) (a b : Opnd) : EncodingLength.Statement (.zfree h a b) :=
  EncodingLength.of_fields _ _ rfl rfl
theorem EncodingLength.talc (h : Hdr) (d a : Opnd) : EncodingLength.Statement (.talc h d a) :=
  EncodingLength.of_fields _ _ rfl rfl
theorem EncodingLength.tsub (h : Hdr) (node : Bool) (sc : Scope) (a b : Opnd) : EncodingLength.Statement (.tsub h node sc a b) :=
  EncodingLength.of_fields _ _ rfl rfl
theorem EncodingLength.tsig (h : Hdr) (sc : Scope) (a : Opnd) : EncodingLength.Statement (.tsig h sc a) :=
  EncodingLength.of_fields _ _ rfl rfl
theorem EncodingLength.role (a : Opnd) : EncodingLength.Statement (.role a) :=
  EncodingLength.of_fields _ _ rfl rfl
theorem EncodingLength.covr (h : Hdr) (a b c : Opnd) (obj : BitVec 8) : EncodingLength.Statement (.covr h a b c obj) :=
  EncodingLength.of_fields _ _ rfl rfl
theorem EncodingLength.bqry (h : Hdr) (d a b c : Opnd) (node : Word) : EncodingLength.Statement (.bqry h d a b c node) :=
  EncodingLength.of_fields _ _ rfl rfl
theorem EncodingLength.bres (h : Hdr) (d a : Opnd) : EncodingLength.Statement (.bres h d a) :=
  EncodingLength.of_fields _ _ rfl rfl
theorem EncodingLength.ctrd (h : Hdr) (d a : Opnd) : EncodingLength.Statement (.ctrd h d a) :=
  EncodingLength.of_fields _ _ rfl rfl
theorem EncodingLength.mark (h : Hdr) (a b : Opnd) : EncodingLength.Statement (.mark h a b) :=
  EncodingLength.of_fields _ _ rfl rfl
theorem EncodingLength.loadRetire (grp idx : Nat) : EncodingLength.Statement (.loadRetire grp idx) :=
  EncodingLength.of_none _ rfl
theorem EncodingLength.sfuRetire (grp : Nat) : EncodingLength.Statement (.sfuRetire grp) :=
  EncodingLength.of_none _ rfl
theorem EncodingLength.portAnswer (grp : Nat) : EncodingLength.Statement (.portAnswer grp) :=
  EncodingLength.of_none _ rfl
theorem EncodingLength.waitpWake (grp : Nat) : EncodingLength.Statement (.waitpWake grp) :=
  EncodingLength.of_none _ rfl
theorem EncodingLength.watchMonitorComplete (core mon : Nat) : EncodingLength.Statement (.watchMonitorComplete core mon) :=
  EncodingLength.of_none _ rfl
theorem EncodingLength.acpCompletion (op : Nat) : EncodingLength.Statement (.acpCompletion op) :=
  EncodingLength.of_none _ rfl
theorem EncodingLength.amcCompletion (op : Nat) : EncodingLength.Statement (.amcCompletion op) :=
  EncodingLength.of_none _ rfl
theorem EncodingLength.mmaOperationComplete (op : Nat) : EncodingLength.Statement (.mmaOperationComplete op) :=
  EncodingLength.of_none _ rfl
theorem EncodingLength.zldCompletion (op : Nat) : EncodingLength.Statement (.zldCompletion op) :=
  EncodingLength.of_none _ rfl
theorem EncodingLength.zdrnCompletion (op : Nat) : EncodingLength.Statement (.zdrnCompletion op) :=
  EncodingLength.of_none _ rfl
theorem EncodingLength.rangeLockEntryFree (grp : Nat) : EncodingLength.Statement (.rangeLockEntryFree grp) :=
  EncodingLength.of_none _ rfl
theorem EncodingLength.covrTileEmit (op : Nat) : EncodingLength.Statement (.covrTileEmit op) :=
  EncodingLength.of_none _ rfl
theorem EncodingLength.covrCompletion (op : Nat) : EncodingLength.Statement (.covrCompletion op) :=
  EncodingLength.of_none _ rfl
theorem EncodingLength.beamSplit (q beam child : Nat) : EncodingLength.Statement (.beamSplit q beam child) :=
  EncodingLength.of_none _ rfl
theorem EncodingLength.beamSpawn (q beam child tri : Nat) : EncodingLength.Statement (.beamSpawn q beam child tri) :=
  EncodingLength.of_none _ rfl
theorem EncodingLength.beamQueryEnd (q : Nat) : EncodingLength.Statement (.beamQueryEnd q) :=
  EncodingLength.of_none _ rfl
theorem EncodingLength.beamTraversalFault (q : Nat) : EncodingLength.Statement (.beamTraversalFault q) :=
  EncodingLength.of_none _ rfl
theorem EncodingLength.stationLaunch (st idx : Nat) : EncodingLength.Statement (.stationLaunch st idx) :=
  EncodingLength.of_none _ rfl
theorem EncodingLength.nodeBatchTimeout (tag node : Nat) : EncodingLength.Statement (.nodeBatchTimeout tag node) :=
  EncodingLength.of_none _ rfl
theorem EncodingLength.taskPlacement (item core : Nat) : EncodingLength.Statement (.taskPlacement item core) :=
  EncodingLength.of_none _ rfl
theorem EncodingLength.taskSlotsReturn (team : Nat) : EncodingLength.Statement (.taskSlotsReturn team) :=
  EncodingLength.of_none _ rfl
theorem EncodingLength.teamTilesReturn (team : Nat) : EncodingLength.Statement (.teamTilesReturn team) :=
  EncodingLength.of_none _ rfl
theorem EncodingLength.dispatcherVisit (tag : Nat) : EncodingLength.Statement (.dispatcherVisit tag) :=
  EncodingLength.of_none _ rfl
theorem EncodingLength.asyncStopLands (grp : Nat) : EncodingLength.Statement (.asyncStopLands grp) :=
  EncodingLength.of_none _ rfl
theorem EncodingLength.finePreemption (team : Nat) : EncodingLength.Statement (.finePreemption team) :=
  EncodingLength.of_none _ rfl
theorem EncodingLength.remapEntryInstall (slice team : Nat) : EncodingLength.Statement (.remapEntryInstall slice team) :=
  EncodingLength.of_none _ rfl
theorem EncodingLength.remapEntryFree (slice team : Nat) : EncodingLength.Statement (.remapEntryFree slice team) :=
  EncodingLength.of_none _ rfl
theorem EncodingLength.timeSliceEnd (slice : Nat) : EncodingLength.Statement (.timeSliceEnd slice) :=
  EncodingLength.of_none _ rfl
theorem EncodingLength.barrierPointSave (team : Nat) : EncodingLength.Statement (.barrierPointSave team) :=
  EncodingLength.of_none _ rfl
theorem EncodingLength.barrierPointLimit (team : Nat) : EncodingLength.Statement (.barrierPointLimit team) :=
  EncodingLength.of_none _ rfl
theorem EncodingLength.teamResume (team : Nat) : EncodingLength.Statement (.teamResume team) :=
  EncodingLength.of_none _ rfl
theorem EncodingLength.watchdogFire (slice tag : Nat) : EncodingLength.Statement (.watchdogFire slice tag) :=
  EncodingLength.of_none _ rfl
theorem EncodingLength.externalWaitAdvisory (slice tag : Nat) : EncodingLength.Statement (.externalWaitAdvisory slice tag) :=
  EncodingLength.of_none _ rfl
theorem EncodingLength.pcMatchFire (grp : Nat) : EncodingLength.Statement (.pcMatchFire grp) :=
  EncodingLength.of_none _ rfl
theorem EncodingLength.watchpointDelivery (grp : Nat) : EncodingLength.Statement (.watchpointDelivery grp) :=
  EncodingLength.of_none _ rfl
theorem EncodingLength.clusterHaltLands (core : Nat) : EncodingLength.Statement (.clusterHaltLands core) :=
  EncodingLength.of_none _ rfl
theorem EncodingLength.traceSample (cluster : Nat) : EncodingLength.Statement (.traceSample cluster) :=
  EncodingLength.of_none _ rfl
theorem EncodingLength.dbgHalt (fn slice cl : Nat) : EncodingLength.Statement (.dbgHalt fn slice cl) :=
  EncodingLength.of_none _ rfl
theorem EncodingLength.dbgResume (fn slice cl : Nat) : EncodingLength.Statement (.dbgResume fn slice cl) :=
  EncodingLength.of_none _ rfl
theorem EncodingLength.dbgStep (fn slice cl core slot : Nat) : EncodingLength.Statement (.dbgStep fn slice cl core slot) :=
  EncodingLength.of_none _ rfl
theorem EncodingLength.trEnable (fn slice cl : Nat) (val : Word) : EncodingLength.Statement (.trEnable fn slice cl val) :=
  EncodingLength.of_none _ rfl
theorem EncodingLength.trRptrWrite (fn slice cl : Nat) (val : DWord) : EncodingLength.Statement (.trRptrWrite fn slice cl val) :=
  EncodingLength.of_none _ rfl
theorem EncodingLength.cbClear (fn slice bank : Nat) (val : Word) : EncodingLength.Statement (.cbClear fn slice bank val) :=
  EncodingLength.of_none _ rfl
theorem EncodingLength.halfWordLatchRead (fn off : Nat) : EncodingLength.Statement (.halfWordLatchRead fn off) :=
  EncodingLength.of_none _ rfl
theorem EncodingLength.cxLoad (fn : Nat) : EncodingLength.Statement (.cxLoad fn) :=
  EncodingLength.of_none _ rfl
theorem EncodingLength.tiInvalidateRange (fn : Nat) (ctl : Word) : EncodingLength.Statement (.tiInvalidateRange fn ctl) :=
  EncodingLength.of_none _ rfl
theorem EncodingLength.tiInvalidateAll (fn : Nat) (ctl : Word) : EncodingLength.Statement (.tiInvalidateAll fn ctl) :=
  EncodingLength.of_none _ rfl
theorem EncodingLength.invalidationComplete (fn : Nat) : EncodingLength.Statement (.invalidationComplete fn) :=
  EncodingLength.of_none _ rfl
theorem EncodingLength.elasticHandover (cl : Nat) : EncodingLength.Statement (.elasticHandover cl) :=
  EncodingLength.of_none _ rfl
theorem EncodingLength.leaseDurationExpiry (handle : Nat) : EncodingLength.Statement (.leaseDurationExpiry handle) :=
  EncodingLength.of_none _ rfl
theorem EncodingLength.shedNotify (fn ring : Nat) : EncodingLength.Statement (.shedNotify fn ring) :=
  EncodingLength.of_none _ rfl
theorem EncodingLength.shedLeaseEnd (fn ring : Nat) : EncodingLength.Statement (.shedLeaseEnd fn ring) :=
  EncodingLength.of_none _ rfl
theorem EncodingLength.shedEntryComplete (fn ring : Nat) : EncodingLength.Statement (.shedEntryComplete fn ring) :=
  EncodingLength.of_none _ rfl
theorem EncodingLength.collectiveComplete (fn ring : Nat) (peers : (List (List Byte))) : EncodingLength.Statement (.collectiveComplete fn ring peers) :=
  EncodingLength.of_none _ rfl
theorem EncodingLength.abortFlit (coll dev : Nat) : EncodingLength.Statement (.abortFlit coll dev) :=
  EncodingLength.of_none _ rfl
theorem EncodingLength.encodeFrameStart (slice : Nat) : EncodingLength.Statement (.encodeFrameStart slice) :=
  EncodingLength.of_none _ rfl
theorem EncodingLength.superblockRowEncode (slice : Nat) : EncodingLength.Statement (.superblockRowEncode slice) :=
  EncodingLength.of_none _ rfl
theorem EncodingLength.frameAbandon (slice : Nat) : EncodingLength.Statement (.frameAbandon slice) :=
  EncodingLength.of_none _ rfl
theorem EncodingLength.packetWrite (slice : Nat) : EncodingLength.Statement (.packetWrite slice) :=
  EncodingLength.of_none _ rfl
theorem EncodingLength.hbmUeDetected (pa : Nat) (gid : Word) : EncodingLength.Statement (.hbmUeDetected pa gid) :=
  EncodingLength.of_none _ rfl
theorem EncodingLength.correctedEventSummary (tag slice struct count : Nat) : EncodingLength.Statement (.correctedEventSummary tag slice struct count) :=
  EncodingLength.of_none _ rfl
theorem EncodingLength.pfReplay (fn : Nat) (gid : Word) : EncodingLength.Statement (.pfReplay fn gid) :=
  EncodingLength.of_none _ rfl
theorem EncodingLength.pfCancel (fn : Nat) (gid : Word) : EncodingLength.Statement (.pfCancel fn gid) :=
  EncodingLength.of_none _ rfl
theorem EncodingLength.sliceReset (mask : (BitVec 16)) : EncodingLength.Statement (.sliceReset mask) :=
  EncodingLength.of_none _ rfl
theorem EncodingLength.vfReset (tag : Nat) : EncodingLength.Statement (.vfReset tag) :=
  EncodingLength.of_none _ rfl
theorem EncodingLength.functionLevelReset (fn : Nat) : EncodingLength.Statement (.functionLevelReset fn) :=
  EncodingLength.of_none _ rfl
theorem EncodingLength.deviceFatal (cause : Nat) : EncodingLength.Statement (.deviceFatal cause) :=
  EncodingLength.of_none _ rfl
theorem EncodingLength.sliceBringup (slice : Nat) (ok : Bool) : EncodingLength.Statement (.sliceBringup slice ok) :=
  EncodingLength.of_none _ rfl
theorem EncodingLength.fwErase (port : Nat) : EncodingLength.Statement (.fwErase port) :=
  EncodingLength.of_none _ rfl
theorem EncodingLength.fwWritePage (port : Nat) : EncodingLength.Statement (.fwWritePage port) :=
  EncodingLength.of_none _ rfl
theorem EncodingLength.fwVerify (port : Nat) : EncodingLength.Statement (.fwVerify port) :=
  EncodingLength.of_none _ rfl
theorem EncodingLength.fwSelect (port : Nat) : EncodingLength.Statement (.fwSelect port) :=
  EncodingLength.of_none _ rfl
theorem EncodingLength.fwRaiseSvn (port : Nat) : EncodingLength.Statement (.fwRaiseSvn port) :=
  EncodingLength.of_none _ rfl
theorem EncodingLength.spdmGetCertificate (fn : Nat) : EncodingLength.Statement (.spdmGetCertificate fn) :=
  EncodingLength.of_none _ rfl
theorem EncodingLength.spdmChallenge (fn nonce : Nat) : EncodingLength.Statement (.spdmChallenge fn nonce) :=
  EncodingLength.of_none _ rfl
theorem EncodingLength.spdmGetMeasurements (fn nonce : Nat) : EncodingLength.Statement (.spdmGetMeasurements fn nonce) :=
  EncodingLength.of_none _ rfl
theorem EncodingLength.ownClaim (port prio : Nat) : EncodingLength.Statement (.ownClaim port prio) :=
  EncodingLength.of_none _ rfl
theorem EncodingLength.ownWithdraw (port : Nat) : EncodingLength.Statement (.ownWithdraw port) :=
  EncodingLength.of_none _ rfl
theorem EncodingLength.ownRenew (port : Nat) : EncodingLength.Statement (.ownRenew port) :=
  EncodingLength.of_none _ rfl
theorem EncodingLength.ownHand (port target : Nat) : EncodingLength.Statement (.ownHand port target) :=
  EncodingLength.of_none _ rfl
theorem EncodingLength.sqEnable (fn q : Nat) (ctl : Word) : EncodingLength.Statement (.sqEnable fn q ctl) :=
  EncodingLength.of_none _ rfl
theorem EncodingLength.sqDoorbell (fn q : Nat) (tail : Word) : EncodingLength.Statement (.sqDoorbell fn q tail) :=
  EncodingLength.of_none _ rfl
theorem EncodingLength.entryRead (fn q : Nat) : EncodingLength.Statement (.entryRead fn q) :=
  EncodingLength.of_none _ rfl
theorem EncodingLength.launch (sub : Nat) : EncodingLength.Statement (.launch sub) :=
  EncodingLength.of_none _ rfl
theorem EncodingLength.fenceWait (sub : Nat) : EncodingLength.Statement (.fenceWait sub) :=
  EncodingLength.of_none _ rfl
theorem EncodingLength.fenceWaitReread (sub : Nat) : EncodingLength.Statement (.fenceWaitReread sub) :=
  EncodingLength.of_none _ rfl
theorem EncodingLength.fenceSignal (sub : Nat) : EncodingLength.Statement (.fenceSignal sub) :=
  EncodingLength.of_none _ rfl
theorem EncodingLength.noOperation (sub : Nat) : EncodingLength.Statement (.noOperation sub) :=
  EncodingLength.of_none _ rfl
theorem EncodingLength.submissionComplete (sub : Nat) : EncodingLength.Statement (.submissionComplete sub) :=
  EncodingLength.of_none _ rfl
theorem EncodingLength.apertureWrite (fn off : Nat) (data : (List Byte)) : EncodingLength.Statement (.apertureWrite fn off data) :=
  EncodingLength.of_none _ rfl
theorem EncodingLength.apertureRead (fn off len : Nat) : EncodingLength.Statement (.apertureRead fn off len) :=
  EncodingLength.of_none _ rfl
theorem EncodingLength.flitReceived (port : Nat) (seq ack : (BitVec 10)) (nak crcOk : Bool) : EncodingLength.Statement (.flitReceived port seq ack nak crcOk) :=
  EncodingLength.of_none _ rfl
theorem EncodingLength.linkRetrain (port : Nat) : EncodingLength.Statement (.linkRetrain port) :=
  EncodingLength.of_none _ rfl
theorem EncodingLength.portDown (port : Nat) : EncodingLength.Statement (.portDown port) :=
  EncodingLength.of_none _ rfl
theorem EncodingLength.portRetry (port : Nat) : EncodingLength.Statement (.portRetry port) :=
  EncodingLength.of_none _ rfl
theorem EncodingLength.peerRequest (dev tag : Nat) (write : Bool) (addr : Nat) (data : (List Byte)) : EncodingLength.Statement (.peerRequest dev tag write addr data) :=
  EncodingLength.of_none _ rfl
theorem EncodingLength.telemetrySample (s : Sensors) : EncodingLength.Statement (.telemetrySample s) :=
  EncodingLength.of_none _ rfl
theorem EncodingLength.thermalTrip (cause : Nat) : EncodingLength.Statement (.thermalTrip cause) :=
  EncodingLength.of_none _ rfl
theorem EncodingLength.registerWrite (fn off : Nat) (val : DWord) (wide : Bool) : EncodingLength.Statement (.registerWrite fn off val wide) :=
  EncodingLength.of_none _ rfl
theorem EncodingLength.unassignedOpc (w : Word) : EncodingLength.Statement (.unassignedOpc w) :=
  EncodingLength.of_none _ rfl
theorem EncodingLength.storeAcknowledge (grp : Nat) : EncodingLength.Statement (.storeAcknowledge grp) :=
  EncodingLength.of_none _ rfl
theorem EncodingLength.engineBytesLand (op n : Nat) : EncodingLength.Statement (.engineBytesLand op n) :=
  EncodingLength.of_none _ rfl
theorem EncodingLength.beamEnds (q beam : Nat) : EncodingLength.Statement (.beamEnds q beam) :=
  EncodingLength.of_none _ rfl
theorem EncodingLength.externalInterrupt (grp : Nat) : EncodingLength.Statement (.externalInterrupt grp) :=
  EncodingLength.of_none _ rfl
theorem EncodingLength.arithmeticClock (sched : Nat) : EncodingLength.Statement (.arithmeticClock sched) :=
  EncodingLength.of_none _ rfl
theorem EncodingLength.tokenCharge (tag amount : Nat) : EncodingLength.Statement (.tokenCharge tag amount) :=
  EncodingLength.of_none _ rfl
theorem EncodingLength.linkRetrained (port : Nat) : EncodingLength.Statement (.linkRetrained port) :=
  EncodingLength.of_none _ rfl
theorem EncodingLength.yield : EncodingLength.Statement .yield :=
  EncodingLength.of_fields _ _ rfl rfl
theorem EncodingLength.eret : EncodingLength.Statement .eret :=
  EncodingLength.of_fields _ _ rfl rfl
theorem EncodingLength.mhret : EncodingLength.Statement .mhret :=
  EncodingLength.of_fields _ _ rfl rfl
theorem EncodingLength.tend : EncodingLength.Statement .tend :=
  EncodingLength.of_fields _ _ rfl rfl
theorem EncodingLength.watchpointHit : EncodingLength.Statement .watchpointHit :=
  EncodingLength.of_none _ rfl
theorem EncodingLength.assign : EncodingLength.Statement .assign :=
  EncodingLength.of_none _ rfl
theorem EncodingLength.assignShared : EncodingLength.Statement .assignShared :=
  EncodingLength.of_none _ rfl
theorem EncodingLength.fuse : EncodingLength.Statement .fuse :=
  EncodingLength.of_none _ rfl
theorem EncodingLength.split : EncodingLength.Statement .split :=
  EncodingLength.of_none _ rfl
theorem EncodingLength.splitTimeout : EncodingLength.Statement .splitTimeout :=
  EncodingLength.of_none _ rfl
theorem EncodingLength.release : EncodingLength.Statement .release :=
  EncodingLength.of_none _ rfl
theorem EncodingLength.keyAssign : EncodingLength.Statement .keyAssign :=
  EncodingLength.of_none _ rfl
theorem EncodingLength.keyShare : EncodingLength.Statement .keyShare :=
  EncodingLength.of_none _ rfl
theorem EncodingLength.keyReturn : EncodingLength.Statement .keyReturn :=
  EncodingLength.of_none _ rfl
theorem EncodingLength.window : EncodingLength.Statement .window :=
  EncodingLength.of_none _ rfl
theorem EncodingLength.elastic : EncodingLength.Statement .elastic :=
  EncodingLength.of_none _ rfl
theorem EncodingLength.elasticRelease : EncodingLength.Statement .elasticRelease :=
  EncodingLength.of_none _ rfl
theorem EncodingLength.lease : EncodingLength.Statement .lease :=
  EncodingLength.of_none _ rfl
theorem EncodingLength.revoke : EncodingLength.Statement .revoke :=
  EncodingLength.of_none _ rfl
theorem EncodingLength.tokens : EncodingLength.Statement .tokens :=
  EncodingLength.of_none _ rfl
theorem EncodingLength.ways : EncodingLength.Statement .ways :=
  EncodingLength.of_none _ rfl
theorem EncodingLength.limits : EncodingLength.Statement .limits :=
  EncodingLength.of_none _ rfl
theorem EncodingLength.claim : EncodingLength.Statement .claim :=
  EncodingLength.of_none _ rfl
theorem EncodingLength.claimRelease : EncodingLength.Statement .claimRelease :=
  EncodingLength.of_none _ rfl
theorem EncodingLength.tokenPeriodBoundary : EncodingLength.Statement .tokenPeriodBoundary :=
  EncodingLength.of_none _ rfl
theorem EncodingLength.resetEscalation : EncodingLength.Statement .resetEscalation :=
  EncodingLength.of_none _ rfl
theorem EncodingLength.powerGood : EncodingLength.Statement .powerGood :=
  EncodingLength.of_none _ rfl
theorem EncodingLength.stageS2 : EncodingLength.Statement .stageS2 :=
  EncodingLength.of_none _ rfl
theorem EncodingLength.packageColdReset : EncodingLength.Statement .packageColdReset :=
  EncodingLength.of_none _ rfl
theorem EncodingLength.electionClose : EncodingLength.Statement .electionClose :=
  EncodingLength.of_none _ rfl
theorem EncodingLength.ownerLeaseExpiry : EncodingLength.Statement .ownerLeaseExpiry :=
  EncodingLength.of_none _ rfl
theorem EncodingLength.lifeCounterFlush : EncodingLength.Statement .lifeCounterFlush :=
  EncodingLength.of_none _ rfl
theorem EncodingLength.orderlyPowerDown : EncodingLength.Statement .orderlyPowerDown :=
  EncodingLength.of_none _ rfl
theorem EncodingLength.lcSnapshot : EncodingLength.Statement .lcSnapshot :=
  EncodingLength.of_none _ rfl
theorem EncodingLength.abruptLossOfPower : EncodingLength.Statement .abruptLossOfPower :=
  EncodingLength.of_none _ rfl

end Sys2Proof.Laws
end

