-- ==== Sys2Proof/Laws/Regs.lean ====
section
/-!
SUPPORT. Reading registers after writing them: what each write of a vector, uniform, operand-file or predicate register
and of a latch does, and the frame of the shared operations that write results.
-/
namespace Sys2Proof.Machine

/-! ### The frame of a group -/

theorem SameRest.refl (x : Group) : SameRest x x := rfl

theorem SameRest.trans {x y z : Group} (h : SameRest x y) (k : SameRest y z) : SameRest x z := by
  unfold SameRest at *; rw [k, h]

theorem SameRest.gw {x y : Group} (h : SameRest x y) : y.gw = x.gw := by rw [h]

theorem Walked.rest {x y : Group} (h : Walked x y) : SameRest x y := by
  obtain ⟨stk, h⟩ := h
  unfold SameRest; rw [h]; unfold Group.setStk Group.onBank
  cases x.sh <;> rfl

theorem onBank_rest (x : Group) (f : Bank → Bank) : SameRest x (x.onBank f) := by
  unfold SameRest Group.onBank; cases x.sh <;> rfl

/-- The kinds of handler, and the registers a shadow context hides, stay (R37). -/
def SameHidden (x y : Group) : Prop :=
  (x.shadowed = true → y.regs = x.regs) ∧ y.sh.map (·.kind) = x.sh.map (·.kind)

theorem SameHidden.refl (x : Group) : SameHidden x x := ⟨fun _ => rfl, rfl⟩

theorem SameHidden.shadowed {x y : Group} (h : SameHidden x y) : y.shadowed = x.shadowed := by
  have := congrArg Option.isSome h.2
  simpa [Group.shadowed] using this

theorem SameHidden.trans {x y z : Group} (h : SameHidden x y) (k : SameHidden y z) : SameHidden x z :=
  ⟨fun hx => (k.1 (h.shadowed.trans hx)).trans (h.1 hx), k.2.trans h.2⟩

theorem onBank_hidden (x : Group) (f : Bank → Bank) : SameHidden x (x.onBank f) := by
  unfold SameHidden Group.onBank Group.shadowed; cases x.sh <;> simp

theorem SameHidden.of_eq {x y : Group} (hr : y.regs = x.regs) (hs : y.sh = x.sh) : SameHidden x y :=
  ⟨fun _ => hr, by rw [hs]⟩

theorem Walked.hidden {x y : Group} (h : Walked x y) : SameHidden x y := by
  obtain ⟨stk, h⟩ := h
  rw [h]
  exact (onBank_hidden x _).trans (SameHidden.of_eq rfl rfl)

/-! ### Banks -/

theorem onBank_bank (x : Group) (f : Bank → Bank) : (x.onBank f).bank = f x.bank := by
  unfold Group.onBank Group.bank; cases h : x.sh <;> simp

theorem onBank_gw (x : Group) (f : Bank → Bank) : (x.onBank f).gw = x.gw := (onBank_rest x f).gw

theorem onBank_shadowed (x : Group) (f : Bank → Bank) : (x.onBank f).shadowed = x.shadowed :=
  (onBank_hidden x f).shadowed

theorem onBank_regs (x : Group) (f : Bank → Bank) (h : x.shadowed = true) : (x.onBank f).regs = x.regs :=
  (onBank_hidden x f).1 h

theorem onBank_vBank (x : Group) (f : Bank → Bank) (r : Nat) :
    (x.onBank f).vBank r = if (x.shadowed && decide (16 ≤ r)) = true then x.regs else f x.bank := by
  unfold Group.vBank
  rw [onBank_shadowed, onBank_bank]
  split
  · next h => rw [onBank_regs]; simp only [Bool.and_eq_true] at h; exact h.1
  · rfl

theorem onBank_gBank (x : Group) (f : Bank → Bank) (r : Nat) :
    (x.onBank f).gBank r = if (x.shadowed && decide (8 ≤ r)) = true then x.regs else f x.bank := by
  unfold Group.gBank
  rw [onBank_shadowed, onBank_bank]
  split
  · next h => rw [onBank_regs]; simp only [Bool.and_eq_true] at h; exact h.1
  · rfl

theorem vBank_eq (x : Group) (r : Nat) :
    x.vBank r = if (x.shadowed && decide (16 ≤ r)) = true then x.regs else x.bank := rfl

theorem gBank_eq (x : Group) (r : Nat) :
    x.gBank r = if (x.shadowed && decide (8 ≤ r)) = true then x.regs else x.bank := rfl

/-- Does a write of vector register r reach what a read of it reads (R37)? -/
def vOpen (x : Group) (r : Nat) : Prop := (x.shadowed && decide (16 ≤ r)) = false
/-- The same of a uniform register. -/
def gOpen (x : Group) (r : Nat) : Prop := (x.shadowed && decide (8 ≤ r)) = false

/-! ### Vector registers -/

theorem vAt_setV (x : Group) (r r' l l' : Nat) (w : Word) (m : Bool) (hl : l < 64) (hl' : l' < 64) (ho : vOpen x r) :
    (x.setV r l w m).vAt r' l' = if r' = r ∧ l' = l then w else x.vAt r' l' := by
  unfold Group.vAt Group.setV
  rw [onBank_vBank, vBank_eq]
  unfold vOpen at ho
  split
  · next h =>
    have : r' ≠ r := by intro e; subst e; rw [ho] at h; cases h
    simp [this]
  · rw [peek_poke]
    by_cases h : r' = r ∧ l' = l
    · simp [h]
    · have : 64 * r' + l' ≠ 64 * r + l := by omega
      simp [h, this]

theorem vMark_setV (x : Group) (r r' l l' : Nat) (w : Word) (m : Bool) (hl : l < 64) (hl' : l' < 64) (ho : vOpen x r) :
    (x.setV r l w m).vMark r' l' = if r' = r ∧ l' = l then m else x.vMark r' l' := by
  unfold Group.vMark Group.setV
  rw [onBank_vBank, vBank_eq]
  unfold vOpen at ho
  split
  · next h =>
    have : r' ≠ r := by intro e; subst e; rw [ho] at h; cases h
    simp [this]
  · rw [peek_poke]
    by_cases h : r' = r ∧ l' = l
    · cases m <;> simp [h]
    · have : 64 * r' + l' ≠ 64 * r + l := by omega
      simp [h, this]

theorem gAt_setV (x : Group) (r r' l : Nat) (w : Word) (m : Bool) : (x.setV r l w m).gAt r' = x.gAt r' := by
  unfold Group.gAt Group.setV; rw [onBank_gBank, gBank_eq]; split <;> rfl
theorem gMark_setV (x : Group) (r r' l : Nat) (w : Word) (m : Bool) : (x.setV r l w m).gMark r' = x.gMark r' := by
  unfold Group.gMark Group.setV; rw [onBank_gBank, gBank_eq]; split <;> rfl
theorem onBank_o (x : Group) (f : Bank → Bank) : (x.onBank f).o = x.o ∧ (x.onBank f).om = x.om := by
  unfold Group.onBank; cases x.sh <;> simp
theorem pAt_setV (x : Group) (r n l : Nat) (w : Word) (m : Bool) : (x.setV r l w m).pAt n = x.pAt n := by
  unfold Group.pAt Group.setV Group.all; rw [onBank_gw, onBank_bank]

/-! ### Uniform registers -/

theorem gAt_setG (x : Group) (r r' : Nat) (w : Word) (m : Bool) (ho : gOpen x r) :
    (x.setG r w m).gAt r' = if r' = r then w else x.gAt r' := by
  unfold Group.gAt Group.setG
  rw [onBank_gBank, gBank_eq]
  unfold gOpen at ho
  split
  · next h =>
    have : r' ≠ r := by intro e; subst e; rw [ho] at h; cases h
    simp [this]
  · rw [peek_poke]

theorem gMark_setG (x : Group) (r r' : Nat) (w : Word) (m : Bool) (ho : gOpen x r) :
    (x.setG r w m).gMark r' = if r' = r then m else x.gMark r' := by
  unfold Group.gMark Group.setG
  rw [onBank_gBank, gBank_eq]
  unfold gOpen at ho
  split
  · next h =>
    have : r' ≠ r := by intro e; subst e; rw [ho] at h; cases h
    simp [this]
  · rw [peek_poke]
    by_cases h : r' = r
    · cases m <;> simp [h]
    · simp [h]

theorem vAt_setG (x : Group) (r r' l : Nat) (w : Word) (m : Bool) : (x.setG r w m).vAt r' l = x.vAt r' l := by
  unfold Group.vAt Group.setG; rw [onBank_vBank, vBank_eq]; split <;> rfl
theorem vMark_setG (x : Group) (r r' l : Nat) (w : Word) (m : Bool) : (x.setG r w m).vMark r' l = x.vMark r' l := by
  unfold Group.vMark Group.setG; rw [onBank_vBank, vBank_eq]; split <;> rfl
theorem pAt_setG (x : Group) (r n : Nat) (w : Word) (m : Bool) : (x.setG r w m).pAt n = x.pAt n := by
  unfold Group.pAt Group.setG Group.all; rw [onBank_gw, onBank_bank]

/-! ### Predicates -/

theorem pAt_setP (x : Group) (n n' : Nat) (m : Mask) :
    (x.setP n m).pAt n' = if n' = n ∧ n ≠ 7 then m &&& x.all else x.pAt n' := by
  unfold Group.setP
  split
  · next h => simp [h]
  · next h =>
    unfold Group.pAt Group.all
    rw [onBank_gw, onBank_bank]
    by_cases h7 : n' = 7
    · simp [h7, h, Ne.symm h]
    · simp only [h7, if_false]
      rw [peek_poke]
      by_cases hn : n' = n <;> simp [hn, h]

theorem vAt_setP (x : Group) (n r l : Nat) (m : Mask) : (x.setP n m).vAt r l = x.vAt r l := by
  unfold Group.setP; split
  · rfl
  · unfold Group.vAt; rw [onBank_vBank, vBank_eq]; split <;> rfl
theorem vMark_setP (x : Group) (n r l : Nat) (m : Mask) : (x.setP n m).vMark r l = x.vMark r l := by
  unfold Group.setP; split
  · rfl
  · unfold Group.vMark; rw [onBank_vBank, vBank_eq]; split <;> rfl
theorem gAt_setP (x : Group) (n r : Nat) (m : Mask) : (x.setP n m).gAt r = x.gAt r := by
  unfold Group.setP; split
  · rfl
  · unfold Group.gAt; rw [onBank_gBank, gBank_eq]; split <;> rfl
theorem gMark_setP (x : Group) (n r : Nat) (m : Mask) : (x.setP n m).gMark r = x.gMark r := by
  unfold Group.setP; split
  · rfl
  · unfold Group.gMark; rw [onBank_gBank, gBank_eq]; split <;> rfl

/-! ### The operand file -/

theorem oAt_setO (x : Group) (r r' l l' : Nat) (w : Word) (m : Bool) (hl : l < 64) (hl' : l' < 64) :
    (x.setO r l w m).oAt r' l' = if r' = r ∧ l' = l then w else x.oAt r' l' := by
  unfold Group.oAt Group.setO
  dsimp only
  rw [peek_poke]
  by_cases h : r' = r ∧ l' = l
  · simp [h]
  · have : 64 * r' + l' ≠ 64 * r + l := by omega
    simp [h, this]

theorem oMark_setO (x : Group) (r r' l l' : Nat) (w : Word) (m : Bool) (hl : l < 64) (hl' : l' < 64) :
    (x.setO r l w m).oMark r' l' = if r' = r ∧ l' = l then m else x.oMark r' l' := by
  unfold Group.oMark Group.setO
  dsimp only
  rw [peek_poke]
  by_cases h : r' = r ∧ l' = l
  · cases m <;> simp [h]
  · have : 64 * r' + l' ≠ 64 * r + l := by omega
    simp [h, this]

/-! ### Registers by key -/

theorem regVal_congr {x y : Group} (hv : ∀ r l, l < 64 → y.vAt r l = x.vAt r l ∧ y.vMark r l = x.vMark r l)
    (hg : ∀ r, y.gAt r = x.gAt r ∧ y.gMark r = x.gMark r) (ho : ∀ r l, y.oAt r l = x.oAt r l ∧ y.oMark r l = x.oMark r l)
    (hp : ∀ n, y.pAt n = x.pAt n) (k l : Nat) (hl : l < 64) : regVal y k l = regVal x k l := by
  unfold regVal
  simp [hv _ l hl, hg, ho, hp]

theorem setStk_reads (x : Group) (stk : List DivEntry) :
    (∀ r l, (x.setStk stk).vAt r l = x.vAt r l ∧ (x.setStk stk).vMark r l = x.vMark r l) ∧
    (∀ r, (x.setStk stk).gAt r = x.gAt r ∧ (x.setStk stk).gMark r = x.gMark r) ∧
    (∀ r l, (x.setStk stk).oAt r l = x.oAt r l ∧ (x.setStk stk).oMark r l = x.oMark r l) ∧
    ∀ n, (x.setStk stk).pAt n = x.pAt n := by
  unfold Group.setStk
  refine ⟨fun r l => ?_, fun r => ?_, fun r l => ?_, fun n => ?_⟩
  · unfold Group.vAt Group.vMark
    rw [onBank_vBank, vBank_eq]; split <;> simp
  · unfold Group.gAt Group.gMark
    rw [onBank_gBank, gBank_eq]; split <;> simp
  · unfold Group.oAt Group.oMark
    rw [(onBank_o _ _).1, (onBank_o _ _).2]; simp
  · unfold Group.pAt Group.all
    rw [onBank_gw, onBank_bank]

theorem Walked.reads {x y : Group} (h : Walked x y) : (∀ r l, y.vAt r l = x.vAt r l ∧ y.vMark r l = x.vMark r l) ∧
    (∀ r, y.gAt r = x.gAt r ∧ y.gMark r = x.gMark r) ∧ (∀ r l, y.oAt r l = x.oAt r l ∧ y.oMark r l = x.oMark r l) ∧
    ∀ n, y.pAt n = x.pAt n := by
  obtain ⟨stk, h⟩ := h
  rw [h]
  exact setStk_reads x stk

theorem Walked.regVal {x y : Group} (h : Walked x y) (k l : Nat) : regVal y k l = regVal x k l := by
  obtain ⟨stk, h⟩ := h
  rw [h]
  clear h
  unfold Machine.regVal Group.vAt Group.vMark Group.gAt Group.gMark Group.oAt Group.oMark Group.pAt Group.vBank Group.gBank
    Group.bank Group.shadowed Group.all Group.setStk Group.onBank
  cases x.sh <;> simp only <;> (repeat' split) <;> simp_all <;> omega

end Sys2Proof.Machine
end

