-- ==== Sys2Proof/Laws/Result.lean ====
section
/-!
SUPPORT. The shared operations that write results, and the start and the end of an instruction: what they write, and that they
change nothing else.
-/
namespace Sys2Proof.Machine

/-! ### The frame of writes -/

/-- y is x with registers written only as keys and lanes say, and other places of the same run. -/
structure Wrote (x y : Group) (ks : List Nat) (act : Mask) : Prop where
  rest : SameRest x y
  hidden : SameHidden x y
  flags : y.fflags = x.fflags
  regs : ∀ k l, k < 335 → l < 64 → l < x.gw → (k ∈ ks → uniformKey k = false ∧ act.getLsbD l = false) →
    regVal y k l = regVal x k l

theorem Wrote.refl (x : Group) (ks : List Nat) (act : Mask) : Wrote x x ks act :=
  ⟨.refl x, .refl x, rfl, fun _ _ _ _ _ _ => rfl⟩

theorem Wrote.trans {x y z : Group} {ks : List Nat} {act : Mask} (h : Wrote x y ks act) (k : Wrote y z ks act) :
    Wrote x z ks act :=
  ⟨h.rest.trans k.rest, h.hidden.trans k.hidden, k.flags.trans h.flags, fun a l ha hl hg hk =>
    (k.regs a l ha hl (by rw [h.rest.gw]; exact hg) hk).trans (h.regs a l ha hl hg hk)⟩

theorem Wrote.mono {x y : Group} {ks ks' : List Nat} {act : Mask} (h : Wrote x y ks act) (hs : ∀ k ∈ ks, k ∈ ks') :
    Wrote x y ks' act :=
  ⟨h.rest, h.hidden, h.flags, fun k l hk hl hg hn => h.regs k l hk hl hg fun hm => hn (hs k hm)⟩

theorem Walked.fflags {x y : Group} (h : Walked x y) : y.fflags = x.fflags := by
  obtain ⟨stk, h⟩ := h
  rw [h]; unfold Group.setStk Group.onBank; cases x.sh <;> rfl

theorem Walked.wrote {x y : Group} (h : Walked x y) (ks : List Nat) (act : Mask) : Wrote x y ks act :=
  ⟨h.rest, h.hidden, h.fflags, fun k l _ _ _ _ => h.regVal k l⟩

theorem Wrote.sameRegs {x y : Group} {ks : List Nat} {act : Mask} (h : Wrote x y ks act) : SameRegs x y ks act :=
  ⟨h.hidden.1, h.hidden.2, h.regs⟩

/-- A group with the same registers, whatever else of SameRest's exemptions differs. -/
theorem Wrote.of_same {x y : Group} (ks : List Nat) (act : Mask) (hr : SameRest x y) (hg : y.regs = x.regs)
    (hs : y.sh = x.sh) (ho : y.o = x.o) (hom : y.om = x.om) (hf : y.fflags = x.fflags) : Wrote x y ks act := by
  refine ⟨hr, .of_eq hg hs, hf, fun k l _ hl _ _ => ?_⟩
  have hw := hr.gw
  apply regVal_congr (l := l) _ _ _ _ k hl <;> intros <;>
    simp only [Group.vAt, Group.vMark, Group.gAt, Group.gMark, Group.oAt, Group.oMark, Group.pAt, Group.vBank, Group.gBank,
      Group.bank, Group.shadowed, Group.all, hg, hs, ho, hom, hw] <;> simp

/-! ### One register -/

theorem setV_fflags (x : Group) (r l : Nat) (w : Word) (m : Bool) : (x.setV r l w m).fflags = x.fflags := by
  unfold Group.setV Group.onBank; cases x.sh <;> rfl
theorem setG_fflags (x : Group) (r : Nat) (w : Word) (m : Bool) : (x.setG r w m).fflags = x.fflags := by
  unfold Group.setG Group.onBank; cases x.sh <;> rfl

theorem wrote_setV (x : Group) {r l : Nat} (w : Word) (m : Bool) {ks : List Nat} {act : Mask} (hr : r ∈ ks)
    (hl : l < 64) (ha : act.getLsbD l = true) (ho : vOpen x r) : Wrote x (x.setV r l w m) ks act := by
  refine ⟨onBank_rest _ _, onBank_hidden _ _, setV_fflags .., fun k l' _ hl' _ hn => ?_⟩
  unfold regVal
  split
  · have : ¬(k = r ∧ l' = l) := by
      rintro ⟨rfl, rfl⟩; have := (hn hr).2; rw [ha] at this; cases this
    rw [vAt_setV _ _ _ _ _ _ _ hl hl' ho, vMark_setV _ _ _ _ _ _ _ hl hl' ho]; simp [this]
  · split
    · rw [gAt_setV, gMark_setV]
    · split
      · unfold Group.oAt Group.oMark Group.setV; rw [(onBank_o x _).1, (onBank_o x _).2]
      · rw [pAt_setV]

theorem wrote_setG (x : Group) {r : Nat} (w : Word) (m : Bool) {ks : List Nat} {act : Mask} (hr : 256 + r ∈ ks)
    (ho : gOpen x r) : Wrote x (x.setG r w m) ks act := by
  refine ⟨onBank_rest _ _, onBank_hidden _ _, setG_fflags .., fun k l' _ hl' _ hn => ?_⟩
  unfold regVal
  split
  · rw [vAt_setG, vMark_setG]
  · split
    · have : k - 256 ≠ r := by
        rintro rfl
        have hk : 256 + (k - 256) = k := by omega
        rw [hk] at hr
        have := (hn hr).1
        simp [uniformKey] at this
        omega
      rw [gAt_setG _ _ _ _ _ ho, gMark_setG _ _ _ _ _ ho]; simp [this]
    · split
      · unfold Group.oAt Group.oMark Group.setG; rw [(onBank_o x _).1, (onBank_o x _).2]
      · rw [pAt_setG]

theorem wrote_setO (x : Group) {r l : Nat} (w : Word) (m : Bool) {ks : List Nat} {act : Mask} (hr : 320 + r ∈ ks)
    (hl : l < 64) (ha : act.getLsbD l = true) : Wrote x (x.setO r l w m) ks act := by
  refine ⟨rfl, .of_eq rfl rfl, rfl, fun k l' _ hl' _ hn => ?_⟩
  unfold regVal
  split
  · rfl
  · split
    · rfl
    · split
      · have : ¬(k - 320 = r ∧ l' = l) := by
          rintro ⟨hk, rfl⟩
          have hk : 320 + r = k := by omega
          rw [hk] at hr
          have := (hn hr).2; rw [ha] at this; cases this
        rw [oAt_setO _ _ _ _ _ _ _ hl hl', oMark_setO _ _ _ _ _ _ _ hl hl']; simp [this]
      · rfl

/-! ### Loops over lanes and registers -/

theorem forLanes_ind {α : Type} (P : Nat → α → Prop) (f : Nat → α → α) (x : α) (n : Nat) (h0 : P 0 x)
    (hs : ∀ i y, i < n → P i y → P (i + 1) (f i y)) : P n (forLanes f n x) := by
  induction n with
  | zero => exact h0
  | succ n ih => exact hs n _ (Nat.lt_succ_self n) (ih fun i y hi => hs i y (by omega))

theorem latchAll_spec (e : Enc) (f : Nat → Word) (m : Nat → Bool) (x : Group) :
    ∃ a b, latchAll e f m x = { x with lat := a, latm := b } := by
  unfold latchAll
  split
  · refine forLanes_ind (fun _ y => ∃ a b, y = { x with lat := a, latm := b }) _ x x.gw ⟨x.lat, x.latm, rfl⟩ ?_
    rintro i y _ ⟨a, b, rfl⟩
    exact ⟨_, _, rfl⟩
  · exact ⟨_, _, rfl⟩

theorem wrote_latchAll (e : Enc) (f : Nat → Word) (m : Nat → Bool) (x : Group) (ks : List Nat) (act : Mask) :
    Wrote x (latchAll e f m x) ks act := by
  obtain ⟨a, b, h⟩ := latchAll_spec e f m x
  rw [h]; exact .of_same ks act rfl rfl rfl rfl rfl rfl

/-- The registers of a destination may be written. -/
def destOpen (x : Group) (d : Opnd) (n : Nat) : Prop :=
  match d with
  | .v r => ∀ i, i < n → vOpen x (r.toNat + i)
  | .g r => ∀ i, i < n → gOpen x (r.toNat + i)
  | _ => True

theorem vOpen_congr {x y : Group} (h : SameHidden x y) (r : Nat) : vOpen y r ↔ vOpen x r := by
  unfold vOpen; rw [h.shadowed]
theorem gOpen_congr {x y : Group} (h : SameHidden x y) (r : Nat) : gOpen y r ↔ gOpen x r := by
  unfold gOpen; rw [h.shadowed]

theorem destOpen_congr {x y : Group} (h : SameHidden x y) (d : Opnd) (n : Nat) : destOpen y d n ↔ destOpen x d n := by
  cases d <;> simp only [destOpen, vOpen_congr h, gOpen_congr h]

/-- The registers of one lane: what stays, and what they hold. -/
theorem putRegs_spec (x : Group) (d : Opnd) (l v : Nat) (m : Bool) (n : Nat) {ks : List Nat} {act : Mask}
    (hk : ∀ k ∈ opKeys d n, k ∈ ks) (hl : l < 64) (ha : act.getLsbD l = true) (ho : destOpen x d n) :
    Wrote x (putRegs d l v m n x) ks act ∧
    (∀ r, d = .v r → ∀ i, i < n → (putRegs d l v m n x).vAt (r.toNat + i) l = BitVec.ofNat 32 (v / 2 ^ (32 * i))) ∧
    (∀ r, d = .o r → n = 1 → (putRegs d l v m n x).oAt r.toNat l = BitVec.ofNat 32 v) := by
  induction n with
  | zero => exact ⟨.refl _ _ _, fun _ _ i hi => absurd hi (Nat.not_lt_zero i), fun _ _ h => absurd h (by omega)⟩
  | succ n ih =>
    have hk' : ∀ k ∈ opKeys d n, k ∈ ks := by
      intro k hm
      refine hk k ?_
      cases d <;> simp only [opKeys, List.mem_map, List.mem_range] at hm ⊢
      · obtain ⟨a, h1, h2⟩ := hm; exact ⟨a, by omega, h2⟩
      · obtain ⟨a, h1, h2⟩ := hm; exact ⟨a, by omega, h2⟩
      all_goals exact hm
    have ho' : destOpen x d n := by
      cases d <;> simp only [destOpen] at ho ⊢
      · exact fun i hi => ho i (by omega)
      · exact fun i hi => ho i (by omega)
    obtain ⟨hw, hv, hoo⟩ := ih hk' ho'
    cases d with
    | v r =>
      have hopen : vOpen (putRegs (.v r) l v m n x) (r.toNat + n) := (vOpen_congr hw.hidden _).2 (ho n (by omega))
      refine ⟨hw.trans (wrote_setV _ _ _ (hk _ ?_) hl ha hopen), ?_, by intro _ h; cases h⟩
      · simp only [opKeys, List.mem_map, List.mem_range]; exact ⟨n, by omega, rfl⟩
      · intro r' hr i hi
        cases hr
        simp only [putRegs, Group.putReg]
        rw [vAt_setV _ _ _ _ _ _ _ hl hl hopen]
        by_cases h : i = n
        · simp [h]
        · have : r.toNat + i ≠ r.toNat + n := by omega
          simp only [this, false_and, if_false]
          exact hv r rfl i (by omega)
    | o r =>
      refine ⟨hw.trans (wrote_setO _ _ _ (hk _ ?_) hl ha), by (intro _ h; cases h), ?_⟩
      · simp [opKeys]
      · intro r' hr hn
        cases hr
        have : n = 0 := by omega
        subst this
        simp only [putRegs, Group.putReg]
        rw [oAt_setO _ _ _ _ _ _ _ hl hl]; simp
    | _ => exact ⟨by simpa only [putRegs, Group.putReg] using hw, by (intro _ h; cases h), by (intro _ h; cases h)⟩

/-- Another lane of a vector register. -/
theorem putRegs_vAt_ne (x : Group) (d : Opnd) (l v : Nat) (m : Bool) (n : Nat) {l' : Nat} (hl : l < 64) (hl' : l' < 64)
    (hne : l' ≠ l) (ho : destOpen x d n) (r' : Nat) : (putRegs d l v m n x).vAt r' l' = x.vAt r' l' := by
  induction n with
  | zero => rfl
  | succ n ih =>
    have ho' : destOpen x d n := by
      cases d <;> simp only [destOpen] at ho ⊢
      · exact fun i hi => ho i (by omega)
      · exact fun i hi => ho i (by omega)
    cases d with
    | v r =>
      have hw := (putRegs_spec x (.v r) l v m n (ks := opKeys (.v r) n) (act := BitVec.twoPow 64 l) (fun _ h => h) hl
        (by simp [hl]) ho').1
      simp only [putRegs, Group.putReg]
      rw [vAt_setV _ _ _ _ _ _ _ hl hl' ((vOpen_congr hw.hidden _).2 (ho n (by omega)))]
      simp only [hne, and_false, if_false]
      exact ih ho'
    | o r => simp only [putRegs, Group.putReg]; exact ih ho'
    | _ => simp only [putRegs, Group.putReg]; exact ih ho'

/-! ### Results -/

/-- One lane of a result: what stays, and what its registers hold. -/
theorem putLane_spec (x : Group) (d : Opnd) (n : Nat) (act : Mask) (f : Nat → Option Nat) (m : Nat → Bool) (l : Nat)
    (ho : destOpen x d n) :
    Wrote x (putLane d n act f m l x) (opKeys d n) act ∧
    (∀ l', l' < 64 → (l' ≠ l ∨ f l = none) → (∀ r, (putLane d n act f m l x).vAt r l' = x.vAt r l') ∧
      ∀ k, k < 335 → l' < x.gw → uniformKey k = false → regVal (putLane d n act f m l x) k l' = regVal x k l') ∧
    (act.getLsbD l = true → ∀ v, f l = some v →
      (∀ r, d = .v r → ∀ i, i < n → (putLane d n act f m l x).vAt (r.toNat + i) l = BitVec.ofNat 32 (v / 2 ^ (32 * i))) ∧
      (∀ r, d = .o r → n = 1 → (putLane d n act f m l x).oAt r.toNat l = BitVec.ofNat 32 v)) := by
  unfold putLane
  by_cases ha : act.getLsbD l = true
  · have hl : l < 64 := by
      apply Nat.lt_of_not_le
      intro hc
      rw [BitVec.getLsbD_of_ge _ _ hc] at ha; cases ha
    simp only [ha, if_true]
    cases hf : f l with
    | none => exact ⟨.refl _ _ _, fun _ _ _ => ⟨fun _ => rfl, fun _ _ _ _ => rfl⟩, fun _ v hv => by cases hv⟩
    | some v =>
      obtain ⟨p1, p2, p3⟩ := putRegs_spec x d l v (m l) n (ks := opKeys d n) (act := BitVec.twoPow 64 l)
        (fun _ h => h) hl (by simp [hl]) ho
      obtain ⟨q1, -, -⟩ := putRegs_spec x d l v (m l) n (ks := opKeys d n) (act := act) (fun _ h => h) hl ha ho
      refine ⟨q1, fun l' h64 hor => ?_, fun _ v' hv => by cases hv; exact ⟨p2, p3⟩⟩
      have hne : l' ≠ l := by
        rcases hor with h | h
        · exact h
        · cases h
      dsimp only
      refine ⟨fun r => putRegs_vAt_ne x d l v (m l) n hl h64 hne ho r, fun k hk hg hu => ?_⟩
      refine p1.regs k l' hk h64 hg fun _ => ⟨hu, ?_⟩
      rw [BitVec.getLsbD_twoPow]; simp [Ne.symm hne]
  · rw [if_neg ha]
    exact ⟨.refl _ _ _, fun _ _ _ => ⟨fun _ => rfl, fun _ _ _ _ => rfl⟩, fun h => absurd h ha⟩

/-- The operand file by key. -/
theorem regVal_o (x : Group) (r : BitVec 3) (l : Nat) : regVal x (320 + r.toNat) l = (x.oAt r.toNat l, x.oMark r.toNat l) := by
  have h8 := r.isLt
  have c1 : ¬(320 + r.toNat < 256) := by omega
  have c2 : ¬(320 + r.toNat < 320) := by omega
  have c3 : 320 + r.toNat < 328 := by omega
  simp [regVal, c1, c2, c3]

/-- The lanes below k of a result. -/
theorem putLanes_spec (x : Group) (d : Opnd) (n : Nat) (act : Mask) (f : Nat → Option Nat) (m : Nat → Bool)
    (ho : destOpen x d n) (hlg : x.gw = g) :
    Wrote x (forLanes (putLane d n act f m) g x) (opKeys d n) act ∧
    (∀ l, l < 64 → l < g → act.getLsbD l = true → ∀ v, f l = some v →
      (∀ r, d = .v r → ∀ i, i < n →
        (forLanes (putLane d n act f m) g x).vAt (r.toNat + i) l = BitVec.ofNat 32 (v / 2 ^ (32 * i))) ∧
      (∀ r, d = .o r → n = 1 → (forLanes (putLane d n act f m) g x).oAt r.toNat l = BitVec.ofNat 32 v)) ∧
    (∀ l, l < 64 → l < g → f l = none → ∀ k, k < 335 → uniformKey k = false →
      regVal (forLanes (putLane d n act f m) g x) k l = regVal x k l) := by
  have key := forLanes_ind (fun k y => Wrote x y (opKeys d n) act ∧
      (∀ l, l < k → l < 64 → l < g → act.getLsbD l = true → ∀ v, f l = some v →
        (∀ r, d = .v r → ∀ i, i < n → y.vAt (r.toNat + i) l = BitVec.ofNat 32 (v / 2 ^ (32 * i))) ∧
        (∀ r, d = .o r → n = 1 → y.oAt r.toNat l = BitVec.ofNat 32 v)) ∧
      (∀ l, l < 64 → l < g → f l = none → ∀ j, j < 335 → uniformKey j = false → regVal y j l = regVal x j l))
    (putLane d n act f m) x g ⟨.refl _ _ _, fun l hl => absurd hl (Nat.not_lt_zero l), fun _ _ _ _ _ _ _ => rfl⟩ ?_
  · exact ⟨key.1, fun l hl hg => key.2.1 l hg hl hg, key.2.2⟩
  · rintro l y hg ⟨h1, h2, h3⟩
    have hy : y.gw = g := by rw [h1.rest.gw, hlg]
    obtain ⟨q1, q2, q3⟩ := putLane_spec y d n act f m l ((destOpen_congr h1.hidden d n).2 ho)
    refine ⟨h1.trans q1, fun l' hl' h64 hg' ha v hv => ?_, fun l' h64 hg' hf k hk hu => ?_⟩
    · by_cases he : l' = l
      · subst he; exact q3 ha v hv
      · obtain ⟨a1, a2⟩ := h2 l' (by omega) h64 hg' ha v hv
        obtain ⟨b1, b2⟩ := q2 l' h64 (.inl he)
        refine ⟨fun r hr i hi => by rw [b1]; exact a1 r hr i hi, fun r hr hn => ?_⟩
        rw [← a2 r hr hn]
        have := b2 (320 + r.toNat) (by have := r.isLt; omega) (by rw [hy]; exact hg') (by simp [uniformKey])
        rw [regVal_o, regVal_o] at this
        exact congrArg Prod.fst this
    · rw [← h3 l' h64 hg' hf k hk hu]
      by_cases he : l' = l
      · subst he; exact (q2 l' h64 (.inr hf)).2 k hk (by rw [hy]; exact hg') hu
      · exact (q2 l' h64 (.inl he)).2 k hk (by rw [hy]; exact hg') hu

/-- A vector result: the group in focus alone; what stays, and what D holds where D is written. -/
theorem wrVec_spec (e : Enc) (d : Opnd) (n : Nat) (act : Mask) (f : Nat → Option Nat) (m : Nat → Bool) (s : State)
    (ho : destOpen s.g d n) :
    ∃ y, wrVec e d n act f m s = { s with g := y } ∧ Wrote s.g y (destKeys e d n act) act ∧
      (nwb e = false → ∀ l, l < 64 → l < s.g.gw → act.getLsbD l = true → ∀ v, f l = some v →
        (∀ r, d = .v r → ∀ i, i < n → y.vAt (r.toNat + i) l = BitVec.ofNat 32 (v / 2 ^ (32 * i))) ∧
        (∀ r, d = .o r → n = 1 → y.oAt r.toNat l = BitVec.ofNat 32 v)) ∧
      (∀ l, l < 64 → l < s.g.gw → f l = none → ∀ k, k < 335 → uniformKey k = false → regVal y k l = regVal s.g k l) := by
  unfold wrVec
  by_cases hn : nwb e = true
  · simp only [hn, if_true]
    refine ⟨_, rfl, wrote_latchAll _ _ _ _ _ _, fun h => by simp at h, fun l hl hg _ k hk hu => ?_⟩
    exact (wrote_latchAll _ _ _ _ [] 0).regs k l hk hl hg (by simp)
  · have hn : nwb e = false := by simpa using hn
    simp only [hn, Bool.false_eq_true, if_false]
    obtain ⟨h1, h2, h3⟩ := putLanes_spec s.g d n act f m ho rfl
    have hk : Wrote s.g (forLanes (putLane d n act f m) s.g.gw s.g) (destKeys e d n act) act := by
      by_cases ha : act = 0
      · subst ha
        have hx : forLanes (putLane d n 0 f m) s.g.gw s.g = s.g :=
          forLanes_ind (fun _ z => z = s.g) _ _ _ rfl (by rintro i z _ rfl; simp [putLane])
        rw [hx]; exact .refl _ _ _
      · have : destKeys e d n act = opKeys d n := by unfold destKeys; rw [hn]; simp; intro h; exact absurd h ha
        rw [this]; exact h1
    refine ⟨_, rfl, hk.trans (wrote_latchAll _ _ _ _ _ _), fun _ l hl hg ha v hv => ?_, fun l hl hg hf k hk hu => ?_⟩
    · obtain ⟨a, b, hab⟩ := latchAll_spec e
        (fun l => (forLanes (putLane d n act f m) s.g.gw s.g).curReg d l)
        (fun l => (forLanes (putLane d n act f m) s.g.gw s.g).curMark d l) (forLanes (putLane d n act f m) s.g.gw s.g)
      rw [hab]
      exact h2 l hl hg ha v hv
    · rw [← h3 l hl hg hf k hk hu]
      exact (wrote_latchAll _ _ _ _ [] 0).regs k l hk hl (by rw [h1.rest.gw]; exact hg) (by simp)

/-- The halves of a pair. -/
theorem halves_append (v : DWord) : (v.extractLsb' 32 32 : Word) ++ (v.extractLsb' 0 32 : Word) = v := by
  apply BitVec.eq_of_getLsbD_eq
  intro i hi
  rw [BitVec.getLsbD_append, BitVec.getLsbD_extractLsb', BitVec.getLsbD_extractLsb']
  by_cases h : i < 32
  · simp [h]
  · have h1 : i - 32 < 32 := by omega
    have h2 : 32 + (i - 32) = i := by omega
    simp [h, h1, h2]

/-- A uniform result. -/
theorem wrG_spec (e : Enc) (d : Opnd) (wide : Bool) (act : Mask) (v : DWord) (s : State)
    (ho : destOpen s.g d (regsOf wide)) :
    ∃ y, wrG e d wide act v s = { s with g := y } ∧ Wrote s.g y (destKeys e d (regsOf wide) act) act ∧
      (nwb e = false → act ≠ 0 → ∀ r, d = .g r →
        if wide then y.gPair r.toNat = v else y.gAt r.toNat = v.setWidth 32) := by
  cases d with
  | g r =>
    simp only [wrG]
    by_cases hn : nwb e = true
    · simp only [hn, if_true]
      exact ⟨_, rfl, wrote_latchAll _ _ _ _ _ _, fun h => by simp at h⟩
    · have hn : nwb e = false := by simpa using hn
      simp only [hn, Bool.false_eq_true, if_false]
      by_cases ha : act = 0
      · simp only [ha, if_true]
        exact ⟨_, rfl, wrote_latchAll _ _ _ _ _ _, fun _ h => absurd rfl h⟩
      · have hk : destKeys e (.g r) (regsOf wide) act = opKeys (.g r) (regsOf wide) := by
          unfold destKeys; rw [hn]; simp; intro h; exact absurd h ha
        simp only [ha, if_false]
        rw [hk]
        have latch (y : Group) (f : Nat → Word) (m : Nat → Bool) (i : Nat) : (latchAll e f m y).gAt i = y.gAt i := by
          obtain ⟨a, b, h⟩ := latchAll_spec e f m y
          rw [h]; rfl
        cases wide with
        | false =>
          have o0 : gOpen s.g r.toNat := by simpa using ho 0 (by simp [regsOf])
          refine ⟨_, rfl, (wrote_setG s.g _ _ (by simp [opKeys, regsOf]) o0).trans (wrote_latchAll _ _ _ _ _ _), ?_⟩
          rintro - - r' hr
          cases hr
          simp only [Bool.false_eq_true, if_false, latch]
          rw [gAt_setG _ _ _ _ _ o0]; simp
        | true =>
          have o0 : gOpen s.g r.toNat := by simpa using ho 0 (by simp [regsOf])
          have o1 : gOpen s.g (r.toNat + 1) := ho 1 (by simp [regsOf])
          have w0 := wrote_setG s.g (v.extractLsb' 0 32) false (ks := opKeys (.g r) 2) (act := act)
            (by simp [opKeys, List.range_succ]) o0
          have o1' := (gOpen_congr w0.hidden _).2 o1
          refine ⟨_, rfl, (w0.trans (wrote_setG _ _ _ (by simp [opKeys, List.range_succ]; omega) o1')).trans
            (wrote_latchAll _ _ _ _ _ _), ?_⟩
          rintro - - r' hr
          cases hr
          simp only [if_true, Group.gPair, latch, Group.setGPair]
          have ne : r.toNat ≠ r.toNat + 1 := by omega
          rw [gAt_setG _ _ _ _ _ o1', gAt_setG _ _ _ _ _ o1', if_pos rfl, if_neg ne, gAt_setG _ _ _ _ _ o0,
            if_pos rfl]
          exact halves_append v
  | _ => exact ⟨s.g, rfl, .refl _ _ _, fun _ _ _ h => by cases h⟩

theorem getLsbD_maskUpTo (f : Nat → Bool) (n l : Nat) : (maskUpTo f n).getLsbD l = (decide (l < n) && decide (l < 64) && f l) := by
  induction n with
  | zero => simp [maskUpTo]
  | succ n ih =>
    simp only [maskUpTo, BitVec.getLsbD_or, ih]
    by_cases hl : l = n
    · subst hl
      by_cases hf : f l = true <;> by_cases h64 : l < 64 <;> simp [hf, h64, BitVec.getLsbD_twoPow]
    · have h1 : (l < n + 1) ↔ (l < n) := by omega
      by_cases hf : f n = true
      · simp [hf, BitVec.getLsbD_twoPow, h1, Ne.symm hl]
      · simp [hf, h1]

theorem getLsbD_maskOf (f : Nat → Bool) (l : Nat) : (maskOf f).getLsbD l = (decide (l < 64) && f l) := by
  unfold maskOf; rw [getLsbD_maskUpTo]; simp

theorem getLsbD_laneMask (n l : Nat) : (laneMask n).getLsbD l = (decide (l < 64) && decide (l < n)) := by
  unfold laneMask; rw [getLsbD_maskOf]

/-- A predicate result. -/
theorem wrP_spec (e : Enc) (d : Opnd) (act : Mask) (f : Nat → Bool) (s : State) :
    ∃ y, wrP e d act f s = { s with g := y } ∧ Wrote s.g y (destKeys e d 1 act) act ∧
      (nwb e = false → ∀ l, l < 64 → l < s.g.gw → act.getLsbD l = true → ∀ n, d = .p n →
        (y.pAt n.toNat).getLsbD l = (n == 7 || f l)) := by
  cases d with
  | p n =>
    simp only [wrP]
    by_cases hn : nwb e = true
    · simp only [hn, if_true]
      exact ⟨_, rfl, wrote_latchAll _ _ _ _ _ _, fun h => by simp at h⟩
    · have hn : nwb e = false := by simpa using hn
      simp only [hn, Bool.false_eq_true, if_false]
      have latch (y : Group) (f : Nat → Word) (m : Nat → Bool) (i : Nat) : (latchAll e f m y).pAt i = y.pAt i := by
        obtain ⟨a, b, h⟩ := latchAll_spec e f m y
        rw [h]; rfl
      have h8 := n.isLt
      have h7 : n.toNat = 7 ↔ n = 7 := ⟨fun h => BitVec.eq_of_toNat_eq h, fun h => by rw [h]; rfl⟩
      have bitAt (l : Nat) (hl : l < 64) (hg : l < s.g.gw) :
          ((s.g.setP n.toNat ((s.g.pAt n.toNat &&& ~~~act) ||| maskOf fun l => act.getLsbD l && f l)).pAt n.toNat).getLsbD l
            = (n == 7 || (if act.getLsbD l then f l else (s.g.pAt n.toNat).getLsbD l)) := by
        rw [pAt_setP]
        by_cases hn7 : n.toNat = 7
        · have := h7.1 hn7
          subst this
          simp [Group.pAt, Group.all, getLsbD_laneMask, hl, hg]
        · have hb : (n == 7) = false := by simpa using fun h => hn7 (h7.2 h)
          simp only [hn7, ne_eq, not_false_eq_true, and_self, if_true, hb, Bool.false_or]
          simp only [BitVec.getLsbD_and, BitVec.getLsbD_or, BitVec.getLsbD_not, getLsbD_maskOf, Group.all, getLsbD_laneMask]
          cases ha : act.getLsbD l <;> simp only [hl, hg, decide_true, Bool.not_true, Bool.not_false, Bool.and_true, Bool.and_false, Bool.true_and, Bool.false_and, Bool.false_or, Bool.or_false, if_true, Bool.false_eq_true, if_false]
      refine ⟨_, rfl, Wrote.trans ⟨?_, ?_, ?_, ?_⟩ (wrote_latchAll _ _ _ _ _ _), ?_⟩
      · unfold Group.setP; split
        · rfl
        · exact onBank_rest _ _
      · unfold Group.setP; split
        · exact .refl _
        · exact onBank_hidden _ _
      · unfold Group.setP; split
        · rfl
        · unfold Group.onBank; cases s.g.sh <;> rfl
      · intro k l hk hl hg hd
        unfold regVal
        rw [vAt_setP, vMark_setP, gAt_setP, gMark_setP]
        split
        · rfl
        · split
          · rfl
          · split
            · unfold Group.setP; split
              · rfl
              · unfold Group.oAt Group.oMark; rw [(onBank_o _ _).1, (onBank_o _ _).2]
            · by_cases hkn : k - 328 = n.toNat
              · rw [hkn, bitAt l hl hg]
                by_cases hn7 : n.toNat = 7
                · omega
                · have hb : (n == 7) = false := by simpa using fun h => hn7 (h7.2 h)
                  have : act.getLsbD l = false := by
                    by_cases ha0 : act = 0
                    · rw [ha0]; simp
                    · refine (hd ?_).2
                      have hne : ¬ n = 7 := fun h => hn7 (h7.2 h)
                      have e0 : (nwb e || act == 0) = false := by rw [hn]; simpa using ha0
                      unfold destKeys
                      rw [e0]
                      simp only [Bool.false_eq_true, if_false, opKeys, hne, List.mem_singleton]
                      omega
                  rw [hb, this]; simp
              · rw [pAt_setP]; simp [hkn]
      · intro _ l hl hg ha n' hn'
        cases hn'
        rw [latch, bitAt l hl hg]; simp [ha]
  | _ => exact ⟨s.g, rfl, .refl _ _ _, fun _ _ _ _ _ _ h => by cases h⟩

/-! ### The start of an instruction -/

/-- Counting changes the counters alone. -/
theorem countMine_spec (n amt : Nat) (s : State) : ∃ ev ob, countMine n amt s = { s with evc := ev, obs := ob } := by
  unfold countMine countEv
  dsimp only
  split <;> exact ⟨_, _, rfl⟩

/-- Counting an issue changes the counters alone. -/
theorem countIssue_spec (a b : Bool) (s : State) : ∃ ev ob, countIssue a b s = { s with evc := ev, obs := ob } := by
  unfold countIssue
  dsimp only
  obtain ⟨e1, o1, h1⟩ := countMine_spec 0 1 s
  have h2 : ∃ ev ob, (if a = true then countMine 1 1 (countMine 0 1 s) else countMine 0 1 s) = { s with evc := ev, obs := ob } := by
    rw [h1]
    split
    · obtain ⟨e2, o2, h2⟩ := countMine_spec 1 1 { s with evc := e1, obs := o1 }
      exact ⟨_, _, h2⟩
    · exact ⟨_, _, rfl⟩
  obtain ⟨e2, o2, h2⟩ := h2
  rw [h2]
  split
  · obtain ⟨e3, o3, h3⟩ := countMine_spec 2 1 { s with evc := e2, obs := o2 }
    exact ⟨_, _, h3⟩
  · exact ⟨_, _, rfl⟩

/-- A note of a run changes a hit's runs alone. -/
theorem noteRun_runs (tag cl uid : Nat) (h : WpHit) : { noteRun tag cl uid h with runs := [] } = { h with runs := [] } := by
  unfold noteRun; split <;> rfl

theorem sameHits_begin (e : Enc) (s : State) : SameHits s (s.begin e) := by
  unfold SameHits State.begin
  dsimp only
  split
  · rw [List.map_map]; exact List.map_congr_left fun h _ => noteRun_runs _ _ _ h
  · rfl

/-- The start of an instruction: holds, the start of the run, and what counts and notes it. -/
theorem beginIssue_spec (e : Enc) (s : State) :
    ∃ p a c d f g h wd we ev ob fr tl wq, beginIssue e s = { s with
      g := { s.g with pend := p, runStart := a, noMatch := c, yielded := d, again := f, skid := g, stop := h },
      wdog := wd, wext := we, evc := ev, obs := ob, fresh := fr, tlb := tl, wpq := wq } ∧
      wq.map (fun h => { h with runs := [] }) = s.wpq.map (fun h => { h with runs := [] }) := by
  obtain ⟨ev, ob, h⟩ := countIssue_spec (s.g.runPos == 0) (s.g.runPos == 0 && !s.g.shadowed && s.g.again == some s.g.pc) (s.begin e)
  exact ⟨_, _, _, _, _, _, _, _, _, ev, ob, _, _, _, h, sameHits_begin e s⟩

end Sys2Proof.Machine
end

