-- ==== Sys2Proof/Laws/Spec.lean ====
section
/-!
SUPPORT. From the meaning of an instruction to its statement: the checks at issue leave its destination open, and a body
that only writes results gives completion, result and frame at once.
-/
namespace Sys2Proof.Machine

/-! ### What the checks at issue give -/

/-- Every field passes step 4 of R73. -/
theorem issues_fields {i : Instr} {s : State} {e : Enc} {r : Row} (h : Issues i s e) (hr : rowOf e.w.opc = some r) :
    ∀ f ∈ fieldsOf e r, fieldBad s.t s.g e f = false := by
  have h2 := h.2
  unfold issueFault at h2
  simp only [hr] at h2
  split at h2
  · cases h2
  · split at h2
    · cases h2
    · split at h2
      · cases h2
      · split at h2
        · cases h2
        · next hz =>
          have hz : e.staticOpf r ||| e.roleOpf ||| dynOpf s.t s.g e r = 0 := Decidable.not_not.1 hz
          have hd : dynOpf s.t s.g e r = 0 := (BitVec.or_eq_zero_iff.1 hz).2
          have go : ∀ (fs : List FieldUse) (m : BitVec 4), (∀ f ∈ fs, f.bit < 4) →
              fs.foldl (fun m f => if (fieldBad s.t s.g e f ||
                (writeKeys e r s.g).any fun k => k.2 == f.bit && s.g.runReads.contains k.1) then m ||| BitVec.twoPow 4 f.bit
                else m) m = 0 → m = 0 ∧ ∀ f ∈ fs, fieldBad s.t s.g e f = false := by
            intro fs
            induction fs with
            | nil => intro m _ h; exact ⟨h, by simp⟩
            | cons f fs ih =>
              intro m hb h
              simp only [List.foldl_cons] at h
              obtain ⟨h0, hf⟩ := ih _ (fun g hg => hb g (by simp [hg])) h
              have hfb : fieldBad s.t s.g e f = false := by
                cases hc : fieldBad s.t s.g e f with
                | false => rfl
                | true =>
                  simp only [hc, Bool.true_or, if_true] at h0
                  have := (BitVec.or_eq_zero_iff.1 h0).2
                  have h4 := congrArg (fun z => BitVec.getLsbD z f.bit) this
                  have h5 := hb f (by simp)
                  simp [h5] at h4
              refine ⟨?_, fun g hg => ?_⟩
              · split at h0
                · exact (BitVec.or_eq_zero_iff.1 h0).1
                · exact h0
              · rcases List.mem_cons.1 hg with rfl | hg
                · exact hfb
                · exact hf g hg
          refine (go (fieldsOf e r) 0 ?_ (by simpa [dynOpf] using hd)).2
          intro f hf
          simp only [fieldsOf, List.mem_cons, List.not_mem_nil, or_false] at hf
          rcases hf with rfl | rfl | rfl | rfl <;> simp

/-- The encoding checks of R73 pass. -/
theorem issues_enc {i : Instr} {s : State} {e : Enc} {r : Row} (h : Issues i s e) (hr : rowOf e.w.opc = some r) :
    e.subOk r = true ∧ e.encOk r = true ∧ (s.g.shadowed && !r.shadow) = false := by
  have h2 := h.2
  unfold issueFault at h2
  simp only [hr] at h2
  split at h2
  · cases h2
  · next h3 =>
    split at h2
    · cases h2
    · next h4 =>
      split at h2
      · cases h2
      · next h5 =>
        simp only [Bool.or_eq_true, not_or, Bool.not_eq_true', Bool.not_eq_false] at h3 h4
        exact ⟨h3, h4.1, by simpa using h5⟩

theorem issues_mod {i : Instr} {s : State} {e : Enc} {r : Row} (h : Issues i s e) (hr : rowOf e.w.opc = some r) :
    e.modOk r = true := by
  have h2 := (issues_enc h hr).2.1
  simp only [Enc.encOk, Bool.and_eq_true] at h2
  exact h2.1.1.1.1.1.1.2

/-- Every operand field names an operand of a class it accepts, whose registers fit (R73, R152). -/
theorem issues_static {i : Instr} {s : State} {e : Enc} {r : Row} (h : Issues i s e) (hr : rowOf e.w.opc = some r) :
    e.fieldOk r.d e.w.d = true ∧ e.fieldOk r.a e.w.a = true ∧ e.fieldOk r.b e.w.b = true ∧ e.fieldOk r.c e.w.c = true := by
  have h2 := h.2
  unfold issueFault at h2
  simp only [hr] at h2
  split at h2
  · cases h2
  · split at h2
    · cases h2
    · split at h2
      · cases h2
      · split at h2
        · cases h2
        · next hz =>
          have hz : e.staticOpf r ||| e.roleOpf ||| dynOpf s.t s.g e r = 0 := Decidable.not_not.1 hz
          have hs : e.staticOpf r = 0 := (BitVec.or_eq_zero_iff.1 (BitVec.or_eq_zero_iff.1 hz).1).1
          unfold Enc.staticOpf at hs
          generalize e.fieldOk r.d e.w.d = x0 at *
          generalize e.fieldOk r.a e.w.a = x1 at *
          generalize e.fieldOk r.b e.w.b = x2 at *
          generalize e.fieldOk r.c e.w.c = x3 at *
          revert hs
          cases x0 <;> cases x1 <;> cases x2 <;> cases x3 <;> decide

theorem decSpec_v (n : BitVec 8) (l : Word) : decSpec (encSpec (.v n)) l = some (.v n) := by
  revert n; simp only [encSpec, decSpec]; intro n
  have h1 : ((0#2 ++ n : BitVec 10).extractLsb' 8 2).toNat = 0 := by
    have : (0#2 ++ n : BitVec 10).extractLsb' 8 2 = 0#2 := by
      apply BitVec.eq_of_getLsbD_eq; intro i hi
      rw [BitVec.getLsbD_extractLsb', BitVec.getLsbD_append]
      have : ¬(8 + i < 8) := by omega
      simp [this]
    rw [this]; rfl
  have h2 : (0#2 ++ n : BitVec 10).extractLsb' 0 8 = n := by
    apply BitVec.eq_of_getLsbD_eq; intro i hi
    rw [BitVec.getLsbD_extractLsb', BitVec.getLsbD_append]
    simp [hi]
  simp [h1, h2]

theorem decSpec_g (n : BitVec 6) (l : Word) : decSpec (encSpec (.g n)) l = some (.g n) := by
  have h1 : (1#2 ++ (0#2 ++ n) : BitVec 10).extractLsb' 8 2 = 1#2 := by revert n; decide
  have h2 : ((1#2 ++ (0#2 ++ n) : BitVec 10).extractLsb' 0 8 : BitVec 8).extractLsb' 6 2 = 0#2 := by revert n; decide
  have h3 : ((1#2 ++ (0#2 ++ n) : BitVec 10).extractLsb' 0 8 : BitVec 8).extractLsb' 0 6 = n := by revert n; decide
  simp only [encSpec, decSpec, h1, h2, h3]
  rfl

theorem decSpec_o (n : BitVec 3) (l : Word) : decSpec (encSpec (.o n)) l = some (.o n) := by
  have : n = 0 ∨ n = 1 ∨ n = 2 ∨ n = 3 ∨ n = 4 ∨ n = 5 ∨ n = 6 ∨ n = 7 := by revert n; decide
  rcases this with h | h | h | h | h | h | h | h <;> subst h <;> rfl

theorem decSpec_h (n : BitVec 2) (l : Word) : decSpec (encSpec (.h n)) l = some (.h n) := by
  have : n = 0 ∨ n = 1 ∨ n = 2 ∨ n = 3 := by revert n; decide
  rcases this with h | h | h | h <;> subst h <;> rfl

theorem decSpec_p (n : BitVec 3) (l : Word) : decSpec (encSpec (.p n)) l = some (.p n) := by
  have : n = 0 ∨ n = 1 ∨ n = 2 ∨ n = 3 ∨ n = 4 ∨ n = 5 ∨ n = 6 ∨ n = 7 := by revert n; decide
  rcases this with h | h | h | h | h | h | h | h <;> subst h <;> rfl

theorem decSpec_imm (n : BitVec 8) (l : Word) : decSpec (encSpec (.imm n)) l = some (.imm n) := by
  have h1 : (3#2 ++ n : BitVec 10).extractLsb' 8 2 = 3#2 := by revert n; decide
  have h2 : (3#2 ++ n : BitVec 10).extractLsb' 0 8 = n := by revert n; decide
  simp [encSpec, decSpec, h1, h2]

/-- An operand as its specifier names it: a literal takes the literal of the encoding (R53, R54). -/
def litOpnd (l : Word) : Opnd → Opnd
  | .lit _ => .lit l
  | o => o

theorem decSpec_encSpec (d : Opnd) (l : Word) : decSpec (encSpec d) l = some (litOpnd l d) := by
  cases d with
  | v n => exact decSpec_v n l
  | g n => exact decSpec_g n l
  | o n => exact decSpec_o n l
  | h n => exact decSpec_h n l
  | p n => exact decSpec_p n l
  | imm n => exact decSpec_imm n l
  | lit x => simp [encSpec, decSpec, specLit, litOpnd]
  | _ => rfl

/-- What a destination field of a row holds: an operand of its class whose registers fit. -/
theorem dest_takes {i : Instr} {s : State} {e : Enc} {acc : Acc} {w : Width} {dir : Dir} {d : Opnd} (h : Issues i s e)
    (hr : (rowOf e.w.opc).map Row.d = some (.op acc w dir)) (hs : e.w.d = encSpec d) :
    acc.takes (litOpnd e.f.lit d) = true ∧ regsFit (litOpnd e.f.lit d) (e.count w) (e.align w) = true := by
  obtain ⟨r, h1, h2⟩ := Option.map_eq_some_iff.1 hr
  have hf := (issues_static h h1).1
  rw [h2, hs] at hf
  simp only [Enc.fieldOk, decSpec_encSpec, Bool.and_eq_true] at hf
  exact ⟨hf.1.1.1, hf.1.1.2⟩

/-- DST of `.cas` is read too; its registers are the row's (R198). -/
theorem destRole_op {e : Enc} {r : Row} {acc : Acc} {w : Width} {dir : Dir} (hr : rowOf e.w.opc = some r)
    (hd : r.d = .op acc w dir) (hdir : dir ≠ .rd) : ∃ acc' dir', destRole e r = .op acc' w dir' ∧ dir' ≠ .rd := by
  unfold destRole
  split
  · next hc =>
    rw [hc.1] at hr
    have h0 : (rowOf (128 : BitVec 8)).map Row.d = some (.op Roles.accVv .w64hi .wr) := rfl
    rw [hr, Option.map_some, hd] at h0
    have hw : w = .w64hi := by injection h0 with h0; injection h0
    exact ⟨_, _, by rw [hw], by decide⟩
  · exact ⟨acc, dir, hd, hdir⟩

/-- A D field whose checks passed is open to writing. -/
theorem destOpen_of {i : Instr} {s : State} {e : Enc} {r : Row} {acc : Acc} {w : Width} {dir : Dir} {d : Opnd}
    (h : Issues i s e) (hr : rowOf e.w.opc = some r) (hd : r.d = .op acc w dir) (hdir : dir ≠ .rd)
    (hs : e.w.d = encSpec d) : destOpen s.g d (e.count w) := by
  have hb := issues_fields h hr ⟨destRole e r, e.w.d, 0⟩ (by simp [fieldsOf])
  obtain ⟨acc, dir, hd, hdir⟩ := destRole_op hr hd hdir
  unfold fieldBad FieldUse.operand at hb
  simp only [hd, hs] at hb
  cases d with
  | v n =>
    simp only [decSpec_v, Option.map_some, Bool.or_eq_false_iff, Bool.and_eq_false_iff, bne_eq_false_iff_eq] at hb
    intro j hj
    unfold vOpen
    rcases hb.2 with h1 | h1
    · rcases h1 with h1 | h1
      · simp [h1]
      · exact absurd h1 hdir
    · have : ¬(16 < n.toNat + e.count w) := by simpa using h1
      have : ¬(16 ≤ n.toNat + j) := by omega
      simp [this]
  | g n =>
    simp only [decSpec_g, Option.map_some, Bool.and_eq_false_iff, bne_eq_false_iff_eq] at hb
    intro j hj
    unfold gOpen
    rcases hb with h1 | h1
    · rcases h1 with h1 | h1
      · simp [h1]
      · exact absurd h1 hdir
    · have : ¬(8 < n.toNat + e.count w) := by simpa using h1
      have : ¬(8 ≤ n.toNat + j) := by omega
      simp [this]
  | _ => trivial

theorem destOpen_row {i : Instr} {s : State} {e : Enc} {acc : Acc} {w : Width} {dir : Dir} {d : Opnd} (h : Issues i s e)
    (hr : (rowOf e.w.opc).map Row.d = some (.op acc w dir)) (hdir : dir ≠ .rd) (hs : e.w.d = encSpec d) :
    destOpen s.g d (e.count w) := by
  obtain ⟨r, h1, h2⟩ := Option.map_eq_some_iff.1 hr
  exact destOpen_of h h1 h2 hdir hs

theorem count_int {e : Enc} {ty : IType} {b : Bool} (h : e.w.mod = mk4 ty.code b) :
    e.count .int = regsOf (IType.wide ty) := by
  show (if e.w.mod.extractLsb' 0 3 = 6#3 then 2 else 1) = _
  rw [h]; cases ty <;> cases b <;> rfl

theorem count_flt {e : Enc} {ty : FType} {b : Bool} (h : e.w.mod = mk4 ty.code b) :
    e.count .flt = regsOf (FType.wide ty) := by
  show (if e.w.mod.extractLsb' 0 3 = 1#3 then 2 else 1) = _
  rw [h]; cases ty <;> cases b <;> rfl

/-- A vector destination: a register of one lane, or one of a pair when wide. -/
def vDest (d : Opnd) (wide : Bool) : Prop :=
  match d with
  | .v _ => True
  | .o _ => wide = false
  | _ => False

/-- A uniform destination. -/
def gDest (d : Opnd) : Prop :=
  match d with
  | .g _ => True
  | _ => False

/-- A predicate destination. -/
def pDest (d : Opnd) : Prop :=
  match d with
  | .p _ => True
  | _ => False

theorem vDest_of {i : Instr} {s : State} {e : Enc} {w : Width} {dir : Dir} {d : Opnd} {wide : Bool} (h : Issues i s e)
    (hr : (rowOf e.w.opc).map Row.d = some (.op Roles.accV w dir)) (hs : e.w.d = encSpec d)
    (hc : e.count w = regsOf wide) : vDest d wide := by
  obtain ⟨h1, h2⟩ := dest_takes h hr hs
  cases d with
  | v n => trivial
  | o n =>
    rw [hc] at h2
    cases wide with
    | false => rfl
    | true => cases h2
  | _ => cases h1

theorem gDest_of {i : Instr} {s : State} {e : Enc} {w : Width} {dir : Dir} {d : Opnd} (h : Issues i s e)
    (hr : (rowOf e.w.opc).map Row.d = some (.op Roles.accG w dir)) (hs : e.w.d = encSpec d) : gDest d := by
  have h1 := (dest_takes h hr hs).1
  cases d with
  | g n => trivial
  | _ => cases h1

theorem pDest_of {i : Instr} {s : State} {e : Enc} {w : Width} {dir : Dir} {d : Opnd} (h : Issues i s e)
    (hr : (rowOf e.w.opc).map Row.d = some (.op Roles.accP w dir)) (hs : e.w.d = encSpec d) : pDest d := by
  have h1 := (dest_takes h hr hs).1
  cases d with
  | p n => trivial
  | _ => cases h1

/-- A vector D operand: what class it has, and that it is open. -/
theorem vOpen_of {i : Instr} {s : State} {e : Enc} {w : Width} {dir : Dir} {d : Opnd} {wide : Bool} (h : Issues i s e)
    (hr : (rowOf e.w.opc).map Row.d = some (.op Roles.accV w dir)) (hdir : dir ≠ .rd) (hs : e.w.d = encSpec d)
    (hc : e.count w = regsOf wide) : destOpen s.g d (regsOf wide) ∧ vDest d wide :=
  ⟨hc ▸ destOpen_row h hr hdir hs, vDest_of h hr hs hc⟩

/-- A uniform D operand: what class it has, and that it is open. -/
theorem gOpen_of {i : Instr} {s : State} {e : Enc} {w : Width} {dir : Dir} {d : Opnd} {wide : Bool} (h : Issues i s e)
    (hr : (rowOf e.w.opc).map Row.d = some (.op Roles.accG w dir)) (hdir : dir ≠ .rd) (hs : e.w.d = encSpec d)
    (hc : e.count w = regsOf wide) : destOpen s.g d (regsOf wide) ∧ gDest d :=
  ⟨hc ▸ destOpen_row h hr hdir hs, gDest_of h hr hs⟩

/-! ### Assembly -/

/-- The frame of an instruction whose body changes the group in focus alone. -/
theorem regFrame_of {s : State} {e : Enc} {ks : List Nat} {act : Mask} {fl : Flags} (F : State → State)
    (hF : ∃ y, F (beginIssue e s) = { beginIssue e s with g := y } ∧ SameRest (beginIssue e s).g y ∧
      SameRegs (beginIssue e s).g y ks act ∧ y.fflags = (beginIssue e s).g.fflags ||| fl) :
    RegFrame s (seqNext e (F (beginIssue e s))) ks act fl := by
  obtain ⟨y, hy, hr, hg, hf⟩ := hF
  obtain ⟨z, hz, hw⟩ := seqNext_spec e (F (beginIssue e s))
  obtain ⟨p, a, c, d, f, g, h, wd, we, ev, ob, fr, tl, wq, hb, hq⟩ := beginIssue_spec e s
  rw [hz]
  rw [hy] at hw ⊢
  have h1 : SameRest s.g (beginIssue e s).g := by rw [hb]; rfl
  have h0 : SameRest s.g z := (h1.trans hr).trans hw.rest
  rw [hb] at hr hg hf hw ⊢
  refine ⟨rfl, hq, ⟨fun _ => ⟨rfl, rfl, rfl, rfl, rfl⟩, fun team off => rfl⟩, h0, ?_, ?_⟩
  · rw [hw.fflags, hf]
  · refine ⟨fun hs => (hw.hidden.1 ?_).trans (hg.1 hs), hw.hidden.2.trans hg.2.1, fun k l hk hl hgw hn => ?_⟩
    · have := SameHidden.shadowed ⟨hg.1, hg.2.1⟩
      rw [this]; exact hs
    · rw [hw.regVal k l]
      exact hg.2.2 k l hk hl hgw hn

/-- The registers after the last step of an instruction read as before it. -/
theorem seqNext_regs (e : Enc) (s : State) (k l : Nat) : regVal (seqNext e s).g k l = regVal s.g k l := by
  obtain ⟨z, hz, hw⟩ := seqNext_spec e s
  rw [hz]; exact hw.regVal k l

/-- The group in focus reads the same at the start of its instruction. -/
theorem beginIssue_active (e : Enc) (s : State) (gd : Guard) : (beginIssue e s).g.active gd = s.g.active gd := by
  obtain ⟨p, a, c, d, f, g, h, wd, we, ev, ob, fr, tl, wq, hb, hq⟩ := beginIssue_spec e s
  rw [hb]; rfl

theorem beginIssue_open (e : Enc) (s : State) (d : Opnd) (n : Nat) :
    destOpen (beginIssue e s).g d n ↔ destOpen s.g d n := by
  obtain ⟨p, a, c, d', f, g, h, wd, we, ev, ob, fr, tl, wq, hb, hq⟩ := beginIssue_spec e s
  rw [hb]; exact destOpen_congr (.of_eq rfl rfl) d n

theorem beginIssue_gw (e : Enc) (s : State) : (beginIssue e s).g.gw = s.g.gw := by
  obtain ⟨p, a, c, d', f, g, h, wd, we, ev, ob, fr, tl, wq, hb, hq⟩ := beginIssue_spec e s
  rw [hb]

theorem beginIssue_runPos (e : Enc) (s : State) : (beginIssue e s).g.runPos = s.g.runPos := by
  obtain ⟨p, a, c, d', f, g, h, wd, we, ev, ob, fr, tl, wq, hb, hq⟩ := beginIssue_spec e s
  rw [hb]

/-- A function of the group that the start of an instruction does not change. -/
def Steady {α : Type} (f : Group → α) : Prop :=
  ∀ x p a c d f' g h, f { x with pend := p, runStart := a, noMatch := c, yielded := d, again := f', skid := g, stop := h } = f x

theorem Steady.begin {α : Type} {f : Group → α} (hf : Steady f) (e : Enc) (s : State) : f (beginIssue e s).g = f s.g := by
  obtain ⟨p, a, c, d', f', g, h, wd, we, ev, ob, fr, tl, wq, hb, hq⟩ := beginIssue_spec e s
  rw [hb]; exact hf ..

theorem ofNat_half (v : DWord) : BitVec.ofNat 32 (v.toNat / 2 ^ (32 * 0)) = v.setWidth 32 := by
  apply BitVec.eq_of_toNat_eq; simp

theorem ofNat_halves (v : DWord) :
    (BitVec.ofNat 32 (v.toNat / 2 ^ (32 * 1)) : Word) ++ (BitVec.ofNat 32 (v.toNat / 2 ^ (32 * 0)) : Word) = v := by
  have h1 : (BitVec.ofNat 32 (v.toNat / 2 ^ (32 * 1)) : Word) = v.extractLsb' 32 32 := by
    apply BitVec.eq_of_toNat_eq
    simp [BitVec.extractLsb'_toNat, Nat.shiftRight_eq_div_pow]
  have h0 : (BitVec.ofNat 32 (v.toNat / 2 ^ (32 * 0)) : Word) = v.extractLsb' 0 32 := by
    apply BitVec.eq_of_toNat_eq
    simp [BitVec.extractLsb'_toNat]
  rw [h1, h0, halves_append]

/-- What a lane-wise vector result leaves after the last step of its instruction. -/
theorem laneResult_of {e : Enc} {d : Opnd} {wide : Bool} {act : Mask} {f : Nat → DWord} {y : Group} {t : State}
    (hd : vDest d wide) (hw : Walked y t.g)
    (h : nwb e = false → ∀ l, l < 64 → l < y.gw → act.getLsbD l = true → ∀ v, some (f l).toNat = some v →
        (∀ r, d = .v r → ∀ i, i < regsOf wide → y.vAt (r.toNat + i) l = BitVec.ofNat 32 (v / 2 ^ (32 * i))) ∧
        (∀ r, d = .o r → regsOf wide = 1 → y.oAt r.toNat l = BitVec.ofNat 32 v)) :
    LaneResult e t d wide act f := by
  intro hn l hl hg ha
  obtain ⟨h1, h2⟩ := h hn l hl (by rw [← hw.rest.gw]; exact hg) ha _ rfl
  cases d with
  | v r =>
    cases wide with
    | false =>
      simp only [Bool.false_eq_true, if_false]
      rw [(hw.reads.1 _ _).1, ← ofNat_half]
      exact h1 r rfl 0 (by simp [regsOf])
    | true =>
      simp only [if_true, Group.vPair]
      rw [(hw.reads.1 _ _).1, (hw.reads.1 _ _).1, h1 r rfl 1 (by simp [regsOf])]
      have := h1 r rfl 0 (by simp [regsOf])
      rw [Nat.add_zero] at this
      rw [this, ofNat_halves]
  | o r =>
    have hwide : wide = false := hd
    subst hwide
    refine ⟨rfl, ?_⟩
    rw [(hw.reads.2.2.1 _ _).1, h2 r rfl rfl, ← ofNat_half]
    simp
  | _ => exact hd

/-- A lane-wise instruction completes with its values (R17). -/
theorem laneSpec_of {i : Instr} {h : Hdr} {wide : Bool} {d : Opnd} {f : Group → Nat → DWord}
    (hex : ∀ s, exec i s = issue i s (lanewise h wide d f))
    (hopen : ∀ s e, Issues i s e → destOpen s.g d (regsOf wide) ∧ vDest d wide) (hf : Steady f) : LaneSpec i h wide d f := by
  intro s e hi
  rw [hex, lanewise, issue_plain hi]
  have ho := (beginIssue_open e s d (regsOf wide)).2 (hopen s e hi).1
  obtain ⟨y, hy, hw, hv, -⟩ := wrVec_spec e d (regsOf wide) ((beginIssue e s).g.active h.toGuard)
    (fun l => some (f (beginIssue e s).g l).toNat) (fun _ => false) (beginIssue e s) ho
  rw [beginIssue_active] at hy hw hv
  rw [hf.begin] at hy hv
  refine ⟨_, rfl, ?_, ?_⟩
  · obtain ⟨z, hz, hwz⟩ := seqNext_spec e (wrV e d wide ((beginIssue e s).g.active h.toGuard) (f (beginIssue e s).g) (beginIssue e s))
    rw [hz]
    rw [beginIssue_active, hf.begin] at hwz
    unfold wrV at hwz
    rw [hy] at hwz
    exact laneResult_of (hopen s e hi).2 (t := { wrV e d wide ((beginIssue e s).g.active h.toGuard) (f (beginIssue e s).g) (beginIssue e s) with g := z }) hwz
      (by intro h1 l h2 h3; exact hv h1 l h2 (by rw [← hw.rest.gw]; exact h3))
  · refine regFrame_of (F := fun s => wrV e d wide (s.g.active h.toGuard) (f s.g) s) ⟨y, ?_, hw.rest, hw.sameRegs, by rw [hw.flags]; simp⟩
    dsimp only
    rw [beginIssue_active, hf.begin]
    exact hy

/-- An instruction with a uniform result completes with its value (R17). -/
theorem uniSpec_of {i : Instr} {h : Hdr} {wide : Bool} {d : Opnd} {v : Group → DWord}
    (hex : ∀ s, exec i s = issue i s (uni h wide d v))
    (hopen : ∀ s e, Issues i s e → destOpen s.g d (regsOf wide) ∧ gDest d) (hf : Steady v) : UniSpec i h wide d v := by
  intro s e hi
  rw [hex, uni, issue_plain hi]
  have ho := (beginIssue_open e s d (regsOf wide)).2 (hopen s e hi).1
  obtain ⟨y, hy, hw, hv⟩ := wrG_spec e d wide ((beginIssue e s).g.active h.toGuard) (v (beginIssue e s).g)
    (beginIssue e s) ho
  refine ⟨_, rfl, ?_, ?_⟩
  · intro hn ha
    have ha' : (beginIssue e s).g.active h.toGuard ≠ 0 := by rw [beginIssue_active]; exact ha
    have h1 := hv hn ha'
    cases d with
    | g r =>
      have h1 := h1 r rfl
      rw [hf.begin] at h1
      obtain ⟨z, hz, hwz⟩ := seqNext_spec e (wrG e (.g r) wide ((beginIssue e s).g.active h.toGuard)
        (v (beginIssue e s).g) (beginIssue e s))
      rw [hz]
      rw [hy] at hwz
      simp only [Group.gPair, (hwz.reads.2.1 _).1]
      exact h1
    | zero => trivial
    | _ => exact (hopen s e hi).2
  · refine regFrame_of (F := fun s => wrG e d wide (s.g.active h.toGuard) (v s.g) s)
      ⟨y, hy, hw.rest, ?_, by rw [hw.flags]; simp⟩
    have := hw.sameRegs
    rw [beginIssue_active] at this
    exact this

/-- An instruction with a predicate result completes with it (R14, R17). -/
theorem predSpec_of {i : Instr} {h : Hdr} {d : Opnd} {f : Group → Nat → Bool}
    (hex : ∀ s, exec i s = issue i s (predwise h d f)) (hopen : ∀ s e, Issues i s e → pDest d) (hf : Steady f) : PredSpec i h d f := by
  intro s e hi
  rw [hex, predwise, issue_plain hi]
  obtain ⟨y, hy, hw, hv⟩ := wrP_spec e d ((beginIssue e s).g.active h.toGuard) (f (beginIssue e s).g) (beginIssue e s)
  refine ⟨_, rfl, ?_, ?_⟩
  · intro hn l hl hg ha
    obtain ⟨z, hz, hwz⟩ := seqNext_spec e (wrP e d ((beginIssue e s).g.active h.toGuard) (f (beginIssue e s).g)
      (beginIssue e s))
    rw [hz] at hg ⊢
    rw [hy] at hwz
    rw [beginIssue_active, hf.begin] at hv
    cases d with
    | p n =>
      dsimp only
      rw [hwz.reads.2.2.2]
      exact hv hn l hl (by rw [← hw.rest.gw, ← hwz.rest.gw]; exact hg) ha n rfl
    | _ => exact hopen s e hi
  · refine regFrame_of (F := fun s => wrP e d (s.g.active h.toGuard) (f s.g) s)
      ⟨y, hy, hw.rest, ?_, by rw [hw.flags]; simp⟩
    have := hw.sameRegs
    rw [beginIssue_active] at this
    exact this

/-- Raising flags changes the flags alone. -/
theorem raiseFlags_spec (fl : Flags) (s : State) :
    raiseFlags fl s = { s with g := { s.g with fflags := s.g.fflags ||| fl } } := rfl

/-- A file with flags raised. -/
def withFlags (y : Group) (fl : Flags) : Group := { y with fflags := y.fflags ||| fl }

/-- A lane-wise floating-point instruction completes with its values and flags (R17, R103). -/
theorem fpSpec_of {i : Instr} {h : Hdr} {wide : Bool} {d : Opnd} {f : Group → Nat → FR}
    (hex : ∀ s, exec i s = issue i s (plain fun e s => wrFp e d wide (s.g.active h.toGuard) (f s.g) s))
    (hopen : ∀ s e, Issues i s e → destOpen s.g d (regsOf wide) ∧ vDest d wide) (hf : Steady f) : FpSpec i h wide d f := by
  intro s e hi
  rw [hex, issue_plain hi]
  have ho := (beginIssue_open e s d (regsOf wide)).2 (hopen s e hi).1
  obtain ⟨y, hy, hw, hv, -⟩ := wrVec_spec e d (regsOf wide) ((beginIssue e s).g.active h.toGuard)
    (fun l => some (BitVec.ofNat 64 (f (beginIssue e s).g l).x).toNat) (fun _ => false) (beginIssue e s) ho
  have hF : wrFp e d wide ((beginIssue e s).g.active h.toGuard) (f (beginIssue e s).g) (beginIssue e s) =
      { beginIssue e s with g := withFlags y (lanesFlags ((beginIssue e s).g.active h.toGuard)
        (fun l => (f (beginIssue e s).g l).fl) (beginIssue e s).g.gw) } := by
    unfold wrFp raiseFlags onG wrV withFlags
    rw [hy]
  refine ⟨_, rfl, ?_, ?_⟩
  · obtain ⟨z, hz, hwz⟩ := seqNext_spec e (wrFp e d wide ((beginIssue e s).g.active h.toGuard) (f (beginIssue e s).g)
      (beginIssue e s))
    rw [hz]
    rw [hF] at hwz
    rw [beginIssue_active, hf.begin] at hv
    refine laneResult_of (hopen s e hi).2 (y := withFlags y _) (t := { wrFp e d wide
        ((beginIssue e s).g.active h.toGuard) (f (beginIssue e s).g) (beginIssue e s) with g := z }) hwz ?_
    intro h1 l h2 h3
    exact hv h1 l h2 (by rw [← hw.rest.gw]; exact h3)
  · refine regFrame_of (F := fun s => wrFp e d wide (s.g.active h.toGuard) (f s.g) s) ⟨_, hF, ?_, ?_, ?_⟩
    · exact hw.rest.trans rfl
    · have := hw.sameRegs
      rw [beginIssue_active] at this
      exact this
    · dsimp only [withFlags]
      rw [hw.flags, beginIssue_active, hf.begin, beginIssue_gw]

/-- A body that changes the group in focus alone: completion, what the group is at the end, and the frame. -/
theorem plain_done {i : Instr} {s : State} {e : Enc} {F : Enc → State → State} {y : Group} {ks : List Nat} {act : Mask}
    {fl : Flags} (hi : Issues i s e) (hex : exec i s = issue i s (plain F))
    (hF : F e (beginIssue e s) = { beginIssue e s with g := y }) (hr : SameRest (beginIssue e s).g y)
    (hg : SameRegs (beginIssue e s).g y ks act) (hf : y.fflags = s.g.fflags ||| fl) :
    ∃ t, exec i s = .next t ∧ Walked y t.g ∧ t.g.pend = y.pend ∧ RegFrame s t ks act fl := by
  rw [hex, issue_plain hi]
  obtain ⟨z, hz, hw⟩ := seqNext_spec e (F e (beginIssue e s))
  refine ⟨_, rfl, ?_, ?_, regFrame_of (F := F e) ⟨y, hF, hr, hg, ?_⟩⟩
  · rw [hz]; rw [hF] at hw; exact hw
  · rw [hz]
    rw [hF] at hw
    obtain ⟨stk, hw⟩ := hw
    rw [hw]
    unfold Group.setStk Group.onBank
    cases y.sh <;> rfl
  · obtain ⟨p, a, c, d, f, g, h, wd, we, ev, ob, fr, tl, wq, hb, hq⟩ := beginIssue_spec e s
    rw [hf, hb]

/-- What a value for a lane leaves in D, or that the lane keeps its value. -/
theorem laneResultOpt_of {e : Enc} {d : Opnd} {wide : Bool} {act : Mask} {f : Nat → Option DWord} {s t : State} {y : Group}
    (hd : vDest d wide) (hgw : y.gw = s.g.gw) (hw : Walked y t.g)
    (h : nwb e = false → ∀ l, l < 64 → l < s.g.gw → act.getLsbD l = true → ∀ v, (f l).map BitVec.toNat = some v →
        (∀ r, d = .v r → ∀ i, i < regsOf wide → y.vAt (r.toNat + i) l = BitVec.ofNat 32 (v / 2 ^ (32 * i))) ∧
        (∀ r, d = .o r → regsOf wide = 1 → y.oAt r.toNat l = BitVec.ofNat 32 v))
    (hk : ∀ l, l < 64 → l < s.g.gw → (f l).map BitVec.toNat = none → ∀ k, k < 335 → uniformKey k = false →
        regVal y k l = regVal s.g k l)
    (hv : ∀ r, d = .v r → r.toNat + regsOf wide ≤ 256) :
    LaneResultOpt e s t d wide act f := by
  intro hn l hl hg ha
  have hg' : l < s.g.gw := by rw [← hgw, ← hw.rest.gw]; exact hg
  cases hf : f l with
  | some v =>
    obtain ⟨h1, h2⟩ := h hn l hl hg' ha _ (by rw [hf]; rfl)
    cases d with
    | v r =>
      cases wide with
      | false =>
        simp only [Bool.false_eq_true, if_false, Option.map_some, Option.getD_some]
        rw [(hw.reads.1 _ _).1, ← ofNat_half]
        exact h1 r rfl 0 (by simp [regsOf])
      | true =>
        simp only [if_true, Group.vPair, Option.getD_some]
        rw [(hw.reads.1 _ _).1, (hw.reads.1 _ _).1, h1 r rfl 1 (by simp [regsOf])]
        have := h1 r rfl 0 (by simp [regsOf])
        rw [Nat.add_zero] at this
        rw [this, ofNat_halves]
    | o r =>
      have hwide : wide = false := hd
      subst hwide
      refine ⟨rfl, ?_⟩
      simp only [Option.map_some, Option.getD_some]
      rw [(hw.reads.2.2.1 _ _).1, h2 r rfl rfl, ← ofNat_half]
      simp
    | _ => exact hd
  | none =>
    have keep := hk l hl hg' (by rw [hf]; rfl)
    have kv (r : Nat) (hr : r < 256) : y.vAt r l = s.g.vAt r l := by
      have := keep r (by omega) (by simp [uniformKey]; omega)
      simp only [regVal, hr, if_true] at this
      exact congrArg Prod.fst this
    cases d with
    | v r =>
      have hr := hv r rfl
      cases wide with
      | false =>
        simp only [Bool.false_eq_true, if_false, Option.map_none, Option.getD_none]
        rw [(hw.reads.1 _ _).1]
        exact kv _ (by simp only [regsOf, Bool.false_eq_true, if_false] at hr; omega)
      | true =>
        simp only [if_true, Group.vPair, Option.getD_none]
        simp only [regsOf, if_true] at hr
        rw [(hw.reads.1 _ _).1, (hw.reads.1 _ _).1, kv _ (by omega), kv _ (by omega)]
    | o r =>
      have hwide : wide = false := hd
      subst hwide
      refine ⟨rfl, ?_⟩
      simp only [Option.map_none, Option.getD_none]
      rw [(hw.reads.2.2.1 _ _).1]
      have := keep (320 + r.toNat) (by have := r.isLt; omega) (by simp [uniformKey])
      rw [regVal_o, regVal_o] at this
      exact congrArg Prod.fst this
    | _ => exact hd

theorem beginIssue_regVal (e : Enc) (s : State) (k l : Nat) : regVal (beginIssue e s).g k l = regVal s.g k l := by
  obtain ⟨p, a, c, d, f, g, h, wd, we, ev, ob, fr, tl, wq, hb, hq⟩ := beginIssue_spec e s
  rw [hb]; rfl

theorem beginIssue_fflags (e : Enc) (s : State) : (beginIssue e s).g.fflags = s.g.fflags := by
  obtain ⟨p, a, c, d, f, g, h, wd, we, ev, ob, fr, tl, wq, hb, hq⟩ := beginIssue_spec e s
  rw [hb]

/-- A pair or single register that fits. -/
theorem vFits_of {i : Instr} {s : State} {e : Enc} {acc : Acc} {w : Width} {dir : Dir} {d : Opnd} {wide : Bool}
    (h : Issues i s e) (hr : (rowOf e.w.opc).map Row.d = some (.op acc w dir)) (hs : e.w.d = encSpec d)
    (hc : e.count w = regsOf wide) (ha : e.align w = regsOf wide) : ∀ r, d = .v r → r.toNat + regsOf wide ≤ 256 := by
  rintro r rfl
  have h2 := (dest_takes h hr hs).2
  rw [ha] at h2
  have := r.isLt
  cases wide with
  | false => simp only [regsOf, Bool.false_eq_true, if_false]; omega
  | true =>
    simp only [regsOf, if_true] at h2 ⊢
    have h2 : r.toNat % 2 = 0 := of_decide_eq_true h2
    omega

/-- A lane-wise result that may leave lanes as they are completes with it (R175). -/
theorem laneOptSpec_of {i : Instr} {h : Hdr} {wide : Bool} {d : Opnd} {f : Group → Nat → Option DWord}
    (hex : ∀ s, exec i s = issue i s (plain fun e s => wrVec e d (regsOf wide) (s.g.active h.toGuard)
      (fun l => (f s.g l).map BitVec.toNat) (fun _ => false) s))
    (hopen : ∀ s e, Issues i s e → (destOpen s.g d (regsOf wide) ∧ vDest d wide) ∧ ∀ r, d = .v r → r.toNat + regsOf wide ≤ 256)
    (hf : Steady f) : LaneOptSpec i h wide d f := by
  intro s e hi
  have ho := (beginIssue_open e s d (regsOf wide)).2 (hopen s e hi).1.1
  obtain ⟨y, hy, hw, hv, hk⟩ := wrVec_spec e d (regsOf wide) ((beginIssue e s).g.active h.toGuard)
    (fun l => (f (beginIssue e s).g l).map BitVec.toNat) (fun _ => false) (beginIssue e s) ho
  obtain ⟨t, h1, h2, -, h3⟩ := plain_done hi (hex s) hy hw.rest hw.sameRegs (fl := 0)
    (by rw [hw.flags, beginIssue_fflags]; simp)
  rw [beginIssue_active] at hv h3
  rw [hf.begin, beginIssue_gw] at hv hk
  refine ⟨t, h1, laneResultOpt_of (hopen s e hi).1.2 (by rw [hw.rest.gw, beginIssue_gw]) h2 hv ?_ (hopen s e hi).2, h3⟩
  intro l hl hg hn k hk' hu
  rw [hk l hl hg hn k hk' hu, beginIssue_regVal]

/-- A special-function instruction completes with its value and one more queued result (R155). -/
theorem queueSpec_of {i : Instr} {h : Hdr} {wide : Bool} {d : Opnd} {f : Group → Nat → FR}
    (hex : ∀ s, exec i s = issue i s (plain fun e s =>
      if s.g.active h.toGuard = 0 then wrFp e d wide (s.g.active h.toGuard) (f s.g) s
      else onG (fun y => { y with pend := y.pend ++ [⟨true, pendKeys e d (regsOf wide) s.g.runPos⟩] })
        (wrFp e d wide (s.g.active h.toGuard) (f s.g) s)))
    (hopen : ∀ s e, Issues i s e → destOpen s.g d (regsOf wide) ∧ vDest d wide) (hf : Steady f) : QueueSpec i h wide d f := by
  intro s e hi
  have ho := (beginIssue_open e s d (regsOf wide)).2 (hopen s e hi).1
  obtain ⟨y, hy, hw, hv, -⟩ := wrVec_spec e d (regsOf wide) ((beginIssue e s).g.active h.toGuard)
    (fun l => some (BitVec.ofNat 64 (f (beginIssue e s).g l).x).toNat) (fun _ => false) (beginIssue e s) ho
  have hF : wrFp e d wide ((beginIssue e s).g.active h.toGuard) (f (beginIssue e s).g) (beginIssue e s) =
      { beginIssue e s with g := withFlags y (lanesFlags ((beginIssue e s).g.active h.toGuard)
        (fun l => (f (beginIssue e s).g l).fl) (beginIssue e s).g.gw) } := by
    unfold wrFp raiseFlags onG wrV withFlags
    rw [hy]
  have fin (ps : List Pend) (F : Enc → State → State) (hex' : exec i s = issue i s (plain F))
      (hF' : F e (beginIssue e s) = { beginIssue e s with g := { withFlags y (lanesFlags
        ((beginIssue e s).g.active h.toGuard) (fun l => (f (beginIssue e s).g l).fl) (beginIssue e s).g.gw) with pend := ps } }) :
      ∃ t, exec i s = .next t ∧ LaneResult e t d wide (s.g.active h.toGuard) (fun l => BitVec.ofNat 64 (f s.g l).x) ∧
        t.g.pend = ps ∧ RegFrame s t (destKeys e d (regsOf wide) (s.g.active h.toGuard)) (s.g.active h.toGuard)
          (lanesFlags (s.g.active h.toGuard) (fun l => (f s.g l).fl) s.g.gw) := by
    obtain ⟨t, h1, h2, h3, h4⟩ := plain_done hi hex' hF' (ks := destKeys e d (regsOf wide) (s.g.active h.toGuard))
      (act := s.g.active h.toGuard) (fl := lanesFlags (s.g.active h.toGuard) (fun l => (f s.g l).fl) s.g.gw)
      (hw.rest.trans rfl) (by have := hw.sameRegs; rw [beginIssue_active] at this; exact this)
      (by dsimp only [withFlags]; rw [hw.flags, beginIssue_active, hf.begin, beginIssue_gw, beginIssue_fflags])
    rw [beginIssue_active, hf.begin] at hv
    exact ⟨t, h1, laneResult_of (hopen s e hi).2 h2 (fun a l b c => hv a l b (by rw [← hw.rest.gw]; exact c)), h3, h4⟩
  have ha : ∀ e, (beginIssue e s).g.active h.toGuard = s.g.active h.toGuard := fun e => beginIssue_active e s _
  by_cases hz : s.g.active h.toGuard = 0
  · obtain ⟨t, h1, h2, -, h4⟩ := fin y.pend _ (hex s) (by dsimp only; rw [if_pos (by rw [ha, hz]), hF]; rfl)
    exact ⟨t, h1, h2, h4, fun h => absurd hz h⟩
  · obtain ⟨t, h1, h2, h3, h4⟩ := fin (y.pend ++ [⟨true, pendKeys e d (regsOf wide) s.g.runPos⟩]) _ (hex s)
      (by dsimp only; rw [if_neg (by rw [ha]; exact hz), hF, beginIssue_runPos]; rfl)
    exact ⟨t, h1, h2, h4, fun _ => by rw [h3]; simp⟩

/-- A predicate result with flags. -/
theorem predFlagSpec_of {i : Instr} {h : Hdr} {d : Opnd} {f : Group → Nat → Bool × Flags}
    (hex : ∀ s, exec i s = issue i s (plain fun e s =>
      raiseFlags (lanesFlags (s.g.active h.toGuard) (fun l => (f s.g l).2) s.g.gw)
        (wrP e d (s.g.active h.toGuard) (fun l => (f s.g l).1) s)))
    (hopen : ∀ s e, Issues i s e → pDest d) (hf : Steady f) : PredFlagSpec i h d f := by
  intro s e hi
  obtain ⟨y, hy, hw, hv⟩ := wrP_spec e d ((beginIssue e s).g.active h.toGuard) (fun l => (f (beginIssue e s).g l).1)
    (beginIssue e s)
  obtain ⟨t, h1, h2, -, h3⟩ := plain_done hi (hex s)
    (y := withFlags y (lanesFlags ((beginIssue e s).g.active h.toGuard) (fun l => (f (beginIssue e s).g l).2)
      (beginIssue e s).g.gw)) (by dsimp only; rw [hy]; rfl) (ks := destKeys e d 1 (s.g.active h.toGuard))
    (act := s.g.active h.toGuard) (fl := lanesFlags (s.g.active h.toGuard) (fun l => (f s.g l).2) s.g.gw)
    (hw.rest.trans rfl) (by have := hw.sameRegs; rw [beginIssue_active] at this; exact this)
    (by dsimp only [withFlags]; rw [hw.flags, beginIssue_active, hf.begin, beginIssue_gw, beginIssue_fflags])
  refine ⟨t, h1, fun hn l hl hg ha => ?_, h3⟩
  rw [beginIssue_active, hf.begin, beginIssue_gw] at hv
  have hg : l < s.g.gw := by rw [← beginIssue_gw e s, ← hw.rest.gw]; rw [h2.rest.gw] at hg; exact hg
  cases d with
  | p n => dsimp only; rw [h2.reads.2.2.2]; exact hv hn l hl hg ha n rfl
  | _ => exact hopen s e hi

end Sys2Proof.Machine
end

