-- ==== Sys2Proof/Laws/State.lean ====
section
/-!
SUPPORT. What each named update of the state leaves in each field: one lemma a field, true by unfolding, so that no proof
unfolds a record update.
-/
namespace Sys2Proof.Machine

/-! ### `onG` -/

@[simp] theorem onG_agenda (f : Group → Group) (s : State) : (onG f s).agenda = s.agenda := rfl
@[simp] theorem onG_fresh (f : Group → Group) (s : State) : (onG f s).fresh = s.fresh := rfl
@[simp] theorem onG_nextUid (f : Group → Group) (s : State) : (onG f s).nextUid = s.nextUid := rfl
@[simp] theorem onG_tick (f : Group → Group) (s : State) : (onG f s).tick = s.tick := rfl
@[simp] theorem onG_g (f : Group → Group) (s : State) : (onG f s).g = f s.g := rfl
@[simp] theorem onG_gs (f : Group → Group) (s : State) : (onG f s).gs = s.gs := rfl
@[simp] theorem onG_t (f : Group → Group) (s : State) : (onG f s).t = s.t := rfl
@[simp] theorem onG_ts (f : Group → Group) (s : State) : (onG f s).ts = s.ts := rfl
@[simp] theorem onG_mem (f : Group → Group) (s : State) : (onG f s).mem = s.mem := rfl
@[simp] theorem onG_tlb (f : Group → Group) (s : State) : (onG f s).tlb = s.tlb := rfl
@[simp] theorem onG_l1 (f : Group → Group) (s : State) : (onG f s).l1 = s.l1 := rfl
@[simp] theorem onG_l2 (f : Group → Group) (s : State) : (onG f s).l2 = s.l2 := rfl
@[simp] theorem onG_heldCr (f : Group → Group) (s : State) : (onG f s).heldCr = s.heldCr := rfl
@[simp] theorem onG_ops (f : Group → Group) (s : State) : (onG f s).ops = s.ops := rfl
@[simp] theorem onG_mons (f : Group → Group) (s : State) : (onG f s).mons = s.mons := rfl
@[simp] theorem onG_gens (f : Group → Group) (s : State) : (onG f s).gens = s.gens := rfl
@[simp] theorem onG_inst (f : Group → Group) (s : State) : (onG f s).inst = s.inst := rfl
@[simp] theorem onG_queries (f : Group → Group) (s : State) : (onG f s).queries = s.queries := rfl
@[simp] theorem onG_qseq (f : Group → Group) (s : State) : (onG f s).qseq = s.qseq := rfl
@[simp] theorem onG_subs (f : Group → Group) (s : State) : (onG f s).subs = s.subs := rfl
@[simp] theorem onG_ready (f : Group → Group) (s : State) : (onG f s).ready = s.ready := rfl
@[simp] theorem onG_runs (f : Group → Group) (s : State) : (onG f s).runs = s.runs := rfl
@[simp] theorem onG_launches (f : Group → Group) (s : State) : (onG f s).launches = s.launches := rfl
@[simp] theorem onG_ways (f : Group → Group) (s : State) : (onG f s).ways = s.ways := rfl
@[simp] theorem onG_lineSig (f : Group → Group) (s : State) : (onG f s).lineSig = s.lineSig := rfl
@[simp] theorem onG_fns (f : Group → Group) (s : State) : (onG f s).fns = s.fns := rfl
@[simp] theorem onG_evc (f : Group → Group) (s : State) : (onG f s).evc = s.evc := rfl
@[simp] theorem onG_obs (f : Group → Group) (s : State) : (onG f s).obs = s.obs := rfl
@[simp] theorem onG_elig (f : Group → Group) (s : State) : (onG f s).elig = s.elig := rfl
@[simp] theorem onG_stall (f : Group → Group) (s : State) : (onG f s).stall = s.stall := rfl
@[simp] theorem onG_wdog (f : Group → Group) (s : State) : (onG f s).wdog = s.wdog := rfl
@[simp] theorem onG_wext (f : Group → Group) (s : State) : (onG f s).wext = s.wext := rfl
@[simp] theorem onG_trLost (f : Group → Group) (s : State) : (onG f s).trLost = s.trLost := rfl
@[simp] theorem onG_wpq (f : Group → Group) (s : State) : (onG f s).wpq = s.wpq := rfl
@[simp] theorem onG_slices (f : Group → Group) (s : State) : (onG f s).slices = s.slices := rfl
@[simp] theorem onG_keyOwner (f : Group → Group) (s : State) : (onG f s).keyOwner = s.keyOwner := rfl
@[simp] theorem onG_keyShare (f : Group → Group) (s : State) : (onG f s).keyShare = s.keyShare := rfl
@[simp] theorem onG_keyGen (f : Group → Group) (s : State) : (onG f s).keyGen = s.keyGen := rfl
@[simp] theorem onG_pm (f : Group → Group) (s : State) : (onG f s).pm = s.pm := rfl
@[simp] theorem onG_rst (f : Group → Group) (s : State) : (onG f s).rst = s.rst := rfl
@[simp] theorem onG_shedLast (f : Group → Group) (s : State) : (onG f s).shedLast = s.shedLast := rfl
@[simp] theorem onG_pool (f : Group → Group) (s : State) : (onG f s).pool = s.pool := rfl
@[simp] theorem onG_period (f : Group → Group) (s : State) : (onG f s).period = s.period := rfl
@[simp] theorem onG_boundary (f : Group → Group) (s : State) : (onG f s).boundary = s.boundary := rfl
@[simp] theorem onG_leases (f : Group → Group) (s : State) : (onG f s).leases = s.leases := rfl
@[simp] theorem onG_elastics (f : Group → Group) (s : State) : (onG f s).elastics = s.elastics := rfl
@[simp] theorem onG_claims (f : Group → Group) (s : State) : (onG f s).claims = s.claims := rfl
@[simp] theorem onG_lanes (f : Group → Group) (s : State) : (onG f s).lanes = s.lanes := rfl
@[simp] theorem onG_boot (f : Group → Group) (s : State) : (onG f s).boot = s.boot := rfl
@[simp] theorem onG_fw (f : Group → Group) (s : State) : (onG f s).fw = s.fw := rfl
@[simp] theorem onG_own (f : Group → Group) (s : State) : (onG f s).own = s.own := rfl
@[simp] theorem onG_ports (f : Group → Group) (s : State) : (onG f s).ports = s.ports := rfl
@[simp] theorem onG_fabId (f : Group → Group) (s : State) : (onG f s).fabId = s.fabId := rfl
@[simp] theorem onG_fabPeer (f : Group → Group) (s : State) : (onG f s).fabPeer = s.fabPeer := rfl
@[simp] theorem onG_tel (f : Group → Group) (s : State) : (onG f s).tel = s.tel := rfl
@[simp] theorem onG_life (f : Group → Group) (s : State) : (onG f s).life = s.life := rfl
@[simp] theorem onG_dump (f : Group → Group) (s : State) : (onG f s).dump = s.dump := rfl

/-! ### `mapGroups` -/

@[simp] theorem mapGroups_agenda (f : Group → Group) (s : State) : (mapGroups f s).agenda = s.agenda := rfl
@[simp] theorem mapGroups_fresh (f : Group → Group) (s : State) : (mapGroups f s).fresh = s.fresh := rfl
@[simp] theorem mapGroups_nextUid (f : Group → Group) (s : State) : (mapGroups f s).nextUid = s.nextUid := rfl
@[simp] theorem mapGroups_tick (f : Group → Group) (s : State) : (mapGroups f s).tick = s.tick := rfl
@[simp] theorem mapGroups_g (f : Group → Group) (s : State) : (mapGroups f s).g = f s.g := rfl
@[simp] theorem mapGroups_gs (f : Group → Group) (s : State) : (mapGroups f s).gs = s.gs.map f := rfl
@[simp] theorem mapGroups_t (f : Group → Group) (s : State) : (mapGroups f s).t = s.t := rfl
@[simp] theorem mapGroups_ts (f : Group → Group) (s : State) : (mapGroups f s).ts = s.ts := rfl
@[simp] theorem mapGroups_mem (f : Group → Group) (s : State) : (mapGroups f s).mem = s.mem := rfl
@[simp] theorem mapGroups_tlb (f : Group → Group) (s : State) : (mapGroups f s).tlb = s.tlb := rfl
@[simp] theorem mapGroups_l1 (f : Group → Group) (s : State) : (mapGroups f s).l1 = s.l1 := rfl
@[simp] theorem mapGroups_l2 (f : Group → Group) (s : State) : (mapGroups f s).l2 = s.l2 := rfl
@[simp] theorem mapGroups_heldCr (f : Group → Group) (s : State) : (mapGroups f s).heldCr = s.heldCr := rfl
@[simp] theorem mapGroups_ops (f : Group → Group) (s : State) : (mapGroups f s).ops = s.ops := rfl
@[simp] theorem mapGroups_mons (f : Group → Group) (s : State) : (mapGroups f s).mons = s.mons := rfl
@[simp] theorem mapGroups_gens (f : Group → Group) (s : State) : (mapGroups f s).gens = s.gens := rfl
@[simp] theorem mapGroups_inst (f : Group → Group) (s : State) : (mapGroups f s).inst = s.inst := rfl
@[simp] theorem mapGroups_queries (f : Group → Group) (s : State) : (mapGroups f s).queries = s.queries := rfl
@[simp] theorem mapGroups_qseq (f : Group → Group) (s : State) : (mapGroups f s).qseq = s.qseq := rfl
@[simp] theorem mapGroups_subs (f : Group → Group) (s : State) : (mapGroups f s).subs = s.subs := rfl
@[simp] theorem mapGroups_ready (f : Group → Group) (s : State) : (mapGroups f s).ready = s.ready := rfl
@[simp] theorem mapGroups_runs (f : Group → Group) (s : State) : (mapGroups f s).runs = s.runs := rfl
@[simp] theorem mapGroups_launches (f : Group → Group) (s : State) : (mapGroups f s).launches = s.launches := rfl
@[simp] theorem mapGroups_ways (f : Group → Group) (s : State) : (mapGroups f s).ways = s.ways := rfl
@[simp] theorem mapGroups_lineSig (f : Group → Group) (s : State) : (mapGroups f s).lineSig = s.lineSig := rfl
@[simp] theorem mapGroups_fns (f : Group → Group) (s : State) : (mapGroups f s).fns = s.fns := rfl
@[simp] theorem mapGroups_evc (f : Group → Group) (s : State) : (mapGroups f s).evc = s.evc := rfl
@[simp] theorem mapGroups_obs (f : Group → Group) (s : State) : (mapGroups f s).obs = s.obs := rfl
@[simp] theorem mapGroups_elig (f : Group → Group) (s : State) : (mapGroups f s).elig = s.elig := rfl
@[simp] theorem mapGroups_stall (f : Group → Group) (s : State) : (mapGroups f s).stall = s.stall := rfl
@[simp] theorem mapGroups_wdog (f : Group → Group) (s : State) : (mapGroups f s).wdog = s.wdog := rfl
@[simp] theorem mapGroups_wext (f : Group → Group) (s : State) : (mapGroups f s).wext = s.wext := rfl
@[simp] theorem mapGroups_trLost (f : Group → Group) (s : State) : (mapGroups f s).trLost = s.trLost := rfl
@[simp] theorem mapGroups_wpq (f : Group → Group) (s : State) : (mapGroups f s).wpq = s.wpq := rfl
@[simp] theorem mapGroups_slices (f : Group → Group) (s : State) : (mapGroups f s).slices = s.slices := rfl
@[simp] theorem mapGroups_keyOwner (f : Group → Group) (s : State) : (mapGroups f s).keyOwner = s.keyOwner := rfl
@[simp] theorem mapGroups_keyShare (f : Group → Group) (s : State) : (mapGroups f s).keyShare = s.keyShare := rfl
@[simp] theorem mapGroups_keyGen (f : Group → Group) (s : State) : (mapGroups f s).keyGen = s.keyGen := rfl
@[simp] theorem mapGroups_pm (f : Group → Group) (s : State) : (mapGroups f s).pm = s.pm := rfl
@[simp] theorem mapGroups_rst (f : Group → Group) (s : State) : (mapGroups f s).rst = s.rst := rfl
@[simp] theorem mapGroups_shedLast (f : Group → Group) (s : State) : (mapGroups f s).shedLast = s.shedLast := rfl
@[simp] theorem mapGroups_pool (f : Group → Group) (s : State) : (mapGroups f s).pool = s.pool := rfl
@[simp] theorem mapGroups_period (f : Group → Group) (s : State) : (mapGroups f s).period = s.period := rfl
@[simp] theorem mapGroups_boundary (f : Group → Group) (s : State) : (mapGroups f s).boundary = s.boundary := rfl
@[simp] theorem mapGroups_leases (f : Group → Group) (s : State) : (mapGroups f s).leases = s.leases := rfl
@[simp] theorem mapGroups_elastics (f : Group → Group) (s : State) : (mapGroups f s).elastics = s.elastics := rfl
@[simp] theorem mapGroups_claims (f : Group → Group) (s : State) : (mapGroups f s).claims = s.claims := rfl
@[simp] theorem mapGroups_lanes (f : Group → Group) (s : State) : (mapGroups f s).lanes = s.lanes := rfl
@[simp] theorem mapGroups_boot (f : Group → Group) (s : State) : (mapGroups f s).boot = s.boot := rfl
@[simp] theorem mapGroups_fw (f : Group → Group) (s : State) : (mapGroups f s).fw = s.fw := rfl
@[simp] theorem mapGroups_own (f : Group → Group) (s : State) : (mapGroups f s).own = s.own := rfl
@[simp] theorem mapGroups_ports (f : Group → Group) (s : State) : (mapGroups f s).ports = s.ports := rfl
@[simp] theorem mapGroups_fabId (f : Group → Group) (s : State) : (mapGroups f s).fabId = s.fabId := rfl
@[simp] theorem mapGroups_fabPeer (f : Group → Group) (s : State) : (mapGroups f s).fabPeer = s.fabPeer := rfl
@[simp] theorem mapGroups_tel (f : Group → Group) (s : State) : (mapGroups f s).tel = s.tel := rfl
@[simp] theorem mapGroups_life (f : Group → Group) (s : State) : (mapGroups f s).life = s.life := rfl
@[simp] theorem mapGroups_dump (f : Group → Group) (s : State) : (mapGroups f s).dump = s.dump := rfl

/-! ### `updGroup` -/

@[simp] theorem updGroup_agenda (u : Nat) (f : Group → Group) (s : State) : (updGroup u f s).agenda = s.agenda := rfl
@[simp] theorem updGroup_fresh (u : Nat) (f : Group → Group) (s : State) : (updGroup u f s).fresh = s.fresh := rfl
@[simp] theorem updGroup_nextUid (u : Nat) (f : Group → Group) (s : State) : (updGroup u f s).nextUid = s.nextUid := rfl
@[simp] theorem updGroup_tick (u : Nat) (f : Group → Group) (s : State) : (updGroup u f s).tick = s.tick := rfl
@[simp] theorem updGroup_g (u : Nat) (f : Group → Group) (s : State) : (updGroup u f s).g = if s.g.uid = u then f s.g else s.g := rfl
@[simp] theorem updGroup_gs (u : Nat) (f : Group → Group) (s : State) : (updGroup u f s).gs = s.gs.map fun x => if x.uid = u then f x else x := rfl
@[simp] theorem updGroup_t (u : Nat) (f : Group → Group) (s : State) : (updGroup u f s).t = s.t := rfl
@[simp] theorem updGroup_ts (u : Nat) (f : Group → Group) (s : State) : (updGroup u f s).ts = s.ts := rfl
@[simp] theorem updGroup_mem (u : Nat) (f : Group → Group) (s : State) : (updGroup u f s).mem = s.mem := rfl
@[simp] theorem updGroup_tlb (u : Nat) (f : Group → Group) (s : State) : (updGroup u f s).tlb = s.tlb := rfl
@[simp] theorem updGroup_l1 (u : Nat) (f : Group → Group) (s : State) : (updGroup u f s).l1 = s.l1 := rfl
@[simp] theorem updGroup_l2 (u : Nat) (f : Group → Group) (s : State) : (updGroup u f s).l2 = s.l2 := rfl
@[simp] theorem updGroup_heldCr (u : Nat) (f : Group → Group) (s : State) : (updGroup u f s).heldCr = s.heldCr := rfl
@[simp] theorem updGroup_ops (u : Nat) (f : Group → Group) (s : State) : (updGroup u f s).ops = s.ops := rfl
@[simp] theorem updGroup_mons (u : Nat) (f : Group → Group) (s : State) : (updGroup u f s).mons = s.mons := rfl
@[simp] theorem updGroup_gens (u : Nat) (f : Group → Group) (s : State) : (updGroup u f s).gens = s.gens := rfl
@[simp] theorem updGroup_inst (u : Nat) (f : Group → Group) (s : State) : (updGroup u f s).inst = s.inst := rfl
@[simp] theorem updGroup_queries (u : Nat) (f : Group → Group) (s : State) : (updGroup u f s).queries = s.queries := rfl
@[simp] theorem updGroup_qseq (u : Nat) (f : Group → Group) (s : State) : (updGroup u f s).qseq = s.qseq := rfl
@[simp] theorem updGroup_subs (u : Nat) (f : Group → Group) (s : State) : (updGroup u f s).subs = s.subs := rfl
@[simp] theorem updGroup_ready (u : Nat) (f : Group → Group) (s : State) : (updGroup u f s).ready = s.ready := rfl
@[simp] theorem updGroup_runs (u : Nat) (f : Group → Group) (s : State) : (updGroup u f s).runs = s.runs := rfl
@[simp] theorem updGroup_launches (u : Nat) (f : Group → Group) (s : State) : (updGroup u f s).launches = s.launches := rfl
@[simp] theorem updGroup_ways (u : Nat) (f : Group → Group) (s : State) : (updGroup u f s).ways = s.ways := rfl
@[simp] theorem updGroup_lineSig (u : Nat) (f : Group → Group) (s : State) : (updGroup u f s).lineSig = s.lineSig := rfl
@[simp] theorem updGroup_fns (u : Nat) (f : Group → Group) (s : State) : (updGroup u f s).fns = s.fns := rfl
@[simp] theorem updGroup_evc (u : Nat) (f : Group → Group) (s : State) : (updGroup u f s).evc = s.evc := rfl
@[simp] theorem updGroup_obs (u : Nat) (f : Group → Group) (s : State) : (updGroup u f s).obs = s.obs := rfl
@[simp] theorem updGroup_elig (u : Nat) (f : Group → Group) (s : State) : (updGroup u f s).elig = s.elig := rfl
@[simp] theorem updGroup_stall (u : Nat) (f : Group → Group) (s : State) : (updGroup u f s).stall = s.stall := rfl
@[simp] theorem updGroup_wdog (u : Nat) (f : Group → Group) (s : State) : (updGroup u f s).wdog = s.wdog := rfl
@[simp] theorem updGroup_wext (u : Nat) (f : Group → Group) (s : State) : (updGroup u f s).wext = s.wext := rfl
@[simp] theorem updGroup_trLost (u : Nat) (f : Group → Group) (s : State) : (updGroup u f s).trLost = s.trLost := rfl
@[simp] theorem updGroup_wpq (u : Nat) (f : Group → Group) (s : State) : (updGroup u f s).wpq = s.wpq := rfl
@[simp] theorem updGroup_slices (u : Nat) (f : Group → Group) (s : State) : (updGroup u f s).slices = s.slices := rfl
@[simp] theorem updGroup_keyOwner (u : Nat) (f : Group → Group) (s : State) : (updGroup u f s).keyOwner = s.keyOwner := rfl
@[simp] theorem updGroup_keyShare (u : Nat) (f : Group → Group) (s : State) : (updGroup u f s).keyShare = s.keyShare := rfl
@[simp] theorem updGroup_keyGen (u : Nat) (f : Group → Group) (s : State) : (updGroup u f s).keyGen = s.keyGen := rfl
@[simp] theorem updGroup_pm (u : Nat) (f : Group → Group) (s : State) : (updGroup u f s).pm = s.pm := rfl
@[simp] theorem updGroup_rst (u : Nat) (f : Group → Group) (s : State) : (updGroup u f s).rst = s.rst := rfl
@[simp] theorem updGroup_shedLast (u : Nat) (f : Group → Group) (s : State) : (updGroup u f s).shedLast = s.shedLast := rfl
@[simp] theorem updGroup_pool (u : Nat) (f : Group → Group) (s : State) : (updGroup u f s).pool = s.pool := rfl
@[simp] theorem updGroup_period (u : Nat) (f : Group → Group) (s : State) : (updGroup u f s).period = s.period := rfl
@[simp] theorem updGroup_boundary (u : Nat) (f : Group → Group) (s : State) : (updGroup u f s).boundary = s.boundary := rfl
@[simp] theorem updGroup_leases (u : Nat) (f : Group → Group) (s : State) : (updGroup u f s).leases = s.leases := rfl
@[simp] theorem updGroup_elastics (u : Nat) (f : Group → Group) (s : State) : (updGroup u f s).elastics = s.elastics := rfl
@[simp] theorem updGroup_claims (u : Nat) (f : Group → Group) (s : State) : (updGroup u f s).claims = s.claims := rfl
@[simp] theorem updGroup_lanes (u : Nat) (f : Group → Group) (s : State) : (updGroup u f s).lanes = s.lanes := rfl
@[simp] theorem updGroup_boot (u : Nat) (f : Group → Group) (s : State) : (updGroup u f s).boot = s.boot := rfl
@[simp] theorem updGroup_fw (u : Nat) (f : Group → Group) (s : State) : (updGroup u f s).fw = s.fw := rfl
@[simp] theorem updGroup_own (u : Nat) (f : Group → Group) (s : State) : (updGroup u f s).own = s.own := rfl
@[simp] theorem updGroup_ports (u : Nat) (f : Group → Group) (s : State) : (updGroup u f s).ports = s.ports := rfl
@[simp] theorem updGroup_fabId (u : Nat) (f : Group → Group) (s : State) : (updGroup u f s).fabId = s.fabId := rfl
@[simp] theorem updGroup_fabPeer (u : Nat) (f : Group → Group) (s : State) : (updGroup u f s).fabPeer = s.fabPeer := rfl
@[simp] theorem updGroup_tel (u : Nat) (f : Group → Group) (s : State) : (updGroup u f s).tel = s.tel := rfl
@[simp] theorem updGroup_life (u : Nat) (f : Group → Group) (s : State) : (updGroup u f s).life = s.life := rfl
@[simp] theorem updGroup_dump (u : Nat) (f : Group → Group) (s : State) : (updGroup u f s).dump = s.dump := rfl

/-! ### `mapTeams` -/

@[simp] theorem mapTeams_agenda (f : Team → Team) (s : State) : (mapTeams f s).agenda = s.agenda := rfl
@[simp] theorem mapTeams_fresh (f : Team → Team) (s : State) : (mapTeams f s).fresh = s.fresh := rfl
@[simp] theorem mapTeams_nextUid (f : Team → Team) (s : State) : (mapTeams f s).nextUid = s.nextUid := rfl
@[simp] theorem mapTeams_tick (f : Team → Team) (s : State) : (mapTeams f s).tick = s.tick := rfl
@[simp] theorem mapTeams_g (f : Team → Team) (s : State) : (mapTeams f s).g = s.g := rfl
@[simp] theorem mapTeams_gs (f : Team → Team) (s : State) : (mapTeams f s).gs = s.gs := rfl
@[simp] theorem mapTeams_t (f : Team → Team) (s : State) : (mapTeams f s).t = f s.t := rfl
@[simp] theorem mapTeams_ts (f : Team → Team) (s : State) : (mapTeams f s).ts = s.ts.map f := rfl
@[simp] theorem mapTeams_mem (f : Team → Team) (s : State) : (mapTeams f s).mem = s.mem := rfl
@[simp] theorem mapTeams_tlb (f : Team → Team) (s : State) : (mapTeams f s).tlb = s.tlb := rfl
@[simp] theorem mapTeams_l1 (f : Team → Team) (s : State) : (mapTeams f s).l1 = s.l1 := rfl
@[simp] theorem mapTeams_l2 (f : Team → Team) (s : State) : (mapTeams f s).l2 = s.l2 := rfl
@[simp] theorem mapTeams_heldCr (f : Team → Team) (s : State) : (mapTeams f s).heldCr = s.heldCr := rfl
@[simp] theorem mapTeams_ops (f : Team → Team) (s : State) : (mapTeams f s).ops = s.ops := rfl
@[simp] theorem mapTeams_mons (f : Team → Team) (s : State) : (mapTeams f s).mons = s.mons := rfl
@[simp] theorem mapTeams_gens (f : Team → Team) (s : State) : (mapTeams f s).gens = s.gens := rfl
@[simp] theorem mapTeams_inst (f : Team → Team) (s : State) : (mapTeams f s).inst = s.inst := rfl
@[simp] theorem mapTeams_queries (f : Team → Team) (s : State) : (mapTeams f s).queries = s.queries := rfl
@[simp] theorem mapTeams_qseq (f : Team → Team) (s : State) : (mapTeams f s).qseq = s.qseq := rfl
@[simp] theorem mapTeams_subs (f : Team → Team) (s : State) : (mapTeams f s).subs = s.subs := rfl
@[simp] theorem mapTeams_ready (f : Team → Team) (s : State) : (mapTeams f s).ready = s.ready := rfl
@[simp] theorem mapTeams_runs (f : Team → Team) (s : State) : (mapTeams f s).runs = s.runs := rfl
@[simp] theorem mapTeams_launches (f : Team → Team) (s : State) : (mapTeams f s).launches = s.launches := rfl
@[simp] theorem mapTeams_ways (f : Team → Team) (s : State) : (mapTeams f s).ways = s.ways := rfl
@[simp] theorem mapTeams_lineSig (f : Team → Team) (s : State) : (mapTeams f s).lineSig = s.lineSig := rfl
@[simp] theorem mapTeams_fns (f : Team → Team) (s : State) : (mapTeams f s).fns = s.fns := rfl
@[simp] theorem mapTeams_evc (f : Team → Team) (s : State) : (mapTeams f s).evc = s.evc := rfl
@[simp] theorem mapTeams_obs (f : Team → Team) (s : State) : (mapTeams f s).obs = s.obs := rfl
@[simp] theorem mapTeams_elig (f : Team → Team) (s : State) : (mapTeams f s).elig = s.elig := rfl
@[simp] theorem mapTeams_stall (f : Team → Team) (s : State) : (mapTeams f s).stall = s.stall := rfl
@[simp] theorem mapTeams_wdog (f : Team → Team) (s : State) : (mapTeams f s).wdog = s.wdog := rfl
@[simp] theorem mapTeams_wext (f : Team → Team) (s : State) : (mapTeams f s).wext = s.wext := rfl
@[simp] theorem mapTeams_trLost (f : Team → Team) (s : State) : (mapTeams f s).trLost = s.trLost := rfl
@[simp] theorem mapTeams_wpq (f : Team → Team) (s : State) : (mapTeams f s).wpq = s.wpq := rfl
@[simp] theorem mapTeams_slices (f : Team → Team) (s : State) : (mapTeams f s).slices = s.slices := rfl
@[simp] theorem mapTeams_keyOwner (f : Team → Team) (s : State) : (mapTeams f s).keyOwner = s.keyOwner := rfl
@[simp] theorem mapTeams_keyShare (f : Team → Team) (s : State) : (mapTeams f s).keyShare = s.keyShare := rfl
@[simp] theorem mapTeams_keyGen (f : Team → Team) (s : State) : (mapTeams f s).keyGen = s.keyGen := rfl
@[simp] theorem mapTeams_pm (f : Team → Team) (s : State) : (mapTeams f s).pm = s.pm := rfl
@[simp] theorem mapTeams_rst (f : Team → Team) (s : State) : (mapTeams f s).rst = s.rst := rfl
@[simp] theorem mapTeams_shedLast (f : Team → Team) (s : State) : (mapTeams f s).shedLast = s.shedLast := rfl
@[simp] theorem mapTeams_pool (f : Team → Team) (s : State) : (mapTeams f s).pool = s.pool := rfl
@[simp] theorem mapTeams_period (f : Team → Team) (s : State) : (mapTeams f s).period = s.period := rfl
@[simp] theorem mapTeams_boundary (f : Team → Team) (s : State) : (mapTeams f s).boundary = s.boundary := rfl
@[simp] theorem mapTeams_leases (f : Team → Team) (s : State) : (mapTeams f s).leases = s.leases := rfl
@[simp] theorem mapTeams_elastics (f : Team → Team) (s : State) : (mapTeams f s).elastics = s.elastics := rfl
@[simp] theorem mapTeams_claims (f : Team → Team) (s : State) : (mapTeams f s).claims = s.claims := rfl
@[simp] theorem mapTeams_lanes (f : Team → Team) (s : State) : (mapTeams f s).lanes = s.lanes := rfl
@[simp] theorem mapTeams_boot (f : Team → Team) (s : State) : (mapTeams f s).boot = s.boot := rfl
@[simp] theorem mapTeams_fw (f : Team → Team) (s : State) : (mapTeams f s).fw = s.fw := rfl
@[simp] theorem mapTeams_own (f : Team → Team) (s : State) : (mapTeams f s).own = s.own := rfl
@[simp] theorem mapTeams_ports (f : Team → Team) (s : State) : (mapTeams f s).ports = s.ports := rfl
@[simp] theorem mapTeams_fabId (f : Team → Team) (s : State) : (mapTeams f s).fabId = s.fabId := rfl
@[simp] theorem mapTeams_fabPeer (f : Team → Team) (s : State) : (mapTeams f s).fabPeer = s.fabPeer := rfl
@[simp] theorem mapTeams_tel (f : Team → Team) (s : State) : (mapTeams f s).tel = s.tel := rfl
@[simp] theorem mapTeams_life (f : Team → Team) (s : State) : (mapTeams f s).life = s.life := rfl
@[simp] theorem mapTeams_dump (f : Team → Team) (s : State) : (mapTeams f s).dump = s.dump := rfl

/-! ### `updTeam` -/

@[simp] theorem updTeam_agenda (u : Nat) (f : Team → Team) (s : State) : (updTeam u f s).agenda = s.agenda := rfl
@[simp] theorem updTeam_fresh (u : Nat) (f : Team → Team) (s : State) : (updTeam u f s).fresh = s.fresh := rfl
@[simp] theorem updTeam_nextUid (u : Nat) (f : Team → Team) (s : State) : (updTeam u f s).nextUid = s.nextUid := rfl
@[simp] theorem updTeam_tick (u : Nat) (f : Team → Team) (s : State) : (updTeam u f s).tick = s.tick := rfl
@[simp] theorem updTeam_g (u : Nat) (f : Team → Team) (s : State) : (updTeam u f s).g = s.g := rfl
@[simp] theorem updTeam_gs (u : Nat) (f : Team → Team) (s : State) : (updTeam u f s).gs = s.gs := rfl
@[simp] theorem updTeam_t (u : Nat) (f : Team → Team) (s : State) : (updTeam u f s).t = if s.t.uid = u then f s.t else s.t := rfl
@[simp] theorem updTeam_ts (u : Nat) (f : Team → Team) (s : State) : (updTeam u f s).ts = s.ts.map fun x => if x.uid = u then f x else x := rfl
@[simp] theorem updTeam_mem (u : Nat) (f : Team → Team) (s : State) : (updTeam u f s).mem = s.mem := rfl
@[simp] theorem updTeam_tlb (u : Nat) (f : Team → Team) (s : State) : (updTeam u f s).tlb = s.tlb := rfl
@[simp] theorem updTeam_l1 (u : Nat) (f : Team → Team) (s : State) : (updTeam u f s).l1 = s.l1 := rfl
@[simp] theorem updTeam_l2 (u : Nat) (f : Team → Team) (s : State) : (updTeam u f s).l2 = s.l2 := rfl
@[simp] theorem updTeam_heldCr (u : Nat) (f : Team → Team) (s : State) : (updTeam u f s).heldCr = s.heldCr := rfl
@[simp] theorem updTeam_ops (u : Nat) (f : Team → Team) (s : State) : (updTeam u f s).ops = s.ops := rfl
@[simp] theorem updTeam_mons (u : Nat) (f : Team → Team) (s : State) : (updTeam u f s).mons = s.mons := rfl
@[simp] theorem updTeam_gens (u : Nat) (f : Team → Team) (s : State) : (updTeam u f s).gens = s.gens := rfl
@[simp] theorem updTeam_inst (u : Nat) (f : Team → Team) (s : State) : (updTeam u f s).inst = s.inst := rfl
@[simp] theorem updTeam_queries (u : Nat) (f : Team → Team) (s : State) : (updTeam u f s).queries = s.queries := rfl
@[simp] theorem updTeam_qseq (u : Nat) (f : Team → Team) (s : State) : (updTeam u f s).qseq = s.qseq := rfl
@[simp] theorem updTeam_subs (u : Nat) (f : Team → Team) (s : State) : (updTeam u f s).subs = s.subs := rfl
@[simp] theorem updTeam_ready (u : Nat) (f : Team → Team) (s : State) : (updTeam u f s).ready = s.ready := rfl
@[simp] theorem updTeam_runs (u : Nat) (f : Team → Team) (s : State) : (updTeam u f s).runs = s.runs := rfl
@[simp] theorem updTeam_launches (u : Nat) (f : Team → Team) (s : State) : (updTeam u f s).launches = s.launches := rfl
@[simp] theorem updTeam_ways (u : Nat) (f : Team → Team) (s : State) : (updTeam u f s).ways = s.ways := rfl
@[simp] theorem updTeam_lineSig (u : Nat) (f : Team → Team) (s : State) : (updTeam u f s).lineSig = s.lineSig := rfl
@[simp] theorem updTeam_fns (u : Nat) (f : Team → Team) (s : State) : (updTeam u f s).fns = s.fns := rfl
@[simp] theorem updTeam_evc (u : Nat) (f : Team → Team) (s : State) : (updTeam u f s).evc = s.evc := rfl
@[simp] theorem updTeam_obs (u : Nat) (f : Team → Team) (s : State) : (updTeam u f s).obs = s.obs := rfl
@[simp] theorem updTeam_elig (u : Nat) (f : Team → Team) (s : State) : (updTeam u f s).elig = s.elig := rfl
@[simp] theorem updTeam_stall (u : Nat) (f : Team → Team) (s : State) : (updTeam u f s).stall = s.stall := rfl
@[simp] theorem updTeam_wdog (u : Nat) (f : Team → Team) (s : State) : (updTeam u f s).wdog = s.wdog := rfl
@[simp] theorem updTeam_wext (u : Nat) (f : Team → Team) (s : State) : (updTeam u f s).wext = s.wext := rfl
@[simp] theorem updTeam_trLost (u : Nat) (f : Team → Team) (s : State) : (updTeam u f s).trLost = s.trLost := rfl
@[simp] theorem updTeam_wpq (u : Nat) (f : Team → Team) (s : State) : (updTeam u f s).wpq = s.wpq := rfl
@[simp] theorem updTeam_slices (u : Nat) (f : Team → Team) (s : State) : (updTeam u f s).slices = s.slices := rfl
@[simp] theorem updTeam_keyOwner (u : Nat) (f : Team → Team) (s : State) : (updTeam u f s).keyOwner = s.keyOwner := rfl
@[simp] theorem updTeam_keyShare (u : Nat) (f : Team → Team) (s : State) : (updTeam u f s).keyShare = s.keyShare := rfl
@[simp] theorem updTeam_keyGen (u : Nat) (f : Team → Team) (s : State) : (updTeam u f s).keyGen = s.keyGen := rfl
@[simp] theorem updTeam_pm (u : Nat) (f : Team → Team) (s : State) : (updTeam u f s).pm = s.pm := rfl
@[simp] theorem updTeam_rst (u : Nat) (f : Team → Team) (s : State) : (updTeam u f s).rst = s.rst := rfl
@[simp] theorem updTeam_shedLast (u : Nat) (f : Team → Team) (s : State) : (updTeam u f s).shedLast = s.shedLast := rfl
@[simp] theorem updTeam_pool (u : Nat) (f : Team → Team) (s : State) : (updTeam u f s).pool = s.pool := rfl
@[simp] theorem updTeam_period (u : Nat) (f : Team → Team) (s : State) : (updTeam u f s).period = s.period := rfl
@[simp] theorem updTeam_boundary (u : Nat) (f : Team → Team) (s : State) : (updTeam u f s).boundary = s.boundary := rfl
@[simp] theorem updTeam_leases (u : Nat) (f : Team → Team) (s : State) : (updTeam u f s).leases = s.leases := rfl
@[simp] theorem updTeam_elastics (u : Nat) (f : Team → Team) (s : State) : (updTeam u f s).elastics = s.elastics := rfl
@[simp] theorem updTeam_claims (u : Nat) (f : Team → Team) (s : State) : (updTeam u f s).claims = s.claims := rfl
@[simp] theorem updTeam_lanes (u : Nat) (f : Team → Team) (s : State) : (updTeam u f s).lanes = s.lanes := rfl
@[simp] theorem updTeam_boot (u : Nat) (f : Team → Team) (s : State) : (updTeam u f s).boot = s.boot := rfl
@[simp] theorem updTeam_fw (u : Nat) (f : Team → Team) (s : State) : (updTeam u f s).fw = s.fw := rfl
@[simp] theorem updTeam_own (u : Nat) (f : Team → Team) (s : State) : (updTeam u f s).own = s.own := rfl
@[simp] theorem updTeam_ports (u : Nat) (f : Team → Team) (s : State) : (updTeam u f s).ports = s.ports := rfl
@[simp] theorem updTeam_fabId (u : Nat) (f : Team → Team) (s : State) : (updTeam u f s).fabId = s.fabId := rfl
@[simp] theorem updTeam_fabPeer (u : Nat) (f : Team → Team) (s : State) : (updTeam u f s).fabPeer = s.fabPeer := rfl
@[simp] theorem updTeam_tel (u : Nat) (f : Team → Team) (s : State) : (updTeam u f s).tel = s.tel := rfl
@[simp] theorem updTeam_life (u : Nat) (f : Team → Team) (s : State) : (updTeam u f s).life = s.life := rfl
@[simp] theorem updTeam_dump (u : Nat) (f : Team → Team) (s : State) : (updTeam u f s).dump = s.dump := rfl

/-! ### `updFn` -/

@[simp] theorem updFn_agenda (n : Nat) (f : Fn → Fn) (s : State) : (updFn n f s).agenda = s.agenda := rfl
@[simp] theorem updFn_fresh (n : Nat) (f : Fn → Fn) (s : State) : (updFn n f s).fresh = s.fresh := rfl
@[simp] theorem updFn_nextUid (n : Nat) (f : Fn → Fn) (s : State) : (updFn n f s).nextUid = s.nextUid := rfl
@[simp] theorem updFn_tick (n : Nat) (f : Fn → Fn) (s : State) : (updFn n f s).tick = s.tick := rfl
@[simp] theorem updFn_g (n : Nat) (f : Fn → Fn) (s : State) : (updFn n f s).g = s.g := rfl
@[simp] theorem updFn_gs (n : Nat) (f : Fn → Fn) (s : State) : (updFn n f s).gs = s.gs := rfl
@[simp] theorem updFn_t (n : Nat) (f : Fn → Fn) (s : State) : (updFn n f s).t = s.t := rfl
@[simp] theorem updFn_ts (n : Nat) (f : Fn → Fn) (s : State) : (updFn n f s).ts = s.ts := rfl
@[simp] theorem updFn_mem (n : Nat) (f : Fn → Fn) (s : State) : (updFn n f s).mem = s.mem := rfl
@[simp] theorem updFn_tlb (n : Nat) (f : Fn → Fn) (s : State) : (updFn n f s).tlb = s.tlb := rfl
@[simp] theorem updFn_l1 (n : Nat) (f : Fn → Fn) (s : State) : (updFn n f s).l1 = s.l1 := rfl
@[simp] theorem updFn_l2 (n : Nat) (f : Fn → Fn) (s : State) : (updFn n f s).l2 = s.l2 := rfl
@[simp] theorem updFn_heldCr (n : Nat) (f : Fn → Fn) (s : State) : (updFn n f s).heldCr = s.heldCr := rfl
@[simp] theorem updFn_ops (n : Nat) (f : Fn → Fn) (s : State) : (updFn n f s).ops = s.ops := rfl
@[simp] theorem updFn_mons (n : Nat) (f : Fn → Fn) (s : State) : (updFn n f s).mons = s.mons := rfl
@[simp] theorem updFn_gens (n : Nat) (f : Fn → Fn) (s : State) : (updFn n f s).gens = s.gens := rfl
@[simp] theorem updFn_inst (n : Nat) (f : Fn → Fn) (s : State) : (updFn n f s).inst = s.inst := rfl
@[simp] theorem updFn_queries (n : Nat) (f : Fn → Fn) (s : State) : (updFn n f s).queries = s.queries := rfl
@[simp] theorem updFn_qseq (n : Nat) (f : Fn → Fn) (s : State) : (updFn n f s).qseq = s.qseq := rfl
@[simp] theorem updFn_subs (n : Nat) (f : Fn → Fn) (s : State) : (updFn n f s).subs = s.subs := rfl
@[simp] theorem updFn_ready (n : Nat) (f : Fn → Fn) (s : State) : (updFn n f s).ready = s.ready := rfl
@[simp] theorem updFn_runs (n : Nat) (f : Fn → Fn) (s : State) : (updFn n f s).runs = s.runs := rfl
@[simp] theorem updFn_launches (n : Nat) (f : Fn → Fn) (s : State) : (updFn n f s).launches = s.launches := rfl
@[simp] theorem updFn_ways (n : Nat) (f : Fn → Fn) (s : State) : (updFn n f s).ways = s.ways := rfl
@[simp] theorem updFn_lineSig (n : Nat) (f : Fn → Fn) (s : State) : (updFn n f s).lineSig = s.lineSig := rfl
@[simp] theorem updFn_fns (n : Nat) (f : Fn → Fn) (s : State) : (updFn n f s).fns = modAt s.fns n f := rfl
@[simp] theorem updFn_evc (n : Nat) (f : Fn → Fn) (s : State) : (updFn n f s).evc = s.evc := rfl
@[simp] theorem updFn_obs (n : Nat) (f : Fn → Fn) (s : State) : (updFn n f s).obs = s.obs := rfl
@[simp] theorem updFn_elig (n : Nat) (f : Fn → Fn) (s : State) : (updFn n f s).elig = s.elig := rfl
@[simp] theorem updFn_stall (n : Nat) (f : Fn → Fn) (s : State) : (updFn n f s).stall = s.stall := rfl
@[simp] theorem updFn_wdog (n : Nat) (f : Fn → Fn) (s : State) : (updFn n f s).wdog = s.wdog := rfl
@[simp] theorem updFn_wext (n : Nat) (f : Fn → Fn) (s : State) : (updFn n f s).wext = s.wext := rfl
@[simp] theorem updFn_trLost (n : Nat) (f : Fn → Fn) (s : State) : (updFn n f s).trLost = s.trLost := rfl
@[simp] theorem updFn_wpq (n : Nat) (f : Fn → Fn) (s : State) : (updFn n f s).wpq = s.wpq := rfl
@[simp] theorem updFn_slices (n : Nat) (f : Fn → Fn) (s : State) : (updFn n f s).slices = s.slices := rfl
@[simp] theorem updFn_keyOwner (n : Nat) (f : Fn → Fn) (s : State) : (updFn n f s).keyOwner = s.keyOwner := rfl
@[simp] theorem updFn_keyShare (n : Nat) (f : Fn → Fn) (s : State) : (updFn n f s).keyShare = s.keyShare := rfl
@[simp] theorem updFn_keyGen (n : Nat) (f : Fn → Fn) (s : State) : (updFn n f s).keyGen = s.keyGen := rfl
@[simp] theorem updFn_pm (n : Nat) (f : Fn → Fn) (s : State) : (updFn n f s).pm = s.pm := rfl
@[simp] theorem updFn_rst (n : Nat) (f : Fn → Fn) (s : State) : (updFn n f s).rst = s.rst := rfl
@[simp] theorem updFn_shedLast (n : Nat) (f : Fn → Fn) (s : State) : (updFn n f s).shedLast = s.shedLast := rfl
@[simp] theorem updFn_pool (n : Nat) (f : Fn → Fn) (s : State) : (updFn n f s).pool = s.pool := rfl
@[simp] theorem updFn_period (n : Nat) (f : Fn → Fn) (s : State) : (updFn n f s).period = s.period := rfl
@[simp] theorem updFn_boundary (n : Nat) (f : Fn → Fn) (s : State) : (updFn n f s).boundary = s.boundary := rfl
@[simp] theorem updFn_leases (n : Nat) (f : Fn → Fn) (s : State) : (updFn n f s).leases = s.leases := rfl
@[simp] theorem updFn_elastics (n : Nat) (f : Fn → Fn) (s : State) : (updFn n f s).elastics = s.elastics := rfl
@[simp] theorem updFn_claims (n : Nat) (f : Fn → Fn) (s : State) : (updFn n f s).claims = s.claims := rfl
@[simp] theorem updFn_lanes (n : Nat) (f : Fn → Fn) (s : State) : (updFn n f s).lanes = s.lanes := rfl
@[simp] theorem updFn_boot (n : Nat) (f : Fn → Fn) (s : State) : (updFn n f s).boot = s.boot := rfl
@[simp] theorem updFn_fw (n : Nat) (f : Fn → Fn) (s : State) : (updFn n f s).fw = s.fw := rfl
@[simp] theorem updFn_own (n : Nat) (f : Fn → Fn) (s : State) : (updFn n f s).own = s.own := rfl
@[simp] theorem updFn_ports (n : Nat) (f : Fn → Fn) (s : State) : (updFn n f s).ports = s.ports := rfl
@[simp] theorem updFn_fabId (n : Nat) (f : Fn → Fn) (s : State) : (updFn n f s).fabId = s.fabId := rfl
@[simp] theorem updFn_fabPeer (n : Nat) (f : Fn → Fn) (s : State) : (updFn n f s).fabPeer = s.fabPeer := rfl
@[simp] theorem updFn_tel (n : Nat) (f : Fn → Fn) (s : State) : (updFn n f s).tel = s.tel := rfl
@[simp] theorem updFn_life (n : Nat) (f : Fn → Fn) (s : State) : (updFn n f s).life = s.life := rfl
@[simp] theorem updFn_dump (n : Nat) (f : Fn → Fn) (s : State) : (updFn n f s).dump = s.dump := rfl

/-! ### `updSlice` -/

@[simp] theorem updSlice_agenda (n : Nat) (f : Slice → Slice) (s : State) : (updSlice n f s).agenda = s.agenda := rfl
@[simp] theorem updSlice_fresh (n : Nat) (f : Slice → Slice) (s : State) : (updSlice n f s).fresh = s.fresh := rfl
@[simp] theorem updSlice_nextUid (n : Nat) (f : Slice → Slice) (s : State) : (updSlice n f s).nextUid = s.nextUid := rfl
@[simp] theorem updSlice_tick (n : Nat) (f : Slice → Slice) (s : State) : (updSlice n f s).tick = s.tick := rfl
@[simp] theorem updSlice_g (n : Nat) (f : Slice → Slice) (s : State) : (updSlice n f s).g = s.g := rfl
@[simp] theorem updSlice_gs (n : Nat) (f : Slice → Slice) (s : State) : (updSlice n f s).gs = s.gs := rfl
@[simp] theorem updSlice_t (n : Nat) (f : Slice → Slice) (s : State) : (updSlice n f s).t = s.t := rfl
@[simp] theorem updSlice_ts (n : Nat) (f : Slice → Slice) (s : State) : (updSlice n f s).ts = s.ts := rfl
@[simp] theorem updSlice_mem (n : Nat) (f : Slice → Slice) (s : State) : (updSlice n f s).mem = s.mem := rfl
@[simp] theorem updSlice_tlb (n : Nat) (f : Slice → Slice) (s : State) : (updSlice n f s).tlb = s.tlb := rfl
@[simp] theorem updSlice_l1 (n : Nat) (f : Slice → Slice) (s : State) : (updSlice n f s).l1 = s.l1 := rfl
@[simp] theorem updSlice_l2 (n : Nat) (f : Slice → Slice) (s : State) : (updSlice n f s).l2 = s.l2 := rfl
@[simp] theorem updSlice_heldCr (n : Nat) (f : Slice → Slice) (s : State) : (updSlice n f s).heldCr = s.heldCr := rfl
@[simp] theorem updSlice_ops (n : Nat) (f : Slice → Slice) (s : State) : (updSlice n f s).ops = s.ops := rfl
@[simp] theorem updSlice_mons (n : Nat) (f : Slice → Slice) (s : State) : (updSlice n f s).mons = s.mons := rfl
@[simp] theorem updSlice_gens (n : Nat) (f : Slice → Slice) (s : State) : (updSlice n f s).gens = s.gens := rfl
@[simp] theorem updSlice_inst (n : Nat) (f : Slice → Slice) (s : State) : (updSlice n f s).inst = s.inst := rfl
@[simp] theorem updSlice_queries (n : Nat) (f : Slice → Slice) (s : State) : (updSlice n f s).queries = s.queries := rfl
@[simp] theorem updSlice_qseq (n : Nat) (f : Slice → Slice) (s : State) : (updSlice n f s).qseq = s.qseq := rfl
@[simp] theorem updSlice_subs (n : Nat) (f : Slice → Slice) (s : State) : (updSlice n f s).subs = s.subs := rfl
@[simp] theorem updSlice_ready (n : Nat) (f : Slice → Slice) (s : State) : (updSlice n f s).ready = s.ready := rfl
@[simp] theorem updSlice_runs (n : Nat) (f : Slice → Slice) (s : State) : (updSlice n f s).runs = s.runs := rfl
@[simp] theorem updSlice_launches (n : Nat) (f : Slice → Slice) (s : State) : (updSlice n f s).launches = s.launches := rfl
@[simp] theorem updSlice_ways (n : Nat) (f : Slice → Slice) (s : State) : (updSlice n f s).ways = s.ways := rfl
@[simp] theorem updSlice_lineSig (n : Nat) (f : Slice → Slice) (s : State) : (updSlice n f s).lineSig = s.lineSig := rfl
@[simp] theorem updSlice_fns (n : Nat) (f : Slice → Slice) (s : State) : (updSlice n f s).fns = s.fns := rfl
@[simp] theorem updSlice_evc (n : Nat) (f : Slice → Slice) (s : State) : (updSlice n f s).evc = s.evc := rfl
@[simp] theorem updSlice_obs (n : Nat) (f : Slice → Slice) (s : State) : (updSlice n f s).obs = s.obs := rfl
@[simp] theorem updSlice_elig (n : Nat) (f : Slice → Slice) (s : State) : (updSlice n f s).elig = s.elig := rfl
@[simp] theorem updSlice_stall (n : Nat) (f : Slice → Slice) (s : State) : (updSlice n f s).stall = s.stall := rfl
@[simp] theorem updSlice_wdog (n : Nat) (f : Slice → Slice) (s : State) : (updSlice n f s).wdog = s.wdog := rfl
@[simp] theorem updSlice_wext (n : Nat) (f : Slice → Slice) (s : State) : (updSlice n f s).wext = s.wext := rfl
@[simp] theorem updSlice_trLost (n : Nat) (f : Slice → Slice) (s : State) : (updSlice n f s).trLost = s.trLost := rfl
@[simp] theorem updSlice_wpq (n : Nat) (f : Slice → Slice) (s : State) : (updSlice n f s).wpq = s.wpq := rfl
@[simp] theorem updSlice_slices (n : Nat) (f : Slice → Slice) (s : State) : (updSlice n f s).slices = modAt s.slices n f := rfl
@[simp] theorem updSlice_keyOwner (n : Nat) (f : Slice → Slice) (s : State) : (updSlice n f s).keyOwner = s.keyOwner := rfl
@[simp] theorem updSlice_keyShare (n : Nat) (f : Slice → Slice) (s : State) : (updSlice n f s).keyShare = s.keyShare := rfl
@[simp] theorem updSlice_keyGen (n : Nat) (f : Slice → Slice) (s : State) : (updSlice n f s).keyGen = s.keyGen := rfl
@[simp] theorem updSlice_pm (n : Nat) (f : Slice → Slice) (s : State) : (updSlice n f s).pm = s.pm := rfl
@[simp] theorem updSlice_rst (n : Nat) (f : Slice → Slice) (s : State) : (updSlice n f s).rst = s.rst := rfl
@[simp] theorem updSlice_shedLast (n : Nat) (f : Slice → Slice) (s : State) : (updSlice n f s).shedLast = s.shedLast := rfl
@[simp] theorem updSlice_pool (n : Nat) (f : Slice → Slice) (s : State) : (updSlice n f s).pool = s.pool := rfl
@[simp] theorem updSlice_period (n : Nat) (f : Slice → Slice) (s : State) : (updSlice n f s).period = s.period := rfl
@[simp] theorem updSlice_boundary (n : Nat) (f : Slice → Slice) (s : State) : (updSlice n f s).boundary = s.boundary := rfl
@[simp] theorem updSlice_leases (n : Nat) (f : Slice → Slice) (s : State) : (updSlice n f s).leases = s.leases := rfl
@[simp] theorem updSlice_elastics (n : Nat) (f : Slice → Slice) (s : State) : (updSlice n f s).elastics = s.elastics := rfl
@[simp] theorem updSlice_claims (n : Nat) (f : Slice → Slice) (s : State) : (updSlice n f s).claims = s.claims := rfl
@[simp] theorem updSlice_lanes (n : Nat) (f : Slice → Slice) (s : State) : (updSlice n f s).lanes = s.lanes := rfl
@[simp] theorem updSlice_boot (n : Nat) (f : Slice → Slice) (s : State) : (updSlice n f s).boot = s.boot := rfl
@[simp] theorem updSlice_fw (n : Nat) (f : Slice → Slice) (s : State) : (updSlice n f s).fw = s.fw := rfl
@[simp] theorem updSlice_own (n : Nat) (f : Slice → Slice) (s : State) : (updSlice n f s).own = s.own := rfl
@[simp] theorem updSlice_ports (n : Nat) (f : Slice → Slice) (s : State) : (updSlice n f s).ports = s.ports := rfl
@[simp] theorem updSlice_fabId (n : Nat) (f : Slice → Slice) (s : State) : (updSlice n f s).fabId = s.fabId := rfl
@[simp] theorem updSlice_fabPeer (n : Nat) (f : Slice → Slice) (s : State) : (updSlice n f s).fabPeer = s.fabPeer := rfl
@[simp] theorem updSlice_tel (n : Nat) (f : Slice → Slice) (s : State) : (updSlice n f s).tel = s.tel := rfl
@[simp] theorem updSlice_life (n : Nat) (f : Slice → Slice) (s : State) : (updSlice n f s).life = s.life := rfl
@[simp] theorem updSlice_dump (n : Nat) (f : Slice → Slice) (s : State) : (updSlice n f s).dump = s.dump := rfl

/-! ### `bump` -/

@[simp] theorem bump_agenda (s : State) : (bump s).agenda = s.agenda := rfl
@[simp] theorem bump_fresh (s : State) : (bump s).fresh = s.fresh + 1 := rfl
@[simp] theorem bump_nextUid (s : State) : (bump s).nextUid = s.nextUid := rfl
@[simp] theorem bump_tick (s : State) : (bump s).tick = s.tick := rfl
@[simp] theorem bump_g (s : State) : (bump s).g = s.g := rfl
@[simp] theorem bump_gs (s : State) : (bump s).gs = s.gs := rfl
@[simp] theorem bump_t (s : State) : (bump s).t = s.t := rfl
@[simp] theorem bump_ts (s : State) : (bump s).ts = s.ts := rfl
@[simp] theorem bump_mem (s : State) : (bump s).mem = s.mem := rfl
@[simp] theorem bump_tlb (s : State) : (bump s).tlb = s.tlb := rfl
@[simp] theorem bump_l1 (s : State) : (bump s).l1 = s.l1 := rfl
@[simp] theorem bump_l2 (s : State) : (bump s).l2 = s.l2 := rfl
@[simp] theorem bump_heldCr (s : State) : (bump s).heldCr = s.heldCr := rfl
@[simp] theorem bump_ops (s : State) : (bump s).ops = s.ops := rfl
@[simp] theorem bump_mons (s : State) : (bump s).mons = s.mons := rfl
@[simp] theorem bump_gens (s : State) : (bump s).gens = s.gens := rfl
@[simp] theorem bump_inst (s : State) : (bump s).inst = s.inst := rfl
@[simp] theorem bump_queries (s : State) : (bump s).queries = s.queries := rfl
@[simp] theorem bump_qseq (s : State) : (bump s).qseq = s.qseq := rfl
@[simp] theorem bump_subs (s : State) : (bump s).subs = s.subs := rfl
@[simp] theorem bump_ready (s : State) : (bump s).ready = s.ready := rfl
@[simp] theorem bump_runs (s : State) : (bump s).runs = s.runs := rfl
@[simp] theorem bump_launches (s : State) : (bump s).launches = s.launches := rfl
@[simp] theorem bump_ways (s : State) : (bump s).ways = s.ways := rfl
@[simp] theorem bump_lineSig (s : State) : (bump s).lineSig = s.lineSig := rfl
@[simp] theorem bump_fns (s : State) : (bump s).fns = s.fns := rfl
@[simp] theorem bump_evc (s : State) : (bump s).evc = s.evc := rfl
@[simp] theorem bump_obs (s : State) : (bump s).obs = s.obs := rfl
@[simp] theorem bump_elig (s : State) : (bump s).elig = s.elig := rfl
@[simp] theorem bump_stall (s : State) : (bump s).stall = s.stall := rfl
@[simp] theorem bump_wdog (s : State) : (bump s).wdog = s.wdog := rfl
@[simp] theorem bump_wext (s : State) : (bump s).wext = s.wext := rfl
@[simp] theorem bump_trLost (s : State) : (bump s).trLost = s.trLost := rfl
@[simp] theorem bump_wpq (s : State) : (bump s).wpq = s.wpq := rfl
@[simp] theorem bump_slices (s : State) : (bump s).slices = s.slices := rfl
@[simp] theorem bump_keyOwner (s : State) : (bump s).keyOwner = s.keyOwner := rfl
@[simp] theorem bump_keyShare (s : State) : (bump s).keyShare = s.keyShare := rfl
@[simp] theorem bump_keyGen (s : State) : (bump s).keyGen = s.keyGen := rfl
@[simp] theorem bump_pm (s : State) : (bump s).pm = s.pm := rfl
@[simp] theorem bump_rst (s : State) : (bump s).rst = s.rst := rfl
@[simp] theorem bump_shedLast (s : State) : (bump s).shedLast = s.shedLast := rfl
@[simp] theorem bump_pool (s : State) : (bump s).pool = s.pool := rfl
@[simp] theorem bump_period (s : State) : (bump s).period = s.period := rfl
@[simp] theorem bump_boundary (s : State) : (bump s).boundary = s.boundary := rfl
@[simp] theorem bump_leases (s : State) : (bump s).leases = s.leases := rfl
@[simp] theorem bump_elastics (s : State) : (bump s).elastics = s.elastics := rfl
@[simp] theorem bump_claims (s : State) : (bump s).claims = s.claims := rfl
@[simp] theorem bump_lanes (s : State) : (bump s).lanes = s.lanes := rfl
@[simp] theorem bump_boot (s : State) : (bump s).boot = s.boot := rfl
@[simp] theorem bump_fw (s : State) : (bump s).fw = s.fw := rfl
@[simp] theorem bump_own (s : State) : (bump s).own = s.own := rfl
@[simp] theorem bump_ports (s : State) : (bump s).ports = s.ports := rfl
@[simp] theorem bump_fabId (s : State) : (bump s).fabId = s.fabId := rfl
@[simp] theorem bump_fabPeer (s : State) : (bump s).fabPeer = s.fabPeer := rfl
@[simp] theorem bump_tel (s : State) : (bump s).tel = s.tel := rfl
@[simp] theorem bump_life (s : State) : (bump s).life = s.life := rfl
@[simp] theorem bump_dump (s : State) : (bump s).dump = s.dump := rfl

end Sys2Proof.Machine
end

