-- ==== Sys2Proof/Tests/Slice0.lean ====
section
/-!
SUPPORT. Tests of the model: the word of every instruction, written out field by field from the encoding tables of the spec
(spec/02 R49–R58, spec/03 R71–R90), decodes to that instruction; each check of the encoding refuses an ill-formed term; and for every
statement with hypotheses a concrete state and operands that meet them together.
-/
namespace Sys2Proof.Tests

-- One theorem after the other: each is checked by a thread of its own otherwise, and their stacks add up.
set_option Elab.async false

open Sys2Proof Sys2Proof.Machine

/-! ### Decoding (R49: fields of word 0; R53: specifiers; R56, R57: longer forms)

A specifier is written as its number: 0x000 + n for vN, 0x100 + n for gN, 0x200 + n for oN, 0x240 + n for hN, 0x280 + n for pN,
0x2C0 zero or unused, 0x2C1 lane, 0x2C2 GW, 0x2C3 the literal, 0x300 + n for an immediate. -/

/-- Word 0 of a 64-bit instruction, unguarded (GP 7), not `.run`, not `.nw`. -/
def w64 (opc mod dst sa sb sc sub : Nat) : Nat :=
  opc * 2 ^ 4 + 7 * 2 ^ 12 + mod * 2 ^ 16 + dst * 2 ^ 20 + sa * 2 ^ 30 + sb * 2 ^ 40 + sc * 2 ^ 50 + sub * 2 ^ 60

/-- The 96-bit form: LEN 1, the literal in bits [95:64]. -/
def w96 (opc mod dst sa sb sc sub lit : Nat) : Nat := w64 opc mod dst sa sb sc sub + 1 + lit * 2 ^ 64

/-- The 128-bit form: LEN 2, the extended words X0 and X1. -/
def w128 (opc mod dst sa sb sc sub x0 x1 : Nat) : Nat := w64 opc mod dst sa sb sc sub + 2 + x0 * 2 ^ 64 + x1 * 2 ^ 96

/-- No guard, no `.run`, no `.nw`. -/
abbrev hdr : Hdr := ⟨⟨7, false⟩, false, false⟩

/-- R83, R58, R50: control and system. -/
theorem test_decode_control :
    decodeTableWord 64 (w64 0x00 0 0x2C0 0x2C0 0x2C0 0x2C0 0) = some (.nop false) ∧
    decodeTableWord 96 (0x01 * 2 ^ 4 + 2 * 2 ^ 12 + 1 + 0xFFFFE * 2 ^ 40 + 0x20 * 2 ^ 64 + 1 * 2 ^ 15 + 1 * 2 ^ 2)
      = some (.bra ⟨⟨2, true⟩, .likely⟩ 0xFFFFE 0x20) ∧
    decodeTableWord 96 (w96 0x02 0 0x2C0 0x104 0x2C0 0x2C0 0 0x30) = some (.brx ⟨⟨7, false⟩, .none⟩ (.g 4) 0x30) ∧
    decodeTableWord 96 (w96 0x03 0 0x106 0x2C0 0x2C0 0x2C0 0 0x40) = some (.call ⟨⟨7, false⟩, .none⟩ (.g 6) 0x40) ∧
    decodeTableWord 64 (w64 0x04 0 0x106 0x104 0x2C0 0x2C0 0 + 3 * 2 ^ 2) = some (.callx ⟨⟨7, false⟩, .uniform⟩ (.g 6) (.g 4)) ∧
    decodeTableWord 64 (w64 0x05 0 0x2C0 0x106 0x2C0 0x2C0 0) = some (.ret ⟨7, false⟩ (.g 6)) ∧
    decodeTableWord 64 (w64 0x06 0 0x2C0 0x2C0 0x2C0 0x2C0 0) = some (.exit ⟨7, false⟩) ∧
    decodeTableWord 64 (w64 0x07 0 0x2C0 0x2C0 0x2C0 0x2C0 0) = some .yield ∧
    decodeTableWord 64 (w64 0x08 0 0x2C0 0x305 0x2C0 0x2C0 0) = some (.trap ⟨7, false⟩ (.imm 5)) ∧
    decodeTableWord 64 (w64 0x09 0 0x2C0 0x2C0 0x2C0 0x2C0 0) = some .eret ∧
    decodeTableWord 64 (w64 0x0A 0 0x2C0 0x2C0 0x2C0 0x2C0 0) = some (.brk hdr) ∧
    decodeTableWord 64 (w64 0x0B 0 0x2C0 0x2C0 0x2C0 0x2C0 0) = some .mhret ∧
    decodeTableWord 64 (w64 0x0C 1 0x108 0x304 0x2C0 0x2C0 0) = some (.sysrd hdr true (.g 8) (.imm 4)) ∧
    decodeTableWord 64 (w64 0x0D 0 0x2C0 0x304 0x108 0x2C0 0) = some (.syswr hdr false (.imm 4) (.g 8)) ∧
    decodeTableWord 64 (w64 0x0E 0 0x108 0x2C0 0x2C0 0x2C0 0) = some (.emrd hdr (.g 8)) ∧
    decodeTableWord 64 (w64 0x0F 0 0x2C0 0x108 0x2C0 0x2C0 0) = some (.emwr ⟨7, false⟩ (.g 8)) :=
  ⟨rfl, rfl, rfl, rfl, rfl, rfl, rfl, rfl, rfl, rfl, rfl, rfl, rfl, rfl, rfl, rfl⟩

/-- R84: uniform integer, the first half. -/
theorem test_decode_uniform_a :
    decodeTableWord 96 (w96 0x10 6 0x104 0x2C3 0x2C0 0x2C0 0 0x80000000) = some (.gmov hdr .i64 (.g 4) (.lit 0x80000000)) ∧
    decodeTableWord 64 (w64 0x11 9 0x104 0x102 0x3FF 0x2C0 0) = some (.gadd hdr .n32 true (.g 4) (.g 2) (.imm 0xFF)) ∧
    decodeTableWord 64 (w64 0x12 0 0x104 0x102 0x103 0x2C0 0) = some (.gsub hdr .i32 false (.g 4) (.g 2) (.g 3)) ∧
    decodeTableWord 64 (w64 0x13 0 0x104 0x102 0x103 0x2C0 0) = some (.gmul hdr .i32 (.g 4) (.g 2) (.g 3)) ∧
    decodeTableWord 64 (w64 0x14 1 0x104 0x102 0x103 0x2C0 0) = some (.gmulh hdr .n32 (.g 4) (.g 2) (.g 3)) ∧
    decodeTableWord 64 (w64 0x15 8 0x104 0x102 0x103 0x105 0) = some (.gmad hdr .i32 true (.g 4) (.g 2) (.g 3) (.g 5)) ∧
    decodeTableWord 64 (w64 0x16 0 0x104 0x102 0x2C2 0x2C0 0) = some (.gand hdr .i32 (.g 4) (.g 2) .gw) ∧
    decodeTableWord 64 (w64 0x17 6 0x104 0x102 0x108 0x2C0 0) = some (.gor hdr .i64 (.g 4) (.g 2) (.g 8)) ∧
    decodeTableWord 64 (w64 0x18 0 0x104 0x102 0x103 0x2C0 0) = some (.gxor hdr .i32 (.g 4) (.g 2) (.g 3)) ∧
    decodeTableWord 64 (w64 0x19 0 0x104 0x102 0x305 0x2C0 0) = some (.gshl hdr .i32 (.g 4) (.g 2) (.imm 5)) ∧
    decodeTableWord 64 (w64 0x1A 0 0x104 0x102 0x305 0x2C0 0) = some (.gshr hdr .i32 (.g 4) (.g 2) (.imm 5)) ∧
    decodeTableWord 64 (w64 0x1B 0 0x104 0x102 0x305 0x2C0 0) = some (.gsar hdr .i32 (.g 4) (.g 2) (.imm 5)) :=
  ⟨rfl, rfl, rfl, rfl, rfl, rfl, rfl, rfl, rfl, rfl, rfl, rfl⟩

/-- R84, R78, R191: uniform integer, the second half, and the uniform memory instructions. -/
theorem test_decode_uniform_b :
    decodeTableWord 64 (w64 0x1C 0 0x104 0x102 0x103 0x2C0 0) = some (.gmin hdr .i32 (.g 4) (.g 2) (.g 3)) ∧
    decodeTableWord 64 (w64 0x1D 1 0x104 0x102 0x103 0x2C0 0) = some (.gmax hdr .n32 (.g 4) (.g 2) (.g 3)) ∧
    decodeTableWord 64 (w64 0x1E 0 0x104 0x102 0x103 0x2C0 5) = some (.gcmp hdr .i32 .ge (.g 4) (.g 2) (.g 3)) ∧
    decodeTableWord 64 (w64 0x1F 0 0x104 0x102 0x103 0x105 0) = some (.gsel hdr .i32 (.g 4) (.g 2) (.g 3) (.g 5)) ∧
    decodeTableWord 64 (w64 0xD0 3 0x104 0x102 0x105 0x2C0 0) = some (.glea hdr 3 (.g 4) (.g 2) (.g 5)) ∧
    decodeTableWord 64 (w64 0xD1 1 0x104 0x102 0x103 0x2C0 0) = some (.gbfx hdr .n32 (.g 4) (.g 2) (.g 3)) ∧
    decodeTableWord 64 (w64 0xD2 0 0x104 0x102 0x103 0x105 0) = some (.gbfi hdr (.g 4) (.g 2) (.g 3) (.g 5)) ∧
    decodeTableWord 64 (w64 0xD3 6 0x104 0x102 0x2C0 0x2C0 0) = some (.gclz hdr .i64 (.g 4) (.g 2)) ∧
    decodeTableWord 64 (w64 0xD4 0 0x104 0x102 0x2C0 0x2C0 0) = some (.gpopc hdr .i32 (.g 4) (.g 2)) ∧
    decodeTableWord 96 (w96 0xD5 4 0x104 0x102 0x2C0 0x2C3 6 0x100)
      = some (.gld hdr .global .strm .b128 (.g 4) (.g 2) .zero (.long 0x100)) ∧
    decodeTableWord 128 (w128 0xD6 0 0x104 0x102 0x105 0x2C0 0xC 3 0x10)
      = some (.gst hdr .global .dflt .b32 (.g 4) (.g 2) (.g 5) (.ext 0x10 (some .slc))) :=
  ⟨rfl, rfl, rfl, rfl, rfl, rfl, rfl, rfl, rfl, rfl, rfl⟩

/-- R85, R75: vector integer. -/
theorem test_decode_integer :
    decodeTableWord 64 (w64 0x20 0xA 0x004 0x001 0x002 0x2C0 0) = some (.add hdr .i16 true (.v 4) (.v 1) (.v 2)) ∧
    decodeTableWord 64 (w64 0x21 1 0x004 0x201 0x242 0x2C0 0) = some (.sub hdr .n32 false (.v 4) (.o 1) (.h 2)) ∧
    decodeTableWord 64 (w64 0x22 3 0x004 0x001 0x002 0x2C0 0) = some (.mul hdr .n16 (.v 4) (.v 1) (.v 2)) ∧
    decodeTableWord 64 (w64 0x23 0 0x004 0x001 0x002 0x2C0 0) = some (.mulh hdr .i32 (.v 4) (.v 1) (.v 2)) ∧
    decodeTableWord 64 (w64 0x24 5 0x004 0x001 0x002 0x003 0) = some (.mad hdr .n8 false (.v 4) (.v 1) (.v 2) (.v 3)) ∧
    decodeTableWord 64 (w64 0x25 0 0x004 0x001 0x2C1 0x2C0 0) = some (.and hdr .i32 (.v 4) (.v 1) .lane) ∧
    decodeTableWord 64 (w64 0x26 6 0x004 0x000 0x002 0x2C0 0) = some (.or hdr .i64 (.v 4) (.v 0) (.v 2)) ∧
    decodeTableWord 64 (w64 0x27 0 0x004 0x001 0x002 0x2C0 0) = some (.xor hdr .i32 (.v 4) (.v 1) (.v 2)) ∧
    decodeTableWord 64 (w64 0x28 0 0x004 0x001 0x304 0x2C0 0) = some (.shl hdr .i32 (.v 4) (.v 1) (.imm 4)) ∧
    decodeTableWord 64 (w64 0x29 0 0x004 0x001 0x304 0x2C0 0) = some (.shr hdr .i32 (.v 4) (.v 1) (.imm 4)) ∧
    decodeTableWord 64 (w64 0x2A 0 0x004 0x001 0x304 0x2C0 0) = some (.sar hdr .i32 (.v 4) (.v 1) (.imm 4)) ∧
    decodeTableWord 64 (w64 0x2B 4 0x004 0x001 0x002 0x2C0 0) = some (.min hdr .i8 (.v 4) (.v 1) (.v 2)) ∧
    decodeTableWord 64 (w64 0x2C 0 0x004 0x001 0x002 0x2C0 0) = some (.max hdr .i32 (.v 4) (.v 1) (.v 2)) ∧
    decodeTableWord 64 (w64 0x2D 8 0x004 0x001 0x2C0 0x2C0 0) = some (.abs hdr .i32 true (.v 4) (.v 1)) ∧
    decodeTableWord 64 (w64 0x2E 0 0x004 0x001 0x002 0x281 0) = some (.sel hdr .i32 (.v 4) (.v 1) (.v 2) (.p 1)) ∧
    decodeTableWord 64 (w64 0x2F 1 0x281 0x001 0x002 0x2C0 2) = some (.cmp hdr .n32 .lt (.p 1) (.v 1) (.v 2)) :=
  ⟨rfl, rfl, rfl, rfl, rfl, rfl, rfl, rfl, rfl, rfl, rfl, rfl, rfl, rfl, rfl, rfl⟩

/-- R85: vector bit field, sums of bytes, predicates and masks. -/
theorem test_decode_bits :
    decodeTableWord 64 (w64 0x30 0 0x004 0x001 0x002 0x2C0 0) = some (.bfx hdr .i32 (.v 4) (.v 1) (.v 2)) ∧
    decodeTableWord 64 (w64 0x31 0 0x004 0x001 0x002 0x003 0) = some (.bfi hdr (.v 4) (.v 1) (.v 2) (.v 3)) ∧
    decodeTableWord 64 (w64 0x32 0 0x004 0x001 0x2C0 0x2C0 0) = some (.clz hdr .i32 (.v 4) (.v 1)) ∧
    decodeTableWord 64 (w64 0x33 6 0x004 0x000 0x2C0 0x2C0 0) = some (.popc hdr .i64 (.v 4) (.v 0)) ∧
    decodeTableWord 64 (w64 0x34 0 0x004 0x001 0x2C0 0x2C0 0) = some (.brev hdr .i32 (.v 4) (.v 1)) ∧
    decodeTableWord 64 (w64 0x35 5 0x004 0x001 0x002 0x003 0) = some (.idp4 hdr false true true (.v 4) (.v 1) (.v 2) (.v 3)) ∧
    decodeTableWord 64 (w64 0x36 5 0x004 0x001 0x002 0x003 0) = some (.sad hdr .n8 (.v 4) (.v 1) (.v 2) (.v 3)) ∧
    decodeTableWord 64 (w64 0x37 1 0x004 0x001 0x002 0x282 0) = some (.addc hdr (.v 4) (.v 1) (.v 2) (.p 2)) ∧
    decodeTableWord 64 (w64 0x38 0 0x281 0x282 0x283 0x2C0 0) = some (.pand hdr (.p 1) (.p 2) (.p 3)) ∧
    decodeTableWord 64 (w64 0x39 0 0x281 0x282 0x283 0x2C0 0) = some (.por hdr (.p 1) (.p 2) (.p 3)) ∧
    decodeTableWord 64 (w64 0x3A 0 0x281 0x282 0x30F 0x2C0 0) = some (.pxor hdr (.p 1) (.p 2) (.imm 15)) ∧
    decodeTableWord 64 (w64 0x3B 0 0x281 0x282 0x2C0 0x2C0 0) = some (.pnot hdr (.p 1) (.p 2)) ∧
    decodeTableWord 64 (w64 0x3C 0 0x281 0x282 0x2C0 0x2C0 0) = some (.vany hdr (.p 1) (.p 2)) ∧
    decodeTableWord 64 (w64 0x3D 0 0x281 0x282 0x2C0 0x2C0 0) = some (.vall hdr (.p 1) (.p 2)) ∧
    decodeTableWord 64 (w64 0x3E 0 0x104 0x282 0x2C0 0x2C0 0) = some (.vbal hdr (.g 4) (.p 2)) ∧
    decodeTableWord 64 (w64 0x3F 0 0x004 0x104 0x2C0 0x2C0 0) = some (.mbcnt hdr (.v 4) (.g 4)) :=
  ⟨rfl, rfl, rfl, rfl, rfl, rfl, rfl, rfl, rfl, rfl, rfl, rfl, rfl, rfl, rfl, rfl⟩

/-- R86, R76–R79: floating point, special functions and conversion. -/
theorem test_decode_float :
    decodeTableWord 64 (w64 0x40 9 0x004 0x000 0x002 0x2C0 5) = some (.fadd hdr .f64 true .rz true false (.v 4) (.v 0) (.v 2)) ∧
    decodeTableWord 64 (w64 0x41 0 0x004 0x001 0x002 0x2C0 8) = some (.fsub hdr .f32 false .rn false true (.v 4) (.v 1) (.v 2)) ∧
    decodeTableWord 64 (w64 0x42 2 0x004 0x001 0x002 0x2C0 2) = some (.fmul hdr .f16 false .rp false false (.v 4) (.v 1) (.v 2)) ∧
    decodeTableWord 64 (w64 0x43 5 0x004 0x001 0x002 0x003 0xB)
      = some (.fma hdr .bf16x2 false .rm false true (.v 4) (.v 1) (.v 2) (.v 3)) ∧
    decodeTableWord 64 (w64 0x44 0 0x004 0x001 0x002 0x2C0 4) = some (.fmin hdr .f32 false true false (.v 4) (.v 1) (.v 2)) ∧
    decodeTableWord 64 (w64 0x45 4 0x004 0x001 0x002 0x2C0 0) = some (.fmax hdr .f16x2 false false false (.v 4) (.v 1) (.v 2)) ∧
    decodeTableWord 64 (w64 0x46 8 0x281 0x001 0x002 0x2C0 13) = some (.fcmp hdr .f32 true .uge (.p 1) (.v 1) (.v 2)) ∧
    decodeTableWord 64 (w64 0x47 3 0x004 0x001 0x2C0 0x2C0 3) = some (.frnd hdr .bf16 .rm (.v 4) (.v 1)) ∧
    decodeTableWord 64 (w64 0x48 0 0x004 0x001 0x2C0 0x2C0 0) = some (.fclass hdr .f32 (.v 4) (.v 1)) ∧
    decodeTableWord 64 (w64 0x49 0 0x004 0x001 0x002 0x2C0 1) = some (.fscl hdr .f32 .rz (.v 4) (.v 1) (.v 2)) ∧
    decodeTableWord 64 (w64 0x4A 4 0x004 0x001 0x002 0x003 0xC)
      = some (.fdp2 hdr .f16x2 .rn true true (.v 4) (.v 1) (.v 2) (.v 3)) ∧
    decodeTableWord 64 (w64 0x50 0 0x004 0x001 0x2C0 0x2C0 1) = some (.rcp hdr .f32 true (.v 4) (.v 1)) ∧
    decodeTableWord 64 (w64 0x51 2 0x004 0x001 0x2C0 0x2C0 0) = some (.rsq hdr .f16 (.v 4) (.v 1)) ∧
    decodeTableWord 64 (w64 0x52 1 0x004 0x000 0x2C0 0x2C0 0) = some (.sqt hdr .f64 false (.v 4) (.v 0)) ∧
    decodeTableWord 64 (w64 0x53 0 0x004 0x001 0x2C0 0x2C0 0) = some (.ex2 hdr .f32 (.v 4) (.v 1)) ∧
    decodeTableWord 64 (w64 0x54 0 0x004 0x001 0x2C0 0x2C0 0) = some (.lg2 hdr .f32 (.v 4) (.v 1)) ∧
    decodeTableWord 64 (w64 0x55 0 0x004 0x001 0x2C0 0x2C0 0) = some (.sin hdr .f32 (.v 4) (.v 1)) ∧
    decodeTableWord 64 (w64 0x56 2 0x004 0x001 0x2C0 0x2C0 0) = some (.cos hdr .f16 (.v 4) (.v 1)) ∧
    decodeTableWord 64 (w64 0x57 3 0x004 0x001 0x2C0 0x2C0 0) = some (.tnh hdr .bf16 (.v 4) (.v 1)) ∧
    decodeTableWord 64 (w64 0x58 11 0x004 0x000 0x2C0 0x306 1) = some (.cvt hdr .n8 .f64 .rp true (.v 4) (.v 0)) ∧
    decodeTableWord 64 (w64 0x59 5 0x004 0x001 0x002 0x301 0) = some (.cvtp hdr .bf16x2 .rz false (.v 4) (.v 1) (.v 2)) ∧
    decodeTableWord 64 (w64 0x5A 5 0x004 0x001 0x002 0x2C0 7) = some (.cvtq hdr true true 3 (.v 4) (.v 1) (.v 2)) :=
  ⟨rfl, rfl, rfl, rfl, rfl, rfl, rfl, rfl, rfl, rfl, rfl, rfl, rfl, rfl, rfl, rfl, rfl, rfl, rfl, rfl, rfl, rfl⟩

/-- R87: lane movement. -/
theorem test_decode_lanes :
    decodeTableWord 64 (w64 0x60 0 0x004 0x001 0x304 0x2C0 2) = some (.shfl hdr .i32 .dn (.v 4) (.v 1) (.imm 4)) ∧
    decodeTableWord 64 (w64 0x61 6 0x104 0x000 0x2C0 0x2C0 0) = some (.rdfl hdr .i64 (.g 4) (.v 0)) ∧
    decodeTableWord 64 (w64 0x62 0 0x104 0x001 0x105 0x2C0 0) = some (.rdln hdr .i32 (.g 4) (.v 1) (.g 5)) ∧
    decodeTableWord 64 (w64 0x63 1 0x104 0x001 0x2C0 0x2C0 2) = some (.lred hdr .n32 .max (.g 4) (.v 1)) ∧
    decodeTableWord 64 (w64 0x64 0 0x004 0x001 0x2C0 0x2C0 14) = some (.scan hdr .i32 .fadd true (.v 4) (.v 1)) ∧
    decodeTableWord 64 (w64 0x65 0 0x004 0x001 0x281 0x105 0) = some (.cmpk hdr .i32 (.v 4) (.v 1) (.p 1) (.g 5)) ∧
    decodeTableWord 64 (w64 0x66 0 0x004 0x001 0x281 0x2C0 0) = some (.expd hdr .i32 (.v 4) (.v 1) (.p 1)) ∧
    decodeTableWord 64 (w64 0x67 0 0x004 0x001 0x002 0x2C0 1) = some (.bperm hdr true (.v 4) (.v 1) (.v 2)) :=
  ⟨rfl, rfl, rfl, rfl, rfl, rfl, rfl, rfl⟩

/-- R80, R81, R191, R195, R196, R200, R222: memory, textures and atomics. -/
theorem test_decode_memory :
    decodeTableWord 64 (w64 0x70 1 0x004 0x102 0x001 0x308 4) = some (.ld hdr .pd .dflt .b32 (.v 4) (.g 2) (.v 1) (.short 8)) ∧
    decodeTableWord 128 (w128 0x70 2 0x004 0x102 0x001 0x2C0 0xC 2 0x20)
      = some (.ld hdr .cl .dflt .b32 (.v 4) (.g 2) (.v 1) (.ext 0x20 (some .clu))) ∧
    decodeTableWord 96 (w96 0x71 8 0x104 0x102 0x2C0 0x2C3 0 0x1000)
      = some (.st hdr .global .nl1 .n8 (.g 4) (.g 2) .zero (.long 0x1000)) ∧
    decodeTableWord 64 (w64 0x72 4 0x2C0 0x102 0x001 0x308 0) = some (.prf hdr true (.g 2) (.v 1) (.short 8)) ∧
    decodeTableWord 128 (w128 0x73 0xF 0x004 0x102 0x008 0x106 1 0x321 0)
      = some (.smp hdr 15 .lod (.v 4) (.g 2) (.v 8) (.g 6) 1 2 3) ∧
    decodeTableWord 64 (w64 0x74 3 0x004 0x102 0x008 0x2C0 0) = some (.tld hdr 3 (.v 4) (.g 2) (.v 8)) ∧
    decodeTableWord 64 (w64 0x80 4 0x004 0x102 0x001 0x002 0) = some (.atm hdr .add .dev false (.v 4) (.g 2) (.v 1) (.v 2) .short) ∧
    decodeTableWord 128 (w128 0x81 0xA 0x2C0 0x102 0x001 0x004 10 0xD 0x40)
      = some (.ared hdr .fadd .clu true (.g 2) (.v 1) (.v 4) (.ext .pd true true 0x40)) ∧
    decodeTableWord 128 (w128 0x82 5 0x004 0x102 0x001 0x002 0 0x1240 0x00ABCDEF)
      = some (.atmc hdr .sys false (.v 4) (.g 2) (.v 1) (.v 2) 0x00ABCDEF00001240) :=
  ⟨rfl, rfl, rfl, rfl, rfl, rfl, rfl, rfl, rfl⟩

/-- R205, R88, R215: synchronisation and copies. -/
theorem test_decode_sync :
    decodeTableWord 64 (w64 0x83 3 0x2C0 0x2C0 0x2C0 0x2C0 2) = some (.fence hdr .rel .slc) ∧
    decodeTableWord 64 (w64 0x84 0 0x2C0 0x310 0x104 0x2C0 0) = some (.bini hdr (.imm 16) (.g 4) .zero) ∧
    decodeTableWord 64 (w64 0x85 1 0x2C0 0x104 0x2C0 0x2C0 0) = some (.arv hdr .team .zero (.g 4)) ∧
    decodeTableWord 96 (w96 0x86 0 0x2C0 0x310 0x2C3 0x2C0 0 0x4000) = some (.xpct hdr (.imm 16) (.lit 0x4000)) ∧
    decodeTableWord 96 (w96 0x87 4 0x2C0 0x2C3 0x109 0x2C0 0 0xFFFFFF00) = some (.waitp hdr .dev (.lit 0xFFFFFF00) (.g 9)) ∧
    decodeTableWord 64 (w64 0x88 0 0x2C0 0x310 0x104 0x2C0 0) = some (.watch hdr (.imm 16) (.g 4)) ∧
    decodeTableWord 64 (w64 0x89 0 0x109 0x2C0 0x2C0 0x2C0 0) = some (.bcls hdr (.g 9)) ∧
    decodeTableWord 128 (w128 0x90 1 0x104 0x106 0x310 0x2C0 3 (0x80 + 3 * 2 ^ 20) (0x10 * 2 ^ 12 + 8))
      = some (.acp hdr true true (.g 4) (.g 6) (.imm 16) .zero 0x80 3 0x10 8) ∧
    decodeTableWord 128 (w128 0x91 0 0x104 0x303 0x2C0 0x310 0 0x100 0) = some (.amc hdr (.g 4) (.imm 3) .zero (.imm 16) 0x100) :=
  ⟨rfl, rfl, rfl, rfl, rfl, rfl, rfl, rfl, rfl⟩

/-- R245, R248, R254, R89: matrix. -/
theorem test_decode_matrix :
    decodeTableWord 64 (w64 0xA0 0 3 0x104 0x2C0 0x2C0 0) = some (.gang false 3 (.g 4)) ∧
    decodeTableWord 64 (w64 0xA1 0 5 0x104 0x2C0 0x2C0 0) = some (.eset false 5 (.g 4)) ∧
    decodeTableWord 128 (w128 0xA2 1 2 0x104 0x020 0x106 0 (1 + 2 * 2 ^ 3 + 16 * 2 ^ 6 + 1 * 2 ^ 14) 0)
      = some (.mma true 2 (.g 4) (.v 32) (.g 6) 1 2 16 true) ∧
    decodeTableWord 64 (w64 0xA3 0 0x2C0 0x303 0x301 0x2C0 0) = some (.zclr hdr (.imm 3) (.imm 1)) ∧
    decodeTableWord 64 (w64 0xA4 0 0x2C0 0x303 0x108 0x2C0 0) = some (.zld hdr (.imm 3) (.g 8)) ∧
    decodeTableWord 128 (w128 0xA5 0 0x2C0 0x303 0x108 0x2C0 2 0x0004F3C0 0x20)
      = some (.zdrn hdr false .f16 (.imm 3) (.g 8) .zero true 0 15 15 0 0 0x20) ∧
    decodeTableWord 64 (w64 0xA6 0 0x104 0x303 0x2C0 0x2C0 0) = some (.zprg hdr (.g 4) (.imm 3)) ∧
    decodeTableWord 64 (w64 0xA7 0 0x104 0x302 0x2C0 0x2C0 0) = some (.zgrow hdr (.g 4) (.imm 2)) ∧
    decodeTableWord 64 (w64 0xA8 0 0x2C0 0x303 0x301 0x2C0 0) = some (.zfree hdr (.imm 3) (.imm 1)) :=
  ⟨rfl, rfl, rfl, rfl, rfl, rfl, rfl, rfl, rfl⟩

/-- R260: tasks, coverage, beams and observation. The words of `talc` and `tsub` are those of the example in spec/09. -/
theorem test_decode_tasks :
    decodeTableWord 64 0x0B02C04110A07B00 = some (.talc hdr (.g 10) (.g 4)) ∧
    decodeTableWord 128 (0x1B010542AC007B12 + 4 * 2 ^ 64) = some (.tsub hdr true .dev (.g 10) (.g 5)) ∧
    decodeTableWord 64 (w64 0xB2 1 0x2C0 0x104 0x2C0 0x2C0 0) = some (.tsig hdr .team (.g 4)) ∧
    decodeTableWord 64 (w64 0xB3 0 0x2C0 0x2C0 0x2C0 0x2C0 0) = some .tend ∧
    decodeTableWord 64 (w64 0xB4 0 0x2C0 0x303 0x2C0 0x2C0 0) = some (.role (.imm 3)) ∧
    decodeTableWord 128 (w128 0xB5 0 0x2C0 0x104 0x105 0x106 0 0xFF 0) = some (.covr hdr (.g 4) (.g 5) (.g 6) 0xFF) ∧
    decodeTableWord 128 (w128 0xC0 0 0x104 0x105 0x106 0x310 0 7 0) = some (.bqry hdr (.g 4) (.g 5) (.g 6) (.imm 16) 7) ∧
    decodeTableWord 64 (w64 0xC1 0 0x104 0x105 0x2C0 0x2C0 0) = some (.bres hdr (.g 4) (.g 5)) ∧
    decodeTableWord 64 (w64 0xC2 0 0x104 0x105 0x2C0 0x2C0 0) = some (.ctrd hdr (.g 4) (.g 5)) ∧
    decodeTableWord 64 (w64 0xC3 0 0x2C0 0x305 0x106 0x2C0 0) = some (.mark hdr (.imm 5) (.g 6)) :=
  ⟨rfl, rfl, rfl, rfl, rfl, rfl, rfl, rfl, rfl, rfl⟩

/-- R49, R71, R72: the guard, `.run` and `.nw` bits are read; an unassigned OPC is the row of that name, an unassigned SUB
decodes to nothing. -/
theorem test_decode_header :
    decodeTableWord 64 (w64 0x20 0 0x004 0x001 0x002 0x2C0 0 - 7 * 2 ^ 12 + 3 * 2 ^ 12 + 2 ^ 15 + 2 ^ 2 + 2 ^ 3)
      = some (.add ⟨⟨3, true⟩, true, true⟩ .i32 false (.v 4) (.v 1) (.v 2)) ∧
    decodeTableWord 64 (w64 0x5B 0 0x2C0 0x2C0 0x2C0 0x2C0 0) = some (.unassignedOpc 0x2C0075B0) ∧
    decodeTableWord 64 (w64 0x20 0 0x004 0x001 0x002 0x2C0 1) = none :=
  ⟨rfl, rfl, rfl⟩

/-! ### Ill-formed terms (R73, R54)

One term for each check of `wellFormed`, beside a well-formed neighbour where the check is about one field. -/

/-- SUB: no signed load size on a store (R80), no exchange without a result (R81). A device event has no encoding at all. -/
theorem test_refused_sub :
    wellFormed .powerGood = false ∧
    wellFormed (.gst hdr .global .dflt .i8 (.g 4) (.g 2) .zero (.short 0)) = false ∧
    wellFormed (.gst hdr .global .dflt .n8 (.g 4) (.g 2) .zero (.short 0)) = true ∧
    wellFormed (.ared hdr .xchg .dev false (.g 2) .zero (.v 1) .short) = false := by decide

/-- Length (R46: `arv` has no 96-bit form), `.run` on a terminal instruction (R25), `.nw` on a pair (R26) and on `clz` of 64 bits (R153). -/
theorem test_refused_form :
    wellFormed (.arv hdr .team .zero (.lit 0x10)) = false ∧
    wellFormed (.bini ⟨⟨7, false⟩, true, false⟩ (.imm 16) (.imm 1) .zero) = false ∧
    wellFormed (.add ⟨⟨7, false⟩, false, true⟩ .i64 false (.v 4) (.v 0) (.v 2)) = false ∧
    wellFormed (.add ⟨⟨7, false⟩, false, true⟩ .i32 false (.v 4) (.v 0) (.v 2)) = true ∧
    wellFormed (.clz ⟨⟨7, false⟩, false, true⟩ .i64 (.v 4) (.v 0)) = false := by decide

/-- MOD (R75, R80, R87, R89). -/
theorem test_refused_mod :
    wellFormed (.mulh hdr .i16 (.v 4) (.v 1) (.v 2)) = false ∧
    wellFormed (.ld hdr .pd .nl1 .b32 (.v 4) (.g 2) .zero (.short 0)) = false ∧
    wellFormed (.st hdr .cn .dflt .b32 (.v 4) (.g 2) .zero (.short 0)) = false ∧
    wellFormed (.lred hdr .n32 .fadd (.g 4) (.v 1)) = false ∧
    wellFormed (.zdrn hdr true .bf16 (.imm 3) (.g 8) .zero true 0 15 15 0 0 0x20) = false := by decide

/-- Fields and extended words (R200, R215, R254). -/
theorem test_refused_fields :
    wellFormed (.zdrn hdr false .e4m3 (.imm 3) (.g 8) .zero true 0 15 15 0 0 0x20) = false ∧
    wellFormed (.zdrn hdr false .f32 (.imm 3) (.g 8) .zero true 63 0 15 0 0 0x40) = true ∧
    wellFormed (.zdrn hdr false .f32 (.imm 3) (.g 8) .zero true 63 1 15 0 0 0x40) = false ∧
    wellFormed (.zdrn hdr false .f32 (.imm 3) (.g 8) .zero true 0 15 15 0 0 0x38) = false ∧
    wellFormed (.acp hdr false false (.g 4) (.g 6) .zero .zero 4 0 0 0) = true ∧
    wellFormed (.acp hdr false false (.g 4) (.g 6) .zero .zero 0 0 0 0) = false ∧
    wellFormed (.acp hdr false false (.g 4) (.g 6) .zero .zero 4 1 0 0) = false ∧
    wellFormed (.atmc hdr .dev false (.v 4) (.g 2) .zero (.v 1) 0x1020) = false := by decide

/-- Operand classes (R53, R84), pairs (R13), alignment of `atmc` (R200), the literal in a 128-bit form (R54), the index of `role` (R260). -/
theorem test_refused_operands :
    wellFormed (.gadd hdr .i32 false (.g 4) (.v 2) (.g 3)) = false ∧
    wellFormed (.gadd hdr .i32 false (.imm 4) (.g 2) (.g 3)) = false ∧
    wellFormed (.gmov hdr .i64 (.g 5) (.g 2)) = false ∧
    wellFormed (.gmov hdr .i64 (.g 62) (.g 2)) = true ∧
    wellFormed (.atmc hdr .dev false (.v 6) (.g 2) .zero (.v 1) 0x1040) = false ∧
    wellFormed (.tsub hdr false .dev (.g 4) (.lit 5)) = false ∧
    wellFormed (.role (.imm 7)) = true ∧ wellFormed (.role (.imm 8)) = false := by decide

/-- One instruction names one literal (R54). -/
theorem test_refused_literals :
    wellFormed (.add hdr .i32 false (.v 4) (.lit 1000) (.lit 1000)) = true ∧
    wellFormed (.add hdr .i32 false (.v 4) (.lit 1000) (.lit 1001)) = false := by decide

/-! ### Witnesses

For every statement with hypotheses, a state and operands that meet them together, at a boundary value where a clause has a range. The
group of `dev` is the one that a launch leaves (log 10), with 16 barrier objects and 64 KiB of scratchpad; one 1 GiB page of memory is
mapped at address 0, of key 0, shared with its tag, so that a byte that nothing has written reads 0 (log 7). -/

/-- A group that is about to issue. -/
def dev : State :=
  let s := withGroup State.reset
  { s with t := { s.t with desc := { s.t.desc with barriers := 16, pad := 0x10000 } },
           mem := ⟨[(0x1000, 0x01), (0x1001, 0x20), (0x2000, 0x1F)], [], [], [], []⟩, keyShare := [(0, 1)] }

/-- The same with uniform registers as given. -/
def devG (g : Cells 32) : State := { dev with g := { dev.g with regs := { dev.g.regs with g := g } } }

/-- Does the instruction pass the checks at issue in s? -/
def issues (i : Instr) (s : State) : Bool :=
  match toEnc i with
  | some e => decide (issueFault e s = none)
  | none => false

theorem issues_iff (i : Instr) (s : State) : issues i s = true ↔ ∃ e, Issues i s e := by
  unfold issues Issues
  cases h : toEnc i with
  | none => simp
  | some e => simp

/-- The state in which an instruction that has passed these checks acts. -/
def begun (i : Instr) (s : State) : State :=
  match toEnc i with
  | some e => beginIssue e s
  | none => s

theorem begun_eq {i : Instr} {s : State} {e : Enc} (h : Issues i s e) : begun i s = beginIssue e s := by simp [begun, h.1]

/-- No trace unit is set up: nothing is recorded in memory. -/
theorem untraced_of {s : State} (h : s.obs = []) (tag : Nat) : UntracedFor s tag := fun cl => by
  simp [trEnabled, h, peek, bit]

/-- No guard, no hint. -/
abbrev chdr : CHdr := ⟨⟨7, false⟩, .none⟩

/-- A guard that no lane of `dev` has. -/
abbrev off : Guard := ⟨0, false⟩

/-- Uniform and vector integer instructions, their predicates and masks. -/
def formsInt : List Instr :=
  [.gmov hdr .i64 (.g 62) (.lit 0x80000000), .gadd hdr .n32 true (.g 63) (.g 0) (.imm 0x80), .gsub hdr .i32 false (.g 4) (.g 2) .gw,
   .gmul hdr .i32 (.g 4) (.g 2) (.g 3), .gmulh hdr .n32 (.g 4) (.g 2) (.g 3), .gmad hdr .i32 true (.g 4) (.g 2) (.g 3) (.g 5),
   .gand hdr .i32 (.g 4) (.g 2) (.g 3), .gor hdr .i64 (.g 4) (.g 2) (.g 8), .gxor hdr .i32 (.g 4) (.g 2) (.g 3),
   .gshl hdr .i32 (.g 4) (.g 2) (.imm 32), .gshr hdr .i32 (.g 4) (.g 2) (.imm 31), .gsar hdr .i32 (.g 4) (.g 2) (.imm 32),
   .gmin hdr .i32 (.g 4) (.g 2) (.g 3), .gmax hdr .n32 (.g 4) (.g 2) (.g 3), .gcmp hdr .i32 .ge (.g 4) (.g 2) (.g 3),
   .gsel hdr .i32 (.g 4) (.g 2) (.g 3) (.g 5), .glea hdr 7 (.g 4) (.g 2) (.g 5), .gbfx hdr .n32 (.g 4) (.g 2) (.g 3),
   .gbfi hdr (.g 4) (.g 2) (.g 3) (.g 5), .gclz hdr .i64 (.g 4) (.g 2), .gpopc hdr .i32 (.g 4) (.g 2),
   .emrd hdr (.g 62), .vbal hdr (.g 4) (.p 7), .rdfl hdr .i64 (.g 4) (.v 0),
   .add hdr .i16 true (.v 255) (.v 1) (.v 2), .sub hdr .n32 false (.o 7) (.o 0) .lane, .mul hdr .n16 (.v 4) (.v 1) (.v 2),
   .mulh hdr .i32 (.v 4) (.v 1) (.v 2), .mad hdr .n8 false (.v 4) (.v 1) (.v 2) (.v 3), .and hdr .i32 (.v 4) (.v 1) .lane,
   .or hdr .i64 (.v 254) (.v 0) (.v 2), .xor hdr .i32 (.v 4) (.v 1) (.v 2), .shl hdr .i32 (.v 4) (.v 1) (.imm 32),
   .shr hdr .i32 (.v 4) (.v 1) (.imm 31), .sar hdr .i32 (.v 4) (.v 1) (.imm 33), .min hdr .i8 (.v 4) (.v 1) (.v 2),
   .max hdr .i32 (.v 4) (.v 1) (.v 2), .abs hdr .i32 true (.v 4) (.v 1), .sel hdr .i32 (.v 4) (.v 1) (.v 2) (.p 7),
   .cmp hdr .n32 .lt (.p 7) (.v 1) (.v 2), .bfx hdr .i32 (.v 4) (.v 1) (.v 2), .bfi hdr (.v 4) (.v 1) (.v 2) (.v 3),
   .clz hdr .i32 (.v 4) (.v 1), .popc hdr .i64 (.v 4) (.v 0), .brev hdr .i32 (.v 4) (.v 1),
   .idp4 hdr false true true (.v 4) (.v 1) (.v 2) (.v 3), .sad hdr .n8 (.v 4) (.v 1) (.v 2) (.v 3),
   .addc hdr (.v 4) (.v 1) (.v 2) (.p 0), .addc hdr (.v 4) (.v 1) (.v 2) (.p 7), .pand hdr (.p 1) (.p 2) (.p 3),
   .por hdr (.p 1) (.p 2) (.p 3), .pxor hdr (.p 1) (.p 2) (.imm 15), .pnot hdr (.p 7) (.p 2), .vany hdr (.p 1) (.p 2),
   .vall hdr (.p 1) (.p 2), .mbcnt hdr (.v 4) (.g 4)]

/-- Floating point, special functions and lane movement. -/
def formsFloat : List Instr :=
  [.fadd hdr .f64 true .rz true false (.v 4) (.v 0) (.v 2), .fsub hdr .f32 false .rn false true (.v 4) (.v 1) (.v 2),
   .fmul hdr .f16 false .rp false false (.v 4) (.v 1) (.v 2), .fma hdr .bf16x2 false .rm false true (.v 4) (.v 1) (.v 2) (.v 3),
   .fmin hdr .f32 false true false (.v 4) (.v 1) (.v 2), .fmax hdr .f16x2 false false false (.v 4) (.v 1) (.v 2),
   .fcmp hdr .f32 true .uge (.p 1) (.v 1) (.v 2), .frnd hdr .bf16 .rm (.v 4) (.v 1), .fclass hdr .f32 (.v 4) (.v 1),
   .fscl hdr .f32 .rz (.v 4) (.v 1) (.v 2), .fdp2 hdr .f16x2 .rn true true (.v 4) (.v 1) (.v 2) (.v 3),
   .rcp hdr .f32 true (.v 4) (.v 1), .rsq hdr .f16 (.v 4) (.v 1), .sqt hdr .f64 false (.v 4) (.v 0), .ex2 hdr .f32 (.v 4) (.v 1),
   .lg2 hdr .f32 (.v 4) (.v 1), .sin hdr .f32 (.v 4) (.v 1), .cos hdr .f16 (.v 4) (.v 1), .tnh hdr .bf16 (.v 4) (.v 1),
   .cvt hdr .n8 .f64 .rp true (.v 4) (.v 0), .cvtp hdr .bf16x2 .rz false (.v 4) (.v 1) (.v 2),
   .cvtq hdr true true 3 (.v 4) (.v 1) (.v 2), .shfl hdr .i32 .dn (.v 4) (.v 1) (.imm 31), .shfl hdr .i32 .up (.v 4) (.v 1) (.imm 32),
   .expd hdr .i32 (.v 4) (.v 1) (.p 7), .bperm hdr true (.v 4) (.v 1) (.v 2), .bperm hdr false (.v 4) (.v 1) (.v 2),
   .rdln hdr .i32 (.g 4) (.v 1) (.imm 31), .rdln hdr .i32 (.v 4) (.v 1) (.imm 32), .lred hdr .n32 .max (.g 4) (.v 1),
   .scan hdr .i32 .fadd true (.v 4) (.v 1), .scan hdr .i64 .min false (.v 4) (.v 2), .cmpk hdr .i32 (.v 4) (.v 1) (.p 7) (.g 5)]

/-- Control, system, and what only moves the PC. -/
def formsControl : List Instr :=
  [.nop false, .nop true, .prf hdr true (.g 2) (.v 1) (.short 8), .fence hdr .full .dev, .fence hdr .acq .grp, .bra chdr 4 8,
   .brx chdr (.g 4) 0x30, .call chdr (.g 6) 0x40, .callx chdr (.g 62) (.g 4), .ret ⟨7, false⟩ (.g 6), .exit ⟨7, false⟩, .yield,
   .trap ⟨7, false⟩ (.imm 5), .eret, .brk hdr, .mhret, .sysrd hdr true (.g 8) (.imm 4), .syswr hdr false (.imm 4) (.g 8),
   .emwr ⟨7, false⟩ (.g 8), .eset false 7 (.g 4), .gang false 3 (.g 4), .tend, .role (.imm 0)]

/-- UniformResults, VectorResults, PredicateAndCarryResults, FloatResults, SpecialFunctionResults, LaneMovementResults and
ReductionAndScanResults ask for an instruction that passes the checks at issue, the last two with GW at most 64. -/
theorem witness_alu : (formsInt ++ formsFloat).all (issues · dev) = true ∧ dev.g.gw ≤ 64 := by decide +kernel

/-- FetchOnlyResults, BranchAndCallResults, GroupLifeResults, TrapResults, HandlerReturnResults, SystemRegisterResults and
MaskAndGangRegisterResults: the instruction passes the checks at issue; the stack is empty. -/
theorem witness_control : formsControl.all (issues · dev) = true ∧ dev.g.bank.stk = [] := by decide +kernel

/-- The accesses of an instruction, one for each of the lanes. -/
def accs (i : Instr) (s : State) (sp : Space) (k : AccKind) (n : Nat) (a b : Opnd) (ls : List Nat) :
    List (Nat × Nat × Except (List Nat) Spot) :=
  resolveLanes (begun i s) sp k n (effAddr s.g sp a b 0) ls

/-- Does no access lie behind a link (R482)? -/
theorem linksSound_of {s : State} {ps : List (Nat × Nat × Spot)}
    (h : ps.all (fun p => match p.2.2.xl with | some x => x.target == 0 | none => true) = true) : LinksSound s ps := by
  intro p hp x hx n
  have := List.all_eq_true.1 h p hp
  rw [hx] at this
  simp only [beq_iff_eq] at this
  simp [Xl.linkDead, this]

/-- g2 is the last word of the scratchpad, g4:g5 that of the mapped gigabyte, g6 the first byte behind the scratchpad. -/
def devM : State := devG [(2, 0xFFFC), (4, 0x3FFFFFFC), (6, 0x10000)]

/-- The four, at the last word of the scratchpad and of a mapped page; with the guard, nobody's. -/
def ldPd (gd : Guard) : Instr := .ld ⟨gd, false, false⟩ .pd .dflt .b32 (.v 4) (.g 2) .zero (.short 0)
def gldGl (gd : Guard) : Instr := .gld ⟨gd, false, false⟩ .global .dflt .b32 (.g 8) (.g 4) .zero (.short 0)
def stGl (gd : Guard) : Instr := .st ⟨gd, false, false⟩ .global .dflt .b32 (.v 4) (.g 4) .zero (.short 0)
def gstPd (gd : Guard) : Instr := .gst ⟨gd, false, false⟩ .pd .dflt .b32 (.g 8) (.g 2) .zero (.short 0)

/-- LoadAndStoreResults: every access meets no fault, with lanes active and with none. -/
theorem witness_load_store :
    ([ldPd, gldGl, stGl, gstPd].all fun i => issues (i ⟨7, false⟩) devM && issues (i off) devM) = true ∧
    devM.g.active ⟨7, false⟩ ≠ 0 ∧ devM.g.active off = 0 ∧
    laneFault false (accs (ldPd ⟨7, false⟩) devM .pd .rd 4 (.g 2) .zero (lanesOf (devM.g.active ⟨7, false⟩))) = none ∧
    laneFault false (accs (gldGl ⟨7, false⟩) devM .global .rd 4 (.g 4) .zero [0]) = none ∧
    laneFault true (accs (stGl ⟨7, false⟩) devM .global .wr 4 (.g 4) .zero (lanesOf (devM.g.active ⟨7, false⟩))) = none ∧
    laneFault true (accs (gstPd ⟨7, false⟩) devM .pd .wr 4 (.g 2) .zero [0]) = none ∧
    laneFault false (accs (gldGl off) devM .global .rd 4 (.g 4) .zero []) = none := by decide +kernel

/-- No access of the loads lies behind a link, and nothing is traced. -/
theorem witness_load_links :
    LinksSound devM (laneSpots (accs (ldPd ⟨7, false⟩) devM .pd .rd 4 (.g 2) .zero (lanesOf (devM.g.active ⟨7, false⟩)))) ∧
    LinksSound devM (laneSpots (accs (gldGl ⟨7, false⟩) devM .global .rd 4 (.g 4) .zero [0])) ∧ Untraced devM :=
  ⟨linksSound_of (by decide +kernel), linksSound_of (by decide +kernel), untraced_of (by decide +kernel) _⟩

/-- The stores: one byte of an access whose byte a later access does not write, in the scratchpad and in local memory. -/
theorem witness_store_places :
    (match (laneSpots (accs (stGl ⟨7, false⟩) devM .global .wr 4 (.g 4) .zero (lanesOf (devM.g.active ⟨7, false⟩)))).getLast? with
     | some (_, _, .glob x) => x.target == 0 && (placeLoc devM (.glob x) 3).isSome
     | _ => false) = true ∧
    (match laneSpots (accs (gstPd ⟨7, false⟩) devM .pd .wr 4 (.g 2) .zero [0]) with
     | [(_, _, p)] => placeLoc devM p 3 == some (.pad 2 0xFFFF)
     | _ => false) = true ∧
    (match laneSpots (accs (.gst hdr .global .dflt .b32 (.g 8) (.g 4) .zero (.short 0)) devM .global .wr 4 (.g 4) .zero [0]) with
     | [(_, _, .glob x)] => x.target == 0
     | _ => false) = true := by decide +kernel

/-- AccessFaults: the first word behind the scratchpad is out of bounds, one that is not aligned is out of bounds too, and both
causes are in the order of R187. -/
theorem witness_access_faults :
    ([.ld hdr .pd .dflt .b32 (.v 4) (.g 6) .zero (.short 0), .st hdr .pd .dflt .b32 (.v 4) (.g 6) .zero (.short 0),
      .atm hdr .add .dev false (.v 4) (.g 6) .zero (.v 1) (.ext .pd false false 0)] : List Instr).all (issues · devM) = true ∧
    (let i : Instr := .ld hdr .pd .dflt .b32 (.v 4) (.g 6) .zero (.short 0)
     laneFault false (accs i devM .pd .rd 4 (.g 6) .zero (lanesOf (devM.g.active ⟨7, false⟩))))
      = some { cause := cPADB, lane := 0, va := 0x10000 } ∧
    (let i : Instr := .st hdr .pd .dflt .b32 (.v 4) (.g 6) .zero (.short 0)
     laneFault true (accs i devM .pd .wr 4 (.g 6) .zero (lanesOf (devM.g.active ⟨7, false⟩))))
      = some { cause := cPADB, lane := 0, va := 0x10000, write := true } ∧
    (let i : Instr := .atm hdr .add .dev false (.v 4) (.g 6) .zero (.v 1) (.ext .pd false false 0)
     laneFault true (accs i devM .pd .rmw 4 (.g 6) .zero (lanesOf (devM.g.active ⟨7, false⟩))))
      = some { cause := cPADB, lane := 0, va := 0x10000, write := true } := by decide +kernel

/-- Two lanes, whose v1 are 0 and 4. -/
def devA : State :=
  { devM with g := { devM.g with em := 3, live := 3, regs := { devM.g.regs with g := [(2, 0xFFF8)], v := [(65, 4)] } } }

def atmCas : Instr := .atm hdr .cas .dev false (.v 4) (.g 2) (.v 1) (.v 1) (.ext .pd false false 0)
def aredAdd : Instr := .ared hdr .add .dev false (.g 2) (.v 1) (.v 1) (.ext .pd false false 0)

/-- AtomicResults: two lanes at the last two words of the scratchpad, neither poisoned; a compare value that equals the old one, and
one that does not. -/
theorem witness_atomic :
    ([atmCas, aredAdd].all fun i => issues i devA &&
      (laneFault true (accs i devA .pd .rmw 4 (.g 2) (.v 1) (lanesOf (devA.g.active ⟨7, false⟩)))).isNone &&
      laneSpots (accs i devA .pd .rmw 4 (.g 2) (.v 1) (lanesOf (devA.g.active ⟨7, false⟩)))
        == [(0, 0xFFF8, .pad 2 0xFFF8), (1, 0xFFFC, .pad 2 0xFFFC)] &&
      (spotRead (begun i devA) 4 (.pad 2 0xFFF8)).2 == false && (spotRead (begun i devA) 4 (.pad 2 0xFFFC)).2 == false &&
      bytesNat ((List.range 4).map (placeByte (begun i devA) (.pad 2 0xFFF8))) == 0) = true ∧
    cmpOf devA.g false (.v 4) 0 = 0 ∧
    cmpOf { devA.g with regs := { devA.g.regs with v := [(256, 1)] } } false (.v 4) 0 = 1 := by decide +kernel

theorem witness_atomic_sound : LinksSound devA [(0, 0xFFF8, .pad 2 0xFFF8), (1, 0xFFFC, .pad 2 0xFFFC)] ∧ Untraced devA :=
  ⟨linksSound_of (by decide +kernel), untraced_of (by decide +kernel) _⟩

/-- A store of two lanes, of which the second does not write what the first does. -/
theorem witness_store_lanes :
    (let i : Instr := .st hdr .pd .dflt .b32 (.v 4) (.g 2) (.v 1) (.short 0)
     issues i devA && laneSpots (accs i devA .pd .wr 4 (.g 2) (.v 1) (lanesOf (devA.g.active ⟨7, false⟩)))
       == [(0, 0xFFF8, .pad 2 0xFFF8), (1, 0xFFFC, .pad 2 0xFFFC)]) = true ∧
    ¬ StoredAt devA 4 [(1, 0xFFFC, .pad 2 0xFFFC)] (.pad 2 0xFFFB) := by
  refine ⟨by decide +kernel, ?_⟩
  rintro ⟨p, hp, i, _, h⟩
  simp only [List.mem_singleton] at hp
  subst hp
  simp only [placeLoc, Option.some.injEq, Loc.pad.injEq, true_and] at h
  omega

theorem witness_atomic_apart : ([(0, 0xFFF8, Spot.pad 2 0xFFF8), (1, 0xFFFC, .pad 2 0xFFFC)] : List (Nat × Nat × Spot)).Pairwise
    (fun p q => p.2.1 ≠ q.2.1 ∧ ∀ i j loc, i < 4 → j < 4 → placeLoc devA p.2.2 i = some loc → placeLoc devA q.2.2 j ≠ some loc) := by
  simp only [List.pairwise_cons, List.mem_singleton, forall_eq, List.Pairwise.nil, and_true, List.not_mem_nil, false_implies,
    implies_true]
  refine ⟨by decide, fun i j loc hi hj h h' => ?_⟩
  simp only [placeLoc, Option.some.injEq] at h h'
  subst h
  simp only [Loc.pad.injEq, true_and] at h'
  omega

/-- The bytes of a number stand from an address on, the others there are 0. -/
def put (va v : Nat) (s : State) : State :=
  { s with mem := { s.mem with hbm := pokeBytes s.mem.hbm va ((Nat.log2 v + 8) / 8) v } }

/-- A context with a pool of one slot for a queue and one of one slot for a node; a record in the slot at 0x40000 whose entry is
0x1000 and whose queue is 0, with a template like it at 0x42000. -/
def ctxT : Ctx :=
  { ptroot := 0x1000, fallback := false, extOn := true, wdint := 100000000, extint := 0, err := ⟨0x20000, 6, 0x21000, 0x21004⟩,
    pools := [⟨0x40000, 1, .queue, []⟩, ⟨0x41000, 1, .node 0, []⟩], queues := [⟨0x43000, 0, true⟩],
    nodes := [⟨0x1000, 0x43000, 2, 100, 1, []⟩], rings := [], frames := [] }

def devT : State :=
  let s := updFn 2 (fun f => { f with ctx := some ctxT, lim := ⟨0, 1, false⟩ }) dev
  let s := { s with g := { s.g with em := 1, live := 1,
                                    regs := { s.g.regs with g := [(2, 0x3FFFFFFC), (4, 0x40000), (6, 0x41000)] } } }
  put 0x40000 0x1000 (put 0x42000 0x1000 s)

/-- The same with the one launch entry that the limit of its tag allows in use at station s (R201). -/
def devFull (st : Nat) : State :=
  { devT with launches := [⟨st, 2, ⟨0, 2, false, 0, [], ⟨false, .dev, 0, 0⟩, 0, 0, 0, [], 0, none⟩⟩] }

/-- ConditionalLaunchResults: one lane at the last word of the page, in the state of the checks. A template that fails, a full station,
an old value that is the compare value and one that is not. -/
theorem witness_atmc :
    let i : Instr := .atmc hdr .dev false (.v 4) (.g 2) .zero (.v 1) 0x42000
    let at_ (s : State) : Option ((Nat × Nat × Spot) × State) :=
      match laneSpots (accs i s .global .rmw 4 (.g 2) .zero [0]) with
      | [p] => some (p, signLines (linesOf [p]) (acquireAt [p] (begun i s)))
      | _ => none
    (i :: [.atmc hdr .dev false (.v 4) (.g 2) .zero (.v 1) 0x40000000]).all (issues · devT) = true ∧
    laneFault true (accs i devT .global .rmw 4 (.g 2) .zero (lanesOf (devT.g.active ⟨7, false⟩))) = none ∧
    (match at_ devT with
     | some (p, b) => (templateOf b 0x42000).isSome && (templateOf b 0x40000000).isNone &&
         (spotRead b 4 p.2.2).2 == false && launchRoom b (stationOf b p.2.2) &&
         !launchRoom { b with launches := (devFull (stationOf b p.2.2)).launches } (stationOf b p.2.2) &&
         bytesNat ((List.range 4).map (placeByte b p.2.2)) == cmpOf devT.g false (.v 4) p.1 && (placeLoc devT p.2.2 3).isSome &&
         (match p.2.2 with | .glob x => x.target == 0 | _ => false)
     | none => false) = true ∧
    cmpOf { devT.g with regs := { devT.g.regs with v := [(256, 1)] } } false (.v 4) 0 = 1 := by decide +kernel

theorem witness_atmc_untraced : Untraced devT := untraced_of (by decide +kernel) _

/-- FetchOnlyResults: a pad word behind the instruction and none behind that; fences outside the fall-back, with lanes active or none. -/
theorem witness_fetch_only :
    (match fetchWord (begun (.nop false) (beginNow (put 0x10008 3 dev))) (dev.g.pc + 8), fetchWord (begun (.nop false) (beginNow (put 0x10008 3 dev))) (dev.g.pc + 12) with
     | .ok p, .ok q => p == (padWord, false) && q != (padWord, false)
     | _, _ => false) = true ∧
    dev.g.bank.stk = [] ∧ fallback dev dev.t.tag = false ∧ dev.g.active ⟨7, false⟩ ≠ 0 ∧ dev.g.active off = 0 ∧
    ([.acq, .rel, .full].all fun k => issues (.fence hdr k .dev) dev && issues (.fence ⟨off, false, false⟩ k .dev) dev) = true := by
  decide +kernel

/-- Half of the lanes have the guard p0, and n paths are open. -/
def devP (n : Nat) : State :=
  { dev with g := { dev.g with regs := { dev.g.regs with
      g := [(4, 0x2000), (6, 0x2002)], p := [(0, 0xFFFF)],
      stk := List.replicate n ⟨0x3000, laneMask 32, laneMask 32, 0, true, .done⟩ } } }

/-- Every clause of a transfer (BranchAndCallResults): no lane goes, the target is not aligned, all go, the stack is full, some go. -/
theorem witness_transfer :
    dev.g.active off = 0 ∧
    (devP 0).g.active off ≠ 0 ∧ pairVa (devP 0) (.g 6) &&& 3 ≠ 0 ∧ pairVa (devP 0) (.g 4) &&& 3 = 0 ∧
    (devP 0).g.inactive off ≠ 0 ∧ (devP 0).g.inactive ⟨7, false⟩ = 0 ∧
    stackFull (devP 0).g = false ∧ stackFull (devP 31).g = false ∧ stackFull (devP 32).g = true ∧
    (devP 0).g.bank.stk = [] ∧
    ([.ret off (.g 4), .ret off (.g 6), .callx ⟨off, .unlikely⟩ (.g 8) (.g 4), .call ⟨off, .none⟩ (.g 8) 1, .bra ⟨off, .none⟩ 4 8,
      .brx ⟨off, .none⟩ (.g 4) 8] : List Instr).all (fun i => issues i dev && issues i (devP 0) && issues i (devP 32)) = true := by
  decide +kernel

/-- GroupLifeResults: `exit` with no lane, some lanes and every lane; `tend` of a launch and of a task; `yield` with and without another
path to run. -/
theorem witness_group_end :
    dev.g.active off = 0 ∧ (devP 0).g.active off ≠ 0 ∧ (devP 0).g.live &&& ~~~(devP 0).g.active off ≠ 0 ∧
    dev.g.active ⟨7, false⟩ ≠ 0 ∧ dev.g.live &&& ~~~dev.g.active ⟨7, false⟩ = 0 ∧ dev.t.latches = [] ∧ dev.t.origin = .launch ∧
    issues .tend { dev with t := { dev.t with origin := .task 0x40000 0 0 } } = true ∧
    issues (.exit off) dev = true ∧ issues (.exit off) (devP 0) = true ∧ issues .yield (devP 1) = true ∧
    ((devP 1).g.bank.stk.head?.any fun d => d.other.complete) = true := by decide +kernel

/-- In a shadow context of a kind. -/
def devSh (k : Handler) : State := { dev with g := { dev.g with sh := some ⟨k, Bank.empty⟩ } }

/-- HandlerReturnResults and TrapResults. -/
theorem witness_handler_return :
    issues .eret (devSh .trap) = true ∧ issues .mhret (devSh .pcMatch) = true ∧ inHandler (devSh .trap).g .trap = true ∧
    inHandler (devSh .pcMatch).g .pcMatch = true ∧ inHandler (devSh .pcMatch).g .trap = false ∧ inHandler dev.g .trap = false ∧
    issues .eret (devSh .pcMatch) = true ∧ (devSh .trap).g.regs.stk = [] ∧
    issues (.trap off (.imm 5)) dev = true ∧ issues (.brk ⟨off, false, false⟩) dev = true := by decide +kernel

/-- SystemRegisterResults: a register that is there, one that is not, one that is read only, a width that it does not have. -/
theorem witness_system :
    sysPick dev.g (.imm 0) false true ≠ none ∧ sysPick dev.g (.imm 127) false true = none ∧
    (sysPick dev.g (.imm 0) true true = none ∨ sysPick dev.g (.imm 0) false true = none ∨ sysPick dev.g (.imm 0) true true ≠ none) ∧
    ([.sysrd hdr false (.g 8) (.imm 0), .sysrd hdr false (.g 8) (.imm 127), .sysrd ⟨off, false, false⟩ false (.g 8) (.imm 0),
      .syswr hdr false (.imm 0) (.g 8), .syswr hdr false (.imm 127) (.g 8), .syswr ⟨off, false, false⟩ false (.imm 0) (.g 8)] :
      List Instr).all (issues · dev) = true := by decide +kernel

/-- Two groups of one team on a core; the lead of the gang of g4 is the first, its B-supplier the second. -/
def devGang : State :=
  let s := devG [(4, 0x02100000)]
  { s with t := { s.t with desc := { s.t.desc with ngrp := 2 } }, gs := [{ s.g with uid := 9, gidx := 1, slot := 1 }] }

/-- MaskAndGangRegisterResults: EM loses lanes, or would lose them all; a gang value that is well formed and one that is not. -/
theorem witness_mask_gang :
    issues (.emwr ⟨7, false⟩ (.g 4)) (devP 0) = true ∧ issues (.emwr ⟨7, false⟩ (.g 8)) (devP 0) = true ∧
    srcU (devP 0).g true (.g 4) &&& (devP 0).g.pathMask ≠ 0 ∧ srcU (devP 0).g true (.g 8) &&& (devP 0).g.pathMask = 0 ∧
    issues (.gang false 3 (.g 4)) devGang = true ∧ gangOk devGang (src32 devGang.g (.g 4) 0).toNat = true ∧
    gangOk devGang (src32 devGang.g (.g 5) 0).toNat = false := by decide +kernel

/-- An object that stands at an address, beside other changes. -/
def withObj (o : Nat) (b : BObj) (s : State) : State := { s with t := { s.t with pad := pokeBytes s.t.pad o 16 b.num } }

/-- The last of the 16 objects, with two arrivals expected and one counted, in phase 3; g2 is 65535 and g3 is 65536. -/
def devB : State := withObj 0xF0 ⟨0, 0, 2, 1, 3, 0x8000⟩ (devG [(2, 65535), (3, 65536), (4, 0xF0), (5, 0x100), (6, 0xFFFFFFFF), (7, 0xFFFFFF00),
  (8, 0xFFFFFF10), (9, 8)])

/-- Another group of the team waits on the object; the object has its arrivals, or bytes expected. -/
def devBw : State :=
  { devB with gs := [{ devB.g with uid := 9, gidx := 1, slot := 1, stat := .waiting ⟨0xF0, 3, .team, none, 8, 0, false⟩ }] }
def devBo (b : BObj) : State := withObj 0xF0 b devB

/-- BarrierResults: the last object, the address behind it and one that is not aligned; 1, 65535, 65536 and 0 arrivals; an object on
which a group waits, that is not valid, that is full, that takes its last arrival; 2^32 - 1 bytes expected and one more. -/
theorem witness_barrier :
    ([.bini hdr (.g 4) (.g 2) .zero, .bini hdr (.g 4) (.g 3) .zero, .bini hdr (.g 4) (.imm 1) .zero, .bini hdr (.g 4) (.imm 0) .zero,
      .bini hdr (.g 5) (.g 2) .zero, .bini ⟨off, false, false⟩ (.g 4) (.g 2) .zero, .arv hdr .team (.g 10) (.g 4), .arv hdr .team (.g 10) (.g 5),
      .arv hdr .team .zero (.imm 0), .arv ⟨off, false, false⟩ .team (.g 10) (.g 4), .xpct hdr (.g 4) (.g 6), .xpct hdr (.g 5) (.g 6),
      .xpct hdr (.imm 0) (.g 6), .xpct ⟨off, false, false⟩ (.g 4) (.g 6)] : List Instr).all
      (fun i => issues i devB && issues i devBw && issues i (devBo ⟨1, 0, 1, 1, 3, 0x8000⟩)) = true ∧
    devB.g.active hdr.toGuard ≠ 0 ∧ devB.g.active off = 0 ∧
    objFault devB.t (objAddr devB.g (.g 4)) false = none ∧ objFault devB.t (objAddr devB.g (.g 5)) false = some { cause := cBARRIER } ∧
    objFault devB.t (objAddr devB.g (.g 9)) false = some { cause := cMISALIGN } ∧ objFault devB.t (objAddr devB.g (.imm 0)) false = none ∧
    (src32 devB.g (.g 2) 0).toNat = 65535 ∧ (src32 devB.g (.g 3) 0).toNat = 65536 ∧ (src32 devB.g (.imm 1) 0).toNat = 1 ∧
    (src32 devB.g (.imm 0) 0).toNat = 0 ∧
    (groupsOf devB devB.t.uid).any (waitsOn · 0xF0) = false ∧ (groupsOf devBw devBw.t.uid).any (waitsOn · 0xF0) = true ∧
    (getObj devB.t 0xF0).valid = true ∧ (getObj devB.t 0xF0).carr ≠ (getObj devB.t 0xF0).xarr ∧ (getObj devB.t 0).valid = false ∧
    (getObj (devBo ⟨1, 0, 1, 1, 3, 0x8000⟩).t 0xF0).valid = true ∧
    (getObj (devBo ⟨1, 0, 1, 1, 3, 0x8000⟩).t 0xF0).carr = (getObj (devBo ⟨1, 0, 1, 1, 3, 0x8000⟩).t 0xF0).xarr ∧
    (getObj devB.t 0xF0).xb + (src32 devB.g (.g 6) 0).toNat = 2 ^ 32 - 1 ∧
    (getObj (devBo ⟨1, 0, 1, 1, 3, 0x8000⟩).t 0xF0).xb + (src32 devB.g (.g 6) 0).toNat = 2 ^ 32 := by decide +kernel

/-- An operation of the group in batch n. -/
def opIn (n : Nat) (s : State) : EngOp :=
  { uid := 50, grp := s.g.uid, team := s.t.uid, tag := 2, core := 0, gid := 0, kind := .acp false 0x100 0x40000 4 1 0 0,
    batches := [(s.g.uid, n)], bar := none, crec := none, lock := [], landed := 0, progress := 0, dropped := 0, cause := 0, faultVa := 0, sig := 0 }

/-- The group has closed n batches, and one operation of its first is in flight. -/
def devBusy (n : Nat) : State := { dev with g := { dev.g with closed := n }, ops := [opIn 0 dev] }

/-- WaitAndBatchResults: phase 2 of the object has passed and phase 3 has not; a batch that is complete; a free entry of the lock
table; an object that is not valid; 32768 batches incomplete and one more. -/
theorem witness_wait :
    ([.waitp hdr .team (.g 4) (.imm 2), .waitp hdr .team (.g 4) (.imm 3), .waitp hdr .team (.g 7) (.imm 0),
      .waitp hdr .team (.g 8) .zero, .waitp hdr .team (.imm 0) .zero, .waitp hdr .team (.g 5) .zero, .bcls hdr (.g 9),
      .waitp ⟨off, false, false⟩ .team (.g 4) .zero, .bcls ⟨off, false, false⟩ (.g 9)] : List Instr).all (issues · devB) = true ∧
    waitPassed devB devB.g ⟨0xF0, 2, .team, none, 8, 0, false⟩ = true ∧ waitPassed devB devB.g ⟨0xF0, 3, .team, none, 8, 0, false⟩ = false ∧
    waitPassed (devBusy 1) (devBusy 1).g ⟨objBatch, 0, .team, none, 8, 0, false⟩ = false ∧
    waitPassed devB devB.g ⟨objLock, 0, .team, none, 8, 0, false⟩ = true ∧
    objFault devB.t (objAddr devB.g (.g 7)) true = none ∧ isSpecial (objAddr devB.g (.g 7)) = true ∧
    objFault devB.t 0 true = none ∧ isSpecial 0 = false ∧ (getObj devB.t 0).valid = false ∧
    objFault devB.t (objAddr devB.g (.g 5)) true = some { cause := cBARRIER } ∧ devB.g.bank.stk = [] ∧
    issues (.bcls hdr (.g 9)) (devBusy 32768) = true ∧
    (devBusy 32767).g.closed + 1 - firstBusy (devBusy 32767) (devBusy 32767).g.uid ((devBusy 32767).g.closed + 1) ≤ 32768 ∧
    32768 < (devBusy 32768).g.closed + 1 - firstBusy (devBusy 32768) (devBusy 32768).g.uid ((devBusy 32768).g.closed + 1) := by
  decide +kernel

/-- Is it that error? -/
def failsWith {α : Type} (r : Except Nat α) (c : Nat) : Bool := match r with | .error k => k == c | .ok _ => false

/-- Monitors of core 0 in use. -/
def devMon (n : Nat) : State := { devB with mons := (List.range n).map fun i => ⟨0, 99, 16 * i, none, some 0⟩ }

/-- WatchAndRoleResults: 15 and 16 monitors in use, a line that does not translate, an object that is not valid; a role that is there,
with its batch complete or not, and one that is not. -/
theorem witness_watch_role :
    ([.watch hdr (.g 4) (.g 10), .watch hdr (.imm 0) (.g 10), .watch hdr (.g 4) (.g 6)] : List Instr).all
      (fun i => issues i (devMon 15) && issues i (devMon 16)) = true ∧
    monsUsed (devMon 15) (coreOf devB.t devB.g) = 15 ∧ monsUsed (devMon 16) (coreOf devB.t devB.g) = 16 ∧
    (devMon 16).mons.contains ⟨coreOf devB.t devB.g, devB.t.uid, 0xF0, some 0, none⟩ = false ∧
    (devMon 16).mons.any (Mon.same ⟨0, devB.t.uid, 0xF0, some 0, none⟩) = false ∧ (srcU devB.g true (.g 10)).toNat = 0 ∧ (xlate devB devB.t.tag 0 0 needR).isOk = true ∧
    (srcU devB.g true (.g 6)).toNat % 2 ^ 56 / 2 * 2 = 0xFFFF00FFFFFFFE ∧
    failsWith (xlate devB devB.t.tag 0 0xFFFF00FFFFFFFE needR) cPAGE = true ∧
    issues (.role (.imm 0)) devB = true ∧ issues (.role (.imm 7)) devB = true ∧
    (devB.t.desc.roles.getD 0 ⟨0, 0⟩).win = 256 ∧ (devB.t.desc.roles.getD 7 ⟨0, 0⟩).win = 0 ∧
    devB.g.em = devB.g.live ∧ passed (firstBusy devB devB.g.uid (devB.g.closed + 1)) (devB.g.closed % 2 ^ 16) = true ∧
    passed (firstBusy (devBusy 0) dev.g.uid 1) 0 = false ∧ issues (.role (.imm 0)) (devBusy 0) = true := by decide +kernel

/-- The scratchpad address 0xFF00 in g2, a mapped page in g4:g5, an object in g8, its number of arrivals as in `devB`. -/
def devE : State := withObj 0xF0 ⟨0, 0, 2, 1, 3, 0x8000⟩
  (devG [(2, 0xFF00), (3, 0xFF01), (4, 0x40000), (6, 16), (7, 0xFF04), (8, 0xF0)])

/-- What `acp` and `amc` meet at issue, one row of n bytes at p and at gl (R215, R216). -/
def copyCauses (s : State) (p gl n : Nat) (bar : Option Nat) (out valid : Bool) : Option FaultInfo :=
  firstCause ((if p % 4 ≠ 0 ∨ gl % 4 ≠ 0 then [cMISALIGN] else []) ++ padCauses s.t p n ++ nameCauses s.t bar none valid ++
    lockCauses s [⟨out, true, 0, gl, gl + n - 1⟩, ⟨!out, false, s.t.uid, p, p + n - 1⟩])

/-- CopyIssueResults: the last 256 bytes of the scratchpad, four more bytes, an address that is not aligned; a core mask of 15 and of 16. -/
theorem witness_copy_issue :
    ([.acp hdr false false (.g 2) (.g 4) (.g 8) .zero 256 0 0 0, .acp hdr false false (.g 7) (.g 4) .zero .zero 256 0 0 0,
      .acp ⟨off, false, false⟩ false false (.g 2) (.g 4) .zero .zero 256 0 0 0, .amc hdr (.g 2) (.imm 15) (.g 8) .zero 256,
      .amc hdr (.g 2) (.imm 16) .zero .zero 256, .amc hdr (.g 3) (.imm 15) .zero .zero 256] : List Instr).all (issues · devE) = true ∧
    globSpan 0x40000 0 1 256 = (0x40000, 0x400FF) ∧ nameOf devE.g (.g 8) = some 0xF0 ∧
    copyCauses devE 0xFF00 0x40000 256 (some 0xF0) false true = none ∧
    copyCauses devE 0xFF04 0x40000 256 none false true = some { cause := cPADB } ∧
    firstCause (padCauses devE.t 0xFF00 256 ++ nameCauses devE.t (some 0xF0) none false ++
      lockCauses devE (⟨false, false, devE.t.uid, 0xFF00, 0xFFFF⟩ ::
        ((amcTargets devE 15).filter (·.2.1 != 0)).map fun t => ⟨true, false, t.2.1, 0xFF00, 0xFFFF⟩)) = none ∧
    firstCause ([cMISALIGN] ++ padCauses devE.t 0xFF01 256) = some { cause := cMISALIGN } := by decide +kernel

/-- The team holds the tiles 0 and 511 of core 0; others hold none. A lease 7 of 4 tiles stands on core 1. -/
def devZ (starve : Bool) : State :=
  let s := updFn 2 (fun f => { f with tok := { f.tok with starving := starve, bal := if starve then 0 else 1 } }) dev
  { s with t := { s.t with desc := { s.t.desc with pad := 0x10000, ztiles := 1 }, tiles := [⟨0, 0, [], []⟩, ⟨0, 511, [], []⟩] },
           g := { s.g with regs := { s.g.regs with g := [(2, 511), (3, 0x70003), (4, 512), (5, 64), (6, 65), (8, 0xC000), (9, 0xC001)] } },
           leases := [⟨7, 1, 2, 4, [], 1000, 0⟩] }

def isErr {ε α : Type} (r : Except ε α) : Bool := match r with | .error _ => true | .ok _ => false

/-- TileResults: the names 511 and 512; the last tile of a lease, of a tenant that starves or not; a count of 0; 63 tiles beyond the
reservation, which fit, and 64 and 0, which do not. -/
theorem witness_tiles :
    ([.zclr hdr (.g 2) (.imm 1), .zclr hdr (.g 2) (.imm 2), .zclr hdr (.g 2) (.imm 0), .zclr hdr (.g 3) (.imm 1),
      .zfree hdr (.g 2) (.imm 1), .zfree hdr (.g 2) (.imm 2), .zfree hdr (.g 3) (.imm 1), .zgrow hdr (.g 10) (.imm 63),
      .zgrow hdr (.g 10) (.g 5), .zgrow hdr (.g 10) (.imm 0), .zclr ⟨off, false, false⟩ (.g 2) (.imm 1)] : List Instr).all
      (fun i => issues i (devZ false) && issues i (devZ true)) = true ∧
    isErr (tileRange (devZ false) 511 1) = false ∧ isErr (tileRange (devZ false) 511 2) = true ∧
    isErr (tileRange (devZ false) 0x70003 1) = false ∧ leaseHeld (devZ false) 2 0x70003 = false ∧
    leaseHeld (devZ true) 2 0x70003 = true ∧ leaseHeld (devZ false) 2 511 = false ∧
    freeNames (devZ false).t 0 63 = some 1 ∧ tilesUsed (devZ false) 0 = 2 ∧ tilesBeyond (devZ false) 0 = 1 ∧
    tilesBeyond { devZ false with t := { (devZ false).t with
      tiles := (devZ false).t.tiles ++ (List.range 63).map fun i => ⟨0, 1 + i, [], []⟩ } } 0 = 64 ∧
    tilesBeyond { devZ false with t := { (devZ false).t with
      tiles := (devZ false).t.tiles ++ (List.range 64).map fun i => ⟨0, 1 + i, [], []⟩ } } 0 = 65 := by decide +kernel

/-- RowTransferResults: a tile at the last 16 KiB of the scratchpad, one that does not fit, a tile that is not held, a lease tile of a
tenant that starves. -/
theorem witness_row_transfer :
    ([.zld hdr (.g 2) (.g 8), .zld hdr (.g 2) (.g 9), .zld hdr (.g 4) (.g 8), .zld hdr (.g 3) (.g 8), .zprg hdr (.g 10) (.g 2),
      .zprg hdr (.g 10) (.g 4), .zdrn hdr false .f32 (.g 2) (.g 8) .zero true 0 63 63 0 0 256,
      .zdrn hdr false .f32 (.g 3) (.g 8) .zero true 0 63 63 0 0 256] : List Instr).all
      (fun i => issues i (devZ false) && issues i (devZ true)) = true ∧
    isErr (tileOf (devZ false) 511) = false ∧ isErr (tileOf (devZ false) 512) = true ∧ isErr (tileOf (devZ true) 0x70003) = false ∧
    firstCause (padCauses (devZ false).t 0xC000 16384 ++
      lockCauses (devZ false) [⟨false, false, (devZ false).t.uid, 0xC000, 0xFFFF⟩]) = none ∧
    firstCause ([cMISALIGN] ++ padCauses (devZ false).t 0xC001 16384) = some { cause := cMISALIGN } ∧
    drnSpan 64 64 256 .f32 = 16384 ∧
    firstCause (padCauses (devZ false).t 0xC000 16384 ++
      lockCauses (devZ false) [⟨true, false, (devZ false).t.uid, 0xC000, 0xFFFF⟩]) = none := by decide +kernel

/-- The gang of `devGang` in k3, with the second group held at the latch or not there yet; tile 0 is held. -/
def devMma (there : Bool) : State :=
  let s := devGang
  let k := setAt s.g.k 3 ⟨true, 0x02100000⟩
  let arr : MmaArrive := ⟨0x10000, 0, 0x10000, 0x02100000, 0, false, 0, 0x400, 0, 0, 0, true⟩
  { s with g := { s.g with k := k, regs := { s.g.regs with g := [(4, 0), (6, 0x400)] } },
           gs := s.gs.map fun x => if there then { x with k := k, stat := .held, arrive := some arr } else { x with k := k },
           t := { s.t with tiles := [⟨0, 0, [], []⟩], latches := if there then [⟨0x02100000, [1]⟩] else [] } }

/-- MatrixArrivalResults: the first arrival, the last, whose checks pass, a gang register that is not valid, a gang whose other group has
ended, which the arrival finds after it has broken the latches that wait for the group. -/
theorem witness_mma :
    let i : Instr := .mma false 3 (.g 4) (.v 0) (.g 6) 0 0 0 true
    let s := devMma true
    let rel := releaseWait (begun i s)
    let arr : MmaArrive := ⟨s.g.startOfRun, s.g.runPos, s.g.pc, 0x02100000, 0, false, 0, 0x400, 0, 0, 0, true⟩
    let held : Group := { rel.g with stat := .held, arrive := some arr, pc := (match toEnc i with | some e => afterPc e s | none => 0) }.endRun
    let b : State := { rel with g := held, t := { s.t with latches := [] } }
    let gone : State := { s with gs := s.gs.map fun x => { x with stat := .ended } }
    let freed (s : State) : State := withBroken s.g.uid (breakLatches s.g.gidx (some 0x02100000) (releaseWait (begun i s)))
    issues i s = true ∧ issues i (devMma false) = true ∧ issues (.mma false 2 (.g 4) (.v 0) (.g 6) 0 0 0 true) s = true ∧ issues i gone = true ∧
    mmaOpf s false ⟨true, 0x02100000⟩ (.g 4) (.v 0) (.g 6) = 0 ∧ mmaOpf s false ⟨false, 0⟩ (.g 4) (.v 0) (.g 6) = 1 ∧
    listsEnded s 0x02100000 = false ∧ listsEnded (devMma false) 0x02100000 = false ∧ listsEnded (freed gone) 0x02100000 = true ∧
    (gangMembers 0x02100000).all ([0] : List Nat).contains = false ∧ (gangMembers 0x02100000).all ([1, 0] : List Nat).contains = true ∧
    (s.t.latches.all fun l => l.gang == 0x02100000) = true ∧ (devMma false).t.latches = [] ∧ (gangGroups b 0x02100000).head? = some held ∧
    (match rendezvous b 0x02100000 arr with | .ok _ => true | .error _ => false) = true := by decide +kernel

/-- The same with uniform registers, or with the scratchpad, as given. -/
def withG (g : Cells 32) (s : State) : State := { s with g := { s.g with regs := { s.g.regs with g := g } } }
def withPad (f : Cells 8 → Cells 8) (s : State) : State := { s with t := { s.t with pad := f s.t.pad } }

/-- As `devT`, the slot of the queue's pool held by the team; the node's slot too. The record of the node has no entry of its own. -/
def devH : State :=
  let s := updFn 2 (fun f => { f with ctx := some { ctxT with
    pools := [⟨0x40000, 1, .queue, [(0, .held 2)]⟩, ⟨0x41000, 1, .node 0, [(0, .held 2)]⟩] } }) devT
  withPad (fun p => pokeBytes p 0xF0 16 (BObj.num ⟨0, 0, 2, 1, 3, 0x8000⟩)) (withG
    [(2, 0xFF000000), (3, 0x0F000001), (4, 0x40000), (6, 0x41000), (8, 0x0E000000), (9, 0x10000), (10, 0x40001), (12, 0x44000), (14, 2),
     (16, 0x10000001), (18, 0x40000000), (22, 0xFFFF)] s)

/-- TaskInstructionResults, `talc`: a pool with a free slot and one without, no object, the last object, one that is not valid, one that
is not there, a handle with reserved bits, a pool that is not there; 16 monitors in use. -/
theorem witness_talc :
    ([.talc hdr (.g 20) (.g 2), .talc hdr (.g 20) (.g 3), .talc hdr (.g 20) (.g 8), .talc hdr (.g 20) (.g 9), .talc hdr (.g 20) (.g 14),
      .talc hdr (.g 20) (.g 16), .talc ⟨off, false, false⟩ (.g 20) (.g 2)] : List Instr).all (fun i => issues i devH && issues i devT) = true ∧
    (src32 devH.g (.g 2) 0).toNat = 0xFF000000 ∧ (src32 devH.g (.g 3) 0).toNat = 0x0F000001 ∧ (src32 devH.g (.g 9) 0).toNat = 0x10000 ∧
    devH.g.active ⟨7, false⟩ ≠ 0 ∧ devH.g.active off = 0 ∧ (poolsOf devH 2).length = 2 ∧
    ((poolsOf devT 2)[0]?.any fun p => p.free == [0]) = true ∧ slotAt devT 2 0x40000 = some (0, 0) ∧
    ((poolsOf devH 2)[0]?.any fun p => p.free == []) = true ∧ ((poolsOf devH 2)[1]?.any fun p => p.free == []) = true ∧
    bits 0x0F000001 24 8 < devH.t.desc.barriers ∧ devH.t.desc.barriers ≤ bits (src32 devH.g (.g 16) 0).toNat 24 8 ∧
    (getObj devH.t 0xF0).valid = true ∧ (getObj devH.t 0xE0).valid = false ∧ bits 0x10000 16 8 ≠ 0 ∧
    monsUsed { devH with mons := (devMon 16).mons } (coreOf devH.t devH.g) = 16 := by decide +kernel

/-- `tsub`: to a queue, parked, to a node; a slot that is not aligned, not held, a handle that names no node, a record that cannot be
read or is poisoned, one that passes and one that does not. -/
def tsubI (gd : Guard) (node : Bool) (a b : Opnd) : Instr := .tsub ⟨gd, false, false⟩ node .dev a b

/-- The pool of queues stands behind the page; the slot of `devH` is poisoned. -/
def devFar : State :=
  let s := updFn 2 (fun f => { f with ctx := some { ctxT with pools := [⟨0x40000000, 1, .queue, [(0, .held 2)]⟩] } }) devH
  withG [(4, 0x40000000)] s
def devPois : State := { devH with mem := { devH.mem with pois := [(0x40000 / 128, 1)] } }

theorem witness_tsub :
    ([tsubI ⟨7, false⟩ false (.g 4) (.imm 0), tsubI ⟨7, false⟩ false (.g 4) (.g 22), tsubI ⟨7, false⟩ true (.g 6) (.imm 0), tsubI ⟨7, false⟩ true (.g 10) (.imm 0),
      tsubI ⟨7, false⟩ true (.g 6) (.imm 1), tsubI off false (.g 4) (.imm 0)] : List Instr).all
      (fun i => issues i devH && issues i devT && issues i devFar && issues i devPois) = true ∧
    (src32 devH.g (.g 22) 0).toNat = 0xFFFF ∧ (srcU devH.g true (.g 4)).toNat = 0x40000 ∧ (srcU devH.g true (.g 6)).toNat = 0x41000 ∧
    slotState devH 2 0x40000 = some (.held 2) ∧ slotState devH 2 0x41000 = some (.held 2) ∧ slotState devT 2 0x40000 ≠ some (.held 2) ∧
    slotState devFar 2 0x40000000 = some (.held 2) ∧ slotState devPois 2 0x40000 = some (.held 2) ∧ 0x40001 % 64 ≠ 0 ∧
    tsubTarget devH false 0 0x40000 = some none ∧ tsubTarget devH false 0xFFFF 0x40000 = some none ∧
    tsubTarget devH true 0 0x41000 = some (some 0x1000) ∧ tsubTarget devH true 1 0x41000 = none ∧
    tsubTarget devFar false 0 0x40000000 = some none ∧ tsubTarget devPois false 0 0x40000 = some none ∧
    isErr (vBytes (begun (tsubI ⟨7, false⟩ false (.g 4) (.imm 0)) devFar) 2 0x40000000 needR 64) = true ∧
    (vBytes (begun (tsubI ⟨7, false⟩ false (.g 4) (.imm 0)) devPois) 2 0x40000 needR 64).isOk = true ∧
    vPoison (begun (tsubI ⟨7, false⟩ false (.g 4) (.imm 0)) devPois) 2 0x40000 64 = true ∧
    (match vBytes (begun (tsubI ⟨7, false⟩ false (.g 4) (.imm 0)) devH) 2 0x40000 needR 64 with
     | .ok r => recordOk r 0 false none && recordOk r 0xFFFF true none && !recordOk r 1 false none
     | .error _ => false) = true ∧
    (match vBytes (begun (tsubI ⟨7, false⟩ true (.g 6) (.imm 0)) devH) 2 0x41000 needR 64 with
     | .ok r => recordOk r 0 false (some 0x1000)
     | .error _ => false) = true ∧
    vPoison (begun (tsubI ⟨7, false⟩ false (.g 4) (.imm 0)) devH) 2 0x40000 64 = false ∧
    vPoison (begun (tsubI ⟨7, false⟩ true (.g 6) (.imm 0)) devH) 2 0x41000 64 = false := by decide +kernel

/-- `tsig`: a counter of n that names the record at 0x40000, whose slot has the state given. -/
def devSig (n : Nat) (st : SlotSt) : State :=
  updFn 2 (fun f => { f with ctx := some { ctxT with pools := [⟨0x40000, 1, .queue, [(0, st)]⟩, ⟨0x41000, 1, .node 0, []⟩] } })
    (put 0x44000 (n + 0x40000 * 2 ^ 64) devH)

def tsigI (gd : Guard) : Instr := .tsig ⟨gd, false, false⟩ .dev (.g 12)

/-- A counter of 2, of 1 with its record parked and not, of 0, an address that is not aligned, a counter that cannot be read, one that is
poisoned. -/
theorem witness_tsig :
    ([tsigI ⟨7, false⟩, .tsig hdr .grp (.g 10), .tsig hdr .grp (.g 18), tsigI off] : List Instr).all
      (fun i => issues i (devSig 0 .parked) && issues i (devSig 1 .parked) && issues i (devSig 2 .parked)) = true ∧
    (srcU devH.g true (.g 12)).toNat = 0x44000 ∧ (srcU devH.g true (.g 10)).toNat % 16 ≠ 0 ∧ (srcU devH.g true (.g 18)).toNat = 0x40000000 ∧
    coreOf devH.t devH.g = 0 ∧ failsWith (xlate (begun (tsigI ⟨7, false⟩) (devSig 0 .parked)) 2 0 0x40000000 needRW) cPAGE = true ∧
    ([0, 1, 2].all fun n =>
      let b := begun (tsigI ⟨7, false⟩) (devSig n .parked)
      match xlate b 2 0 0x44000 needRW with
      | .ok x => gRead b x 4 == n && !gPoison b x 0 && x.target == 0
      | .error _ => false) = true ∧
    (let s := devSig 1 .parked
     let b := begun (tsigI ⟨7, false⟩) { s with mem := { s.mem with pois := [(0x44000 / 128, 1)] } }
     match xlate b 2 0 0x44000 needRW with
     | .ok x => gPoison b x 0
     | .error _ => false) = true ∧
    (let s := devSig 1 .parked
     let b := begun (tsigI ⟨7, false⟩) s
     match xlate b 2 0 0x44000 needRW with
     | .ok x =>
       let w := counterMerge (gRead b { x with addr := x.addr + 4 } 4) (bindOf s.t 0 .dev)
       let u := tlbPut x.ent (gWrite { x with addr := x.addr + 4 } w 4 (gWrite x 0 4 b))
       gRead b { x with addr := x.addr + 8 } 8 == 0x40000 && !vPoison u 2 0x40000 64 &&
       (match vBytes u 2 0x40000 needR 64 with
        | .ok raw => bits (recQds raw) 0 16 == 0 && recordOk raw 0 true none
        | .error _ => false)
     | .error _ => false) = true ∧
    slotState (devSig 1 .parked) 2 0x40000 = some .parked ∧ poolKindAt (devSig 1 .parked) 0x40000 = some (0, .queue) ∧
    slotState (devSig 1 .submitted) 2 0x40000 = some .submitted ∧ ((getFn (devSig 1 .parked) 2).ctx.any fun c => c.queues.length == 1) = true := by
  decide +kernel

theorem witness_task_untraced : Untraced (devSig 2 .parked) := untraced_of (by decide +kernel) _

/-- A coverage descriptor at 0x1000 of 2 by 2 tiles for node 0, and the batch of one triangle that ends the scratchpad. -/
def devC : State :=
  withPad (fun p => pokeBytes (pokeBytes p 0x1008 4 0x10001) 0x1018 4 0x100010)
    (withG [(2, 0x1000), (3, 0xFFD0), (4, 1), (5, 0x1001), (6, 0xFFE0)] devH)

/-- CoverageAndBeamIssueResults, `covr`: a batch of one triangle and an empty one; not aligned; one that does not fit; object 255 and the
last object. -/
theorem witness_covr :
    ([.covr hdr (.g 2) (.g 3) (.g 4) 255, .covr hdr (.g 2) (.g 3) (.imm 0) 255, .covr hdr (.g 5) (.g 3) (.g 4) 255,
      .covr hdr (.g 2) (.g 6) (.g 4) 255, .covr hdr (.g 2) (.g 3) (.g 4) 15, .covr ⟨off, false, false⟩ (.g 2) (.g 3) (.g 4) 255] :
      List Instr).all (issues · devC) = true ∧
    0xFFD0 + 48 * 1 = devC.t.desc.pad ∧ devC.t.desc.pad < 0xFFE0 + 48 * 1 ∧ covrDescOk devC.t 0x1000 = true ∧
    isNode devC 2 (padRead devC.t 0x1000 4) = true ∧ 16 * devC.t.desc.barriers ≤ 0x1000 ∧
    lockCauses devC [⟨false, false, devC.t.uid, 0xFFD0, 0xFFFF⟩] = [] ∧ padMark devC.t 0x1000 32 = false ∧
    (getObj devH.t (16 * 15)).valid = true := by decide +kernel

/-- A live query in slot n of core 0. -/
def liveQuery (n : Nat) : Query :=
  { uid := 60 + n, core := 0, slot := n, seq := 0, grp := 1, team := 2, gid := 0, gen := 0, obj := none, node := 0, brec := [],
    root := 0, live := true, st := 0, cause := 0, spawns := 0, held := false, beams := [], owed := 0, unresolved := false, batches := [], seen := [], sig := 0 }

/-- A beam record at the end of the scratchpad, its results at 0x50000. -/
def devBq (busy : Nat) : State :=
  let s := withPad (fun p => pokeBytes p 0xFFF8 4 0x50000)
    (withG [(2, 0xFFC0), (3, 0xFFC1), (4, 0x60000), (6, 0x04000000), (7, 0x03000000), (8, 0x41)] devC)
  { s with queries := (List.range busy).map liveQuery }

theorem query_slot_free {s : State} {core : Nat}
    (h : ((List.range 64).any fun n => !s.queries.any fun q => q.core == core && q.slot == n && q.live) = true) :
    freeQuerySlot s core ≠ none := by
  unfold freeQuerySlot
  have hl : 0 < ((List.range 64).filter fun n => !s.queries.any fun q => q.core == core && q.slot == n && q.live).length := by
    obtain ⟨n, hn, hp⟩ := List.any_eq_true.1 h
    exact List.length_pos_of_mem (List.mem_filter.2 ⟨hn, hp⟩)
  simp only [ne_eq, List.getElem?_eq_none_iff, Nat.not_le]
  exact Nat.mod_lt _ hl

/-- `bqry` with 63 and 64 queries live, and one whose record is not aligned; `bres` of a query, of none, of a handle with reserved
bits and of core 12. -/
theorem witness_beam :
    ([.bqry hdr (.g 20) (.g 2) (.g 4) .zero 0, .bqry hdr (.g 20) (.g 3) (.g 4) .zero 0, .bres hdr (.g 20) (.g 6), .bres hdr (.g 20) (.g 7),
      .bres hdr (.g 20) (.g 8), .bres hdr (.g 20) (.g 10), .bqry ⟨off, false, false⟩ (.g 20) (.g 2) (.g 4) .zero 0] : List Instr).all
      (issues · (devBq 63)) = true ∧
    bqryFault (devBq 63) 0xFFC0 0x60000 none 0 = none ∧ bqryFault (devBq 63) 0xFFC1 0x60000 none 0 = some { cause := cMISALIGN } ∧
    freeQuerySlot (devBq 64) 0 = none ∧ bits 0x04000000 26 6 ≠ 0 ∧ bits 0x03000000 22 4 = 12 ∧
    ((devBq 63).queries.any fun q => q.core == 0 && q.slot == 0 && q.seq.toNat == 0) = true := by decide +kernel

theorem witness_beam_slot : freeQuerySlot (devBq 63) 0 ≠ none := query_slot_free (by decide +kernel)

/-- Descriptors: of a 2-D float32 texture of 4 by 4 texels at 0x48000, of one whose texels have no page, of none; of a point sampler
that clamps, of none. The page behind holds no descriptor. -/
def texDesc (base : Nat) : Nat := base + 3 * 2 ^ 64 + 3 * 2 ^ 78 + 1 * 2 ^ 108 + 15 * 2 ^ 110
def devTex : State :=
  withG [(2, 0x46000), (4, 0x46020), (6, 0x46001), (8, 0x47000), (10, 0x47020), (12, 0x47040), (14, 0x40000000)]
    (put 0x47040 (texDesc 0x40000000) (put 0x47020 64 (put 0x47000 (2 ^ 56) (put 0x46020 (2 ^ 12 * 2 + 2 ^ 16 * 2) (put 0x46000 (texDesc 0x48000) devT)))))

/-- `smp` with its texture, its coordinates and its sampler. -/
def smpI (gd : Guard) (a b c : Opnd) : Instr := .smp ⟨gd, false, false⟩ 1 .lod (.v 4) a b c 0 0 0
def tldI (gd : Guard) (a b : Opnd) : Instr := .tld ⟨gd, false, false⟩ 1 (.v 4) a b

/-- The two descriptors as `smp` and `tld` read them. -/
def descrs (s : State) (ta sa : Nat) : Option (Nat × Nat) :=
  match readDescr s ta 32, readDescr s sa 16 with
  | .ok td, .ok sd => some (td.1, sd.1)
  | _, _ => none

/-- The accesses of the taps of the lanes. -/
def smpSpots (s : State) (td sd : Nat) : Option (List (Nat × Nat × Except (List Nat) Spot)) :=
  match Tex.parse td with
  | none => none
  | some t => match Samp.parse sd t with
    | none => none
    | some sm => some ((lanesOf (s.g.active ⟨7, false⟩)).flatMap fun l =>
        tapSpots s t l (laneTaps t sm .lod (coordAt s.g (.v 8)) [0, 0, 0] l (64 * s.fresh)))

/-- A coordinate of lane 0 is marked. -/
def devTexM : State := { devTex with g := { devTex.g with regs := { devTex.g.regs with vm := [(64 * 9, 1)] } } }

/-- TexelResults, `smp`: texel (0, 0) of level 0; an address that is not aligned; descriptors that cannot be read, the texture's, the
sampler's, both; descriptors that break their rules; coordinates beyond the window or marked; a texel that cannot be read; no lane. -/
theorem witness_smp :
    ([smpI ⟨7, false⟩ (.g 2) (.v 8) (.g 4), smpI ⟨7, false⟩ (.g 6) (.v 8) (.g 4), smpI ⟨7, false⟩ (.g 2) (.v 8) (.g 6),
      smpI ⟨7, false⟩ (.g 14) (.v 8) (.g 14), smpI ⟨7, false⟩ (.g 14) (.v 8) (.g 4), smpI ⟨7, false⟩ (.g 2) (.v 8) (.g 14),
      smpI ⟨7, false⟩ (.g 8) (.v 8) (.g 4), smpI ⟨7, false⟩ (.g 2) (.v 8) (.g 10), smpI ⟨7, false⟩ (.g 2) (.v 255) (.g 4),
      smpI ⟨7, false⟩ (.g 12) (.v 8) (.g 4), smpI off (.g 2) (.v 8) (.g 4)].all fun i => issues i devTex) = true ∧
    issues (smpI ⟨7, false⟩ (.g 2) (.v 8) (.g 4)) devTexM = true ∧
    devTex.g.active ⟨7, false⟩ ≠ 0 ∧ devTex.g.active off = 0 ∧ 0x46001 % 32 ≠ 0 ∧ 0x46001 % 16 ≠ 0 ∧
    (let x := begun (smpI ⟨7, false⟩ (.g 2) (.v 8) (.g 4)) devTex
     isErr (readDescr x 0x40000000 32) && isErr (readDescr x 0x40000000 16) && (descrs x 0x46000 0x46020).isSome &&
     (match descrs x 0x47000 0x46020 with | some (td, _) => (Tex.parse td).isNone | none => false) &&
     (match descrs x 0x46000 0x47020 with
      | some (td, sd) => match Tex.parse td with | some t => (Samp.parse sd t).isNone | none => false
      | none => false) &&
     (match descrs x 0x46000 0x46020 with
      | some (td, sd) => match Tex.parse td, smpSpots x td sd with
        | some t, some rs => t.coords == 2 && (laneFault false rs).isNone && (laneSpots rs).all fun p => match p.2.2.xl with | some y => y.target == 0 | none => true
        | _, _ => false
      | none => false) &&
     (match descrs x 0x47040 0x46020 with
      | some (td, sd) => match smpSpots x td sd with | some rs => (laneFault false rs).isSome | none => false
      | none => false)) = true ∧
    inWindow devTex.t devTex.g (.v 8) 3 = true ∧ inWindow devTex.t devTex.g (.v 255) 3 = false ∧
    coordMark devTex.g (.v 8) 3 (devTex.g.active ⟨7, false⟩) = none ∧ coordMark devTexM.g (.v 8) 3 (devTexM.g.active ⟨7, false⟩) = some 0 := by
  decide +kernel

/-- `tld`, the same way, inside the level and outside it. -/
theorem witness_tld :
    ([tldI ⟨7, false⟩ (.g 2) (.v 8), tldI ⟨7, false⟩ (.g 6) (.v 8), tldI ⟨7, false⟩ (.g 14) (.v 8), tldI ⟨7, false⟩ (.g 8) (.v 8),
      tldI ⟨7, false⟩ (.g 2) (.v 255), tldI ⟨7, false⟩ (.g 12) (.v 8), tldI off (.g 2) (.v 8)].all fun i => issues i devTex) = true ∧
    issues (tldI ⟨7, false⟩ (.g 2) (.v 8)) devTexM = true ∧
    (let x := begun (tldI ⟨7, false⟩ (.g 2) (.v 8)) devTex
     isErr (readDescr x 0x40000000 32) &&
     (match readDescr x 0x47000 32 with | .ok td => (Tex.parse td.1).isNone | .error _ => false) &&
     ([0x46000, 0x47040].all fun va => match readDescr x va 32 with
       | .ok td => match Tex.parse td.1 with
         | some t => t.coords == 2 && t.levels == 1 && t.size 0 0 == 4 &&
             (laneFault false (texSpots x t 0 [⟨0, 0, 0, 0⟩])).isNone == (va == 0x46000) &&
             (va != 0x46000 || (laneSpots (texSpots x t 0 [⟨0, 0, 0, 0⟩])).all fun p => match p.2.2.xl with | some y => y.target == 0 | none => true)
         | none => false
       | .error _ => false)) = true ∧
    coordAt devTex.g (.v 8) 0 0 = 0 ∧ devTex.g.active ⟨7, false⟩ = 1 := by decide +kernel

theorem witness_texel_untraced : Untraced devTex := untraced_of (by decide +kernel) _

/-- ObservationResults: the last eligible bin and the one past it; a trace unit that records TYPE 0x40, with room. -/
def devTr : State :=
  let k := trKey 2 0 0
  let s := withG [(2, 0x1010), (3, 0x1011), (4, 0)] devT
  { s with obs := poke (poke (poke s.obs k (BitVec.allOnes 64)) (k + 8) 0x4A000) (k + 0x10) 4096 }

theorem witness_observe :
    ([.ctrd hdr (.g 20) (.g 2), .ctrd hdr (.g 20) (.g 3), .mark hdr (.g 4) .zero, .mark ⟨off, false, false⟩ (.g 4) .zero] : List
      Instr).all (fun i => issues i devTr && issues i devT) = true ∧
    (counterAt devTr 0x1010).isSome = true ∧ counterAt devTr 0x1011 = none ∧ trEnabled devTr 2 0 0x40 = true ∧
    trEnabled devT 2 0 0x40 = false ∧ peek devTr.trLost 128 = 0 ∧ trTag devTr 2 0 = 2 ∧
    (trStore 2 0 (trBytes 0x40 0 0 0 1 0) devTr).isSome = true := by decide +kernel

/-- The outcome of the checks at issue. -/
def found (i : Instr) (s : State) : Option FaultInfo := (toEnc i).bind fun e => issueFault e s

/-- IssueChecks: an OPC that is not assigned, a SUB that is not, a field with bad contents, `.run` at position 3, an instruction that a
shadow context does not allow, two failing specifiers, a marked element in lane 31, and none of these. -/
theorem witness_issue_checks :
    rowOf 0x5B = none ∧ found (.gst hdr .global .dflt .i8 (.g 4) (.g 2) .zero (.short 0)) dev = some { cause := cILLOPC } ∧
    found (.mulh hdr .i16 (.v 4) (.v 1) (.v 2)) dev = some { cause := cILLENC } ∧
    found (.nop true) { dev with g := { dev.g with runPos := 3 } } = some { cause := cILLENC } ∧
    found (.role (.imm 0)) (devSh .trap) = some { cause := cILLOPERAND } ∧
    found (.gadd hdr .i32 false (.g 4) (.v 2) (.imm 1)) (devSh .trap) = some { cause := cILLOPERAND, opf := 2 } ∧
    found (.gadd hdr .i32 false (.imm 4) (.v 2) (.imm 1)) dev = some { cause := cILLOPERAND, opf := 3 } ∧
    found (.add hdr .i32 false (.v 4) (.v 1) (.v 1)) { dev with g := { dev.g with regs := { dev.g.regs with vm := [(64 + 31, 1)] } } }
      = some { cause := cECC, lane := 31 } ∧
    found (.add hdr .i32 false (.v 4) (.v 1) (.v 1)) dev = none := by decide +kernel

/-- With a trap handler, or a debugger attached to cluster 0. -/
def devTrap : State := { dev with t := { dev.t with desc := { dev.t.desc with handler := 0x8000 } } }
def devDbg : State := { dev with obs := poke dev.obs (obsKey 2 0 0x8000) 1 }

/-- FaultEntersHandler and FaultWithoutHandlerResults: a handler, none, a shadow context, a debugger. -/
theorem witness_faults :
    cSPLIT ≠ cPAGE ∧ devTrap.t.desc.handler ≠ 0 ∧ devTrap.g.sh = none ∧ devTrap.obs = [] ∧ cSPLIT ≠ cECC ∧
    dev.t.desc.handler = 0 ∧ (devSh .trap).g.shadowed = true ∧ dev.t.latches = [] ∧
    attached dev 2 (clusterOf (coreOf dev.t dev.g)) = false ∧
    dev.g.shadowed = false ∧ attached devDbg devDbg.t.tag (clusterOf (coreOf devDbg.t devDbg.g)) = true := by decide +kernel

/-- A group at an address with the 16 bytes there. -/
def devAt (pc : Nat) (w : Nat) : State := beginNow { put pc w dev with g := { dev.g with pc := BitVec.ofNat 56 pc } }

/-- The agenda is empty, and the group is about to fetch. -/
def free (s : State) : Bool := s.agenda == [] && ready s

def fetched (s : State) (i : Nat) (w : Word) : Bool := match fetchAt s i with | .ok x => x == w | .error _ => false

/-- StepRunsDecoded: the `gadd` of R149 in the last two words of a fetch block, an instruction of four words. -/
theorem witness_step_runs :
    free (devAt 0x10018 0x0B03644090497110) = true ∧
    fetched (devAt 0x10018 0x0B03644090497110) 0 0x90497110 = true ∧ fetched (devAt 0x10018 0x0B03644090497110) 1 0x0B036440 = true ∧
    isPadLen 0x90497110 = false ∧ 0x10018 % 32 + 4 * ((BitVec.extractLsb' 0 2 (0x90497110#32)).toNat + 2) = 32 ∧
    free (devAt 0x10010 (0x1B010542AC007B12 + 4 * 2 ^ 64)) = true ∧
    fetched (devAt 0x10010 (0x1B010542AC007B12 + 4 * 2 ^ 64)) 0 0xAC007B12 = true ∧
    fetched (devAt 0x10010 (0x1B010542AC007B12 + 4 * 2 ^ 64)) 1 0x1B010542 = true ∧
    fetched (devAt 0x10010 (0x1B010542AC007B12 + 4 * 2 ^ 64)) 2 4 = true ∧
    fetched (devAt 0x10010 (0x1B010542AC007B12 + 4 * 2 ^ 64)) 3 0 = true ∧
    0x10010 % 32 + 4 * ((BitVec.extractLsb' 0 2 (0xAC007B12#32)).toNat + 2) = 32 := by decide +kernel

theorem witness_step_decodes :
    decode 0x90497110 0x0B036440 0 0 = .ok (.gadd hdr .n32 true (.g 4) (.g 2) (.imm 100)) ∧
    decode 0xAC007B12 0x1B010542 4 0 = .ok (.tsub hdr true .dev (.g 10) (.g 5)) := ⟨rfl, rfl⟩

/-- At address 0 in a context that a match entry entered. -/
def devNull : State := { devSh .pcMatch with g := { (devSh .pcMatch).g with pc := 0 } }

/-- FetchFaults: a pad word with other bits set; two words that start in the last word of a block; the fetch that a match entry of
handler 0 leads to. -/
theorem witness_fetch_faults :
    free (devAt 0x10000 0x13) = true ∧ fetched (devAt 0x10000 0x13) 0 0x13 = true ∧ isPadLen 0x13 = true ∧
    free (devAt 0x1001C 0x0B03644090497110) = true ∧ fetched (devAt 0x1001C 0x0B03644090497110) 0 0x90497110 = true ∧
    32 < 0x1001C % 32 + 4 * ((BitVec.extractLsb' 0 2 (0x90497110#32)).toNat + 2) ∧
    free devNull = true ∧ devNull.g.pc = 0 ∧ devNull.g.sh.map (·.kind) = some .pcMatch := by decide +kernel

/-- A pending stop, a pending hit, a match entry 31 for the PC, a wait that has passed. -/
def devStop (k : StopKind) : State := { dev with g := { dev.g with stop := some k } }
def devHit : State := { dev with g := { dev.g with hits := [(0, 0)] } }
def devMatch : State := { dev with obs := poke dev.obs (obsKey 2 0 (0x2000 + 0x20 * 31)) (dev.g.pc.zeroExtend 64 + 1) }
def devWait (ph : Nat) : State := { devB with g := { devB.g with stat := .waiting ⟨0xF0, ph, .team, none, 8, 0, false⟩ } }

/-- A second group of the scheduler, older than the one in focus, which may issue or is inside a run; one decision that the group in
focus misses; a lock entry that it lost, with 63 or 64 in use. -/
def devMate (pos : Nat) (slot : Nat) : State := { dev with gs := [{ dev.g with uid := 9, gidx := 1, slot := slot, runPos := pos }] }
def devYield : State := { dev with g := { dev.g with yielded := true } }
def devLost (n : Nat) : State :=
  { dev with g := { dev.g with lockLost := true }, gs := (List.range n).map fun i => { dev.g with uid := 100 + i, slot := 16, lockRes := true } }

/-- StepBetweenRuns, and the clauses of GroupEventResults about the boundary of a run. Whether the next instruction of a group that
comes first has been fetched, so that it is eligible, is open; one inside its run keeps the scheduler whatever that says. -/
theorem witness_boundary :
    State.reset.agenda = [] ∧ mayMove State.reset = false ∧
    mayMove (devStop .external) = true ∧ stopReady (devStop .external).g = true ∧ stopReady (devStop .halt).g = true ∧
    stopReady (devStop .watchdog).g = true ∧ mayMove devHit = true ∧ hitReady devHit.g = true ∧ stopReady devHit.g = false ∧
    mayMove devMatch = true ∧ pcMatch devMatch = some 31 ∧ hitReady devMatch.g = false ∧ stopReady devMatch.g = false ∧
    ([devHit, devMatch].all fun s => myTurn s && !s.g.lockLost && s.g.stat == .running && !s.g.yielded) = true ∧
    mayMove (devWait 2) = true ∧ (wake (devWait 2)).isSome = true ∧ (wake (devWait 3)).isSome = false ∧
    (mayMove devYield && !stopReady devYield.g && devYield.g.yielded && devYield.g.runPos == 0 && devYield.g.stat == .running) = true ∧
    ([devMate 1 0, devMate 0 0].all fun s => mayMove s && !stopReady s.g && s.g.runPos == 0 && !s.g.yielded) = true ∧
    ((mates (devMate 1 1)).any midRun) = true ∧
    (let s := { devMate 0 0 with g := { dev.g with slot := 1 } }
     (mates s).any fun p => comesFirst p (s.g, s.t) && (heldOn s p.1).isNone) = true ∧
    ([devLost 63, devLost 64].all fun s => mayMove s && !stopReady s.g && s.g.stat == .running && myTurn s && s.g.lockLost) = true ∧
    (relock (devLost 63).g.uid (devLost 63)).g.lockLost = false ∧ (relock (devLost 64).g.uid (devLost 64)).g.lockLost = true ∧
    ([devStop .external, devStop .stepped, devStop .watchdog, devHit, devMatch, devWait 2].all fun s =>
      let f := focus s.g.uid s
      f.g.uid == s.g.uid && !f.g.halted && f.t.resid == .resident && !f.g.over && f.t.latches == [] && !f.g.shadowed && f.g.stat != .parked) = true ∧
    (devHit.g.hits.find? (·.2 == 0)).isSome = true ∧
    waitPassed (devWait 2) (devWait 2).g ⟨0xF0, 2, .team, none, 8, 0, false⟩ = true ∧ (devWait 2).g.bank.stk = [] ∧
    (devWait 2).g.stop = none ∧
    waitPassed devB { devB.g with stat := .waiting ⟨objLock, 0, .team, none, 12, 0, false⟩ } ⟨objLock, 0, .team, none, 12, 0, false⟩ = true := by
  decide +kernel

/-- The agenda names a group that is not there, or an instruction as an event (EveryStepGoesOn). -/
theorem witness_agenda :
    findGroup { dev with agenda := [.issue 99] } 99 = none ∧ isEvent (.nop false) = false := by decide +kernel

/-- RetirementResults: results of a load and of a special function, a store and a port that answer. -/
def devPend : State :=
  { dev with g := { dev.g with pend := [⟨false, [4]⟩, ⟨true, [5]⟩, ⟨false, [6]⟩], unack := 1, stat := .port } }

theorem witness_retire :
    findGroup devPend devPend.g.uid = some devPend.g ∧ (devPend.g.pend.filter (!·.sfu))[1]? = some ⟨false, [6]⟩ ∧
    devPend.g.pend.find? (·.sfu) = some ⟨true, [5]⟩ ∧ 0 < devPend.g.unack ∧ devPend.g.stat = .port ∧
    findGroup dev dev.g.uid = some dev.g ∧ dev.g.stop = none ∧ dev.g.over = false := by decide +kernel

/-- A monitor of the group's team watches line 5 for the last object. -/
def devWatch : State := { devB with mons := [⟨0, 2, 0xF0, some 5, none⟩] }

theorem witness_monitor :
    (devWatch.mons.filter fun m => m.core == 0 && m.watch.isSome)[0]? = some ⟨0, 2, 0xF0, some 5, none⟩ ∧
    (devWatch.mons.filter (· == ⟨0, 2, 0xF0, some 5, none⟩)).length = 1 ∧
    ((findTeam devWatch 2).any fun p => (getObj p 0xF0).valid) = true := by decide +kernel

/-- An operation of kind k of the group's team that has done n bytes or rows; its object is the last one, its record stands at 0x200. -/
def opOf (k : OpKind) (n : Nat) : EngOp := { opIn 0 dev with kind := k, progress := n, bar := some 0xF0, crec := some 0x200 }

/-- It is in flight; the team holds tile 0. -/
def devOp (k : OpKind) (n : Nat) : State := { devB with ops := [opOf k n], t := { devB.t with tiles := [⟨0, 0, [], []⟩] } }

abbrev acp (out : Bool) (gl : Nat) : OpKind := .acp out 0xFFFC gl 4 1 0 0
abbrev amc : OpKind := .amc 0xFFFC 4 [(0, 2, 0)]
abbrev zdrn : OpKind := .zdrn 0 true .f32 true 0 0 64 0 64 0 256 0 [] []

/-- One element of tile 0 at every `er` and `ec`. -/
abbrev mmaOp : MmaOp := ⟨2, 0, 0, 0, 1, 1, 1, 0, 0, 0, 1, 1, [], [], [], [], 0⟩

/-- LandingResults: the last byte of a copy to and from the last word of the scratchpad and of the page; the first byte behind the page;
a multicast to the seat that is named; the last row of a tile. -/
theorem witness_landing :
    ([acp false 0x3FFFFFFC, acp true 0x3FFFFFFC, acp false 0x3FFFFFFD, amc, .zld 0 0xC000].all fun k =>
      padHeld (devOp k 3) 2 == false && (findOp (devOp k 3) 50 == some (opOf k 3)) && (findTeam (devOp k 3) 2).isSome) = true ∧
    (opOf amc 3).cause = 0 ∧
    (match xlate (devOp amc 3) 2 engUnit 0x3FFFFFFF needR with | .ok x => !gPoison (devOp amc 3) x 0 | .error _ => false) = true ∧
    (match xlate (devOp amc 3) 2 engUnit 0x3FFFFFFF needW with | .ok x => x.target == 0 | .error _ => false) = true ∧
    failsWith (xlate (devOp amc 3) 2 engUnit 0x40000000 needR) cPAGE = true ∧
    padMark (devOp amc 3).t 0xFFFF 1 = false ∧ (peek (devOp amc 3).gens 0).toNat = 0 ∧ (devOp amc 3).t.lives = true ∧
    (opOf (.zld 0 0xC000) 63).tileRef = some ⟨0, 2, 0, 0⟩ ∧ (getTile (devOp (.zld 0 0xC000) 63) ⟨0, 2, 0, 0⟩).isSome = true ∧
    padMark (devOp (.zld 0 0xC000) 63).t (0xC000 + 256 * 63) 256 = false := by decide +kernel

/-- CompletionResults: every kind at the end of its work, the record apart from the object, no monitor. -/
theorem witness_completion :
    ([(acp false 0x3FFFFFFC, 4), (amc, 4), (.zld 0 0xC000, 64), (zdrn, 64), (.mma mmaOp, 0)].all fun x =>
      padHeld (devOp x.1 x.2) 2 == false && findOp (devOp x.1 x.2) 50 == some (opOf x.1 x.2) && (findTeam (devOp x.1 x.2) 2).isSome &&
      findGroup (devOp x.1 x.2) (opOf x.1 x.2).grp == some devB.g && (devOp x.1 x.2).mons == [] &&
      (devOp x.1 x.2).ops.filter (·.uid == 50) == [opOf x.1 x.2] && creditable (devOp x.1 x.2).t 0xF0 &&
      (opOf x.1 x.2).cause == 0 && (opOf x.1 x.2).dropped == 0) = true ∧
    0x200 ≥ 0xF0 + 16 ∧ (opOf (.mma mmaOp) 0).tileRef = some ⟨0, 2, 0, 0⟩ ∧
    (getTile (devOp (.mma mmaOp) 0) ⟨0, 2, 0, 0⟩).isSome = true := by decide +kernel

/-- A batch of one triangle, (0, 0), (8, 0), (0, 8), that covers the one pixel of its viewport. -/
def devTri (done : Nat) : State :=
  let s := withPad (fun p => pokeBytes (pokeBytes p 0xFFDC 4 0x41000000) 0xFFEC 4 0x41000000) devC
  let s := updFn 2 (fun f => { f with ctx := some { ctxT with nodes := [⟨0x1000, 0x43000, 2, 100, 1, []⟩] } }) s
  { s with ops := [opOf (.covr 0 0 0 0 0 0 0 1 1 0xFFD0 1) done] }

/-- TraversalEventResults, coverage: the engine's next tile, with a free slot at the node; a batch that has been read. -/
theorem witness_coverage_events :
    (match covrAdvance 50 (devTri 0) with
     | (some k, s1) => k.tile == 0 && (takeSlot 2 1 .submitted s1).isSome && (findOp s1 50).isSome && (findTeam s1 2).isSome &&
         ((getFn s1 2).ctx.any fun c => (c.nodes[0]?).isSome)
     | _ => false) = true ∧
    (let s1 := (covrAdvance 50 (devTri 1)).2
     (match findOp s1 50, findTeam s1 2 with
      | some o, some p => decide (1 ≤ o.progress) && creditable p 0xF0
      | _, _ => false) && !padHeld s1 2) = true := by decide +kernel

/-- A node at 0x50000 whose one child, child 0, is the leaf at 0x50080, in a box between the planes -2 and 512 of each axis; the leaf, of
one opaque triangle that no ray hits; and a node that is malformed. -/
def rootB : List Byte := natBytes (0x808080 * 2 ^ 96 + 2 ^ 120 + 0xFFFFFF * 2 ^ 152 + 0x50081 * 2 ^ 512) 128
def leafB : List Byte := natBytes 1 64
def badB : List Byte := List.replicate 128 0

/-- A query of the hierarchy whose record is `rc`, with the beams given; its engine has read the node `nd` and the leaf. -/
def devQn (nd : List Byte) (rc : List Byte) (bs : List Beam) : State :=
  { devT with queries := [{ liveQuery 0 with node := 0, root := 0x50000, brec := rc, beams := bs,
                                             seen := [(0x50000, false, nd), (0x50080, true, leafB)] }] }
def devQ : List Byte → List Beam → State := devQn rootB

/-- A beam record with results at 0x60000: its first word, then from (0.5, 0.5, -4) and for t up to 4, what follows TAN. -/
def beamRec (w tan : Nat) (rest : List Byte) : List Byte :=
  natBytes w 4 ++ natBytes 0 4 ++ natBytes 0x40800000 8 ++ natBytes (0x3F000000 + 0x3F000000 * 2 ^ 32 + 0xC0800000 * 2 ^ 64) 12 ++
    natBytes tan 4 ++ rest ++ natBytes 0x60000 8

/-- The records: closest hit of 2^lw by 1 rays, depth up to 3, whose corners are left, right, left, right, of x as given and z 1; a cone
of tangent 0.125 along z. -/
def rayRec (lw left right : Nat) : List Byte :=
  beamRec (16 * lw + 2 ^ 12 * 3) 0 (natBytes ((left + 0x3C00 * 2 ^ 32 + right * 2 ^ 48 + 0x3C00 * 2 ^ 80) * (1 + 2 ^ 96)) 24)
def coneRec : List Byte := beamRec (1 + 2 ^ 12 * 3) 0x3E000000 (natBytes (0x3F800000 * 2 ^ 64) 24)

def beam0 (sp : Option (Nat × Nat × Nat)) : Beam := ⟨0, 0, 0, 1, 0, 0, false, [0, 0, 0x3F800000], 0x3F800000, sp⟩

/-- Rays side by side, which agree on every box, and rays that part at the leaf's box. -/
def along : List Byte := rayRec 1 0 0
def apart : List Byte := rayRec 1 0xC800 0x4800

/-- TraversalEventResults, beams: one that splits at child 0, as rays or as a cone, or goes on per ray. -/
theorem witness_beam_split :
    ([devQ apart [beam0 none], devQ coneRec [beam0 none], devQ apart [{ beam0 none with depth := 3 }]].all fun s =>
      match beamOf s 60 0 with
      | some (x, b) => !x.held && b.spawn.isNone && !b.perRay &&
          (match wayTo s x 33 8 with | some w => b.descends x w && w.leaf && w.va == 0x50080 | none => false)
      | none => false) = true ∧
    recCone apart = false ∧ recCone coneRec = true ∧ (beam0 none).depth < recMaxd apart ∧ recMaxd apart = 3 ∧
    (beam0 none).depth < recMaxd coneRec ∧ le32 0x3F800000 0x3F800000 = true ∧ 0 < (beam0 none).lw ∧
    (beamChildren { liveQuery 0 with brec := coneRec } (beam0 none) 1).length ≤ 64 := by decide +kernel

/-- The pool of node 1 is pool 1 with its one slot; that of node 2 is pool 2, which has none. Queries are for node n. -/
def devSpawn (n : Nat) (rc : List Byte) (bs : List Beam) : State :=
  let s := devQ rc bs
  let s := updFn 2 (fun f => { f with ctx := some { ctxT with pools := ctxT.pools ++ [⟨0x42000, 0, .node 2, []⟩],
                                                              nodes := [0, 1, 2].map fun p => ⟨0x1000, 0x43000, 2, 100, p, []⟩ } }) s
  { s with queries := s.queries.map fun q => { q with node := n } }

/-- Can these records of the query be written? -/
def cellsOk (s : State) (f : Query → Nat × Nat → List Byte) (cs : List (Nat × Nat)) : Bool :=
  match findQuery s 60 with
  | some x => !isErr (writeCells x 2 (cs.map fun c => (c, f x c)) s)
  | none => false

/-- Spawns that wait, in their turn: for no node, with a slot, with the pool dry. -/
theorem witness_beam_waits :
    ([0, 1, 2].all fun n => let s := devSpawn n along [beam0 (some (1, 0x50080, 0))]
      match beamOf s 60 0 with
      | some (x, b) => b.spawn == some (1, 0x50080, 0) && x.spawnTurn b && x.node == n && x.tagIn s == 2 &&
          ((getFn s 2).ctx.any fun c => (c.nodes[x.node]?).isSome)
      | none => false) = true ∧
    cellsOk (updQuery 60 (fun y => { y with unresolved := true }) (devSpawn 0 along [beam0 (some (1, 0x50080, 0))])) (fun _ _ => resUnresolved)
      (beam0 none).cells = true ∧
    takeSlot 2 2 .submitted (devSpawn 2 along [beam0 (some (1, 0x50080, 0))]) = none := by decide +kernel

/-- Beams that end: as a cone; as rays that part, which cannot, and as rays that agree, whose records are misses. -/
theorem witness_beam_finishes :
    (beamOf (devQ coneRec [beam0 none]) 60 0).isSome = true ∧
    ([(devQ along [beam0 none], true), (devQ apart [beam0 none], false)].all fun p =>
      match beamOf p.1 60 0 with
      | some (x, b) => !x.held && b.spawn.isNone && x.obj == none && b.finishes p.1 x == p.2
      | none => false) = true := by decide +kernel

theorem witness_beam_records :
    (match beamOf (devQ along [beam0 none]) 60 0 with
     | some (x, b) => b.cells.all fun c => rayResult (devQ along [beam0 none]) x c.1 c.2 == some resMiss
     | none => false) = true := by decide +kernel

theorem witness_beam_writes :
    (let s := devQ along [beam0 none]
     match beamOf s 60 0 with
     | some (x, b) => cellsOk (updQuery 60 (Query.learn (b.reads s x)) s) (fun _ _ => resMiss) b.cells
     | none => false) = true := by decide +kernel

/-- The end of a query without beams, as rays and as a cone, whose record is a miss. -/
theorem witness_beam_query_end :
    ([along, coneRec].all fun r => match findQuery (devQ r []) 60 with | some x => x.live && x.beams == [] | none => false) = true ∧
    (let s := devQ coneRec []
     match findQuery s 60 with
     | some x => coneResult s x == some resMiss && cellsOk s (fun _ _ => resMiss) [(0, 0)]
     | none => false) = true := by decide +kernel

/-- The root is malformed: the traversal of rays and of a cone meets a fault; that of the hierarchy as it is meets none. -/
theorem witness_beam_fault :
    ([(along, [beam0 none]), (coneRec, [])].all fun p =>
      let fs (s : State) (x : Query) : List (Nat × Nat) :=
        if recCone x.brec then (coneWalk s x).filterMap Found.fault? else (x.beams.filter (·.spawn.isNone)).flatMap (Beam.faults s x)
      match findQuery (devQ p.1 p.2) 60, findQuery (devQn badB p.1 p.2) 60 with
      | some x, some y => x.live && !x.held && y.live && !y.held && fs (devQ p.1 p.2) x == [] && fs (devQn badB p.1 p.2) y != [] &&
          (!recCone y.brec || (coneResult (devQn badB p.1 p.2) y).isNone)
      | _, _ => false) = true := by decide +kernel

theorem witness_beam_untraced : UntracedFor (updQuery 60 (Query.learn []) (devQ along [beam0 none])) 2 :=
  untraced_of (by decide +kernel) _

/-- A pool with one free slot gives that slot. -/
theorem takeSlot_single {tag pool n : Nat} {st : SlotSt} {s : State} {p : Pool} (hp : (poolsOf s tag)[pool]? = some p)
    (hf : p.free = [n]) :
    takeSlot tag pool st s = some (p.base + 64 * n, bump (setSlotState tag (p.base + 64 * n) (some st) (zeroSlot tag (p.base + 64 * n) s))) := by
  simp [takeSlot, hp, hf, Nat.mod_one]

/-- The spawn of `witness_beam_ends` with a free slot: its provisional records can be written. -/
theorem witness_beam_spawn :
    let s := devSpawn 1 along [beam0 (some (1, 0x50080, 0))]
    ∃ va s1, takeSlot 2 1 .submitted s = some (va, s1) ∧ cellsOk s1 (fun x c => provisional s x c.1 c.2) (beam0 none).cells = true :=
  ⟨_, _, takeSlot_single (p := ⟨0x41000, 1, .node 0, []⟩) (n := 0) (by decide +kernel) (by decide +kernel), by decide +kernel⟩

/-- A task of queue 0 whose kernel's descriptor (GW 32, one group, a window of 256) stands at 0x43000, in the pool's one slot; the
tick is 100. -/
def recT : TaskRec := ⟨0x40000, 2, false, 0, natBytes 0x1000 64, ⟨false, .dev, 0, 0⟩, 0, 0, 0, [], 0, none⟩
def workT : Work := ⟨70, 2, false, 0, [recT], 0, 0, 0⟩
def devK : State := { put 0x43000 (32 * 2 ^ 64 + (2 ^ 61 + 0x1000) * 2 ^ 256) devT with tick := 100, ready := [workT] }

/-- A launch entry of station 3 whose queue has a free slot; a node with a record that gathers since tick 0; the run of a task that has
ended; a team that has drained. -/
def devEv : State :=
  let s := updFn 2 (fun f => { f with ctx := some { ctxT with nodes := [⟨0x1000, 0x43000, 2, 100, 1, [recT]⟩] } }) devK
  { s with launches := [⟨3, 2, recT⟩], runs := [⟨2, workT⟩], g := { s.g with stat := .ended }, t := { s.t with resid := .drained } }

/-- TaskEventResults, but for the dispatcher. -/
theorem witness_task_events :
    (devEv.launches.filter (·.station == 3))[0]? = some ⟨3, 2, recT⟩ ∧ recT.node = false ∧
    (match (getFn devEv 2).ctx with
     | some c => (c.queues[0]?.any fun q => (takeSlot 2 q.pool .submitted devEv).isSome) &&
         (c.nodes[0]?.any fun n => n.gather == [recT] && decide (recT.entry + n.timeout ≤ devEv.tick))
     | none => false) = true ∧
    devK.ready.find? (·.uid == 70) = some workT ∧ (workT.fit devK).isSome = true ∧ (workT.kernel devK).isSome = true ∧
    (runOf devEv 2).isSome = true ∧ (groupsOf devEv 2).all Group.over = true ∧ teamBusy devEv 2 = false ∧
    (findTeam devEv 2).isSome = true ∧ devEv.t.resid = .drained := by decide +kernel

/-- A launch of 2 teams whose first is placed already. -/
def subL : Sub :=
  { uid := 80, tag := 2, q := 0, n := 0, op := 1, flags := 0, teams := 2, deadline := 0, addr := 0x43000, value := 0, start := 0,
    started := true, status := 0, info := 0, finished := false, desc := some dev.t.desc, slotVa := 0x70000, next := 1, live := 1,
    cn := State.reset.snapshot, lastRead := none }

def devL : State := { devK with ready := [], subs := [subL] }

/-- The dispatcher: the one task of the ready set, the one submission. -/
theorem witness_dispatcher :
    readyOf (sweep devK) 2 = [.work workT] ∧ (workT.fit (sweep devK)).isSome = true ∧ (workT.kernel (sweep devK)).isSome = true ∧
    readyOf (sweep devL) 2 = [.sub subL] ∧ findSub (sweep devL) 80 = some subL ∧ dev.t.desc.coop = false ∧
    savedTeams (sweep devL) 80 = [] ∧ subL.next < subL.teams ∧
    (fitIn (sweep devL) 2 160 dev.t.desc (List.range 192)).isSome = true := by decide +kernel

/-- The team at a residency, its group at a status with a stop; slice 0 as f says. -/
def devR (r : Resid) (st : GStat) (stop : Option StopKind) (f : Slice → Slice) : State :=
  updSlice 0 f { devB with t := { devB.t with resid := r }, g := { devB.g with stat := st, stop := stop }, tick := 200000 }

/-- The team is one of a cooperative swarm of two, as the state and f say. -/
def swarmOf (f : Team → Team) (s : State) : State :=
  let p := f { s.t with desc := { s.t.desc with coop := true } }
  { s with t := p, ts := [{ p with uid := 3, seat := 1 }] }

/-- SchedulingEventResults, pre-emption: a team alone with 127 remap entries in use, a swarm with 126; the copy's end; groups parked at a
barrier point 200,000 ticks ago; a resume, alone and as a swarm that fits and one that does not. -/
theorem witness_preemption :
    ([(devR .resident .running (some .preempt) fun z => { z with remap := List.replicate 127 99 }),
      swarmOf id (devR .resident .running (some .preempt) fun z => { z with remap := List.replicate 126 99 })].all fun s =>
      (groupsOf s 2).any (·.stop == some .preempt) && saveRoom s (saveMates s s.t) &&
        (saveMates s s.t).all fun m => (groupsOf s m.uid).all savedReady && !tileBusy s m.uid && findTeam s m.uid == some m) = true ∧
    (saveMates (swarmOf id (devR .resident .running (some .preempt) id)) (swarmOf id (devR .resident .running (some .preempt) id)).t).length = 2 ∧
    (let s := devR .saving .running none id
     s.t.slice == 0 && !s.t.coopSwarm && findTeam s 2 == some s.t && decide (0 < s.slices.length)) = true ∧
    (let s := swarmOf id (devR .saving .running none id)
     s.t.coopSwarm && (allTeams s).all fun m => m.uid == 0 || (m.resid == .saving && m.coopSwarm && m.sub == s.t.sub && findTeam s m.uid == some m)) = true ∧
    (devR .saved .running none id).t.isSaved = true ∧ reachable (devR .saved .running none id) 2 = false ∧
    (let s := devR .resident (.barrier 0x1000) none fun z => { z with ending := some 0, prev := 2, remap := List.replicate 127 99 }
     saveMates s s.t == [s.t] && saveRoom s [s.t] && stopsAtBarriers s s.t && stopsSince s s.t == some 0 &&
       ((groupsOf s 2).filter fun x => !x.over) == [s.g] && !tileBusy s 2 && !s.t.coopSwarm) = true ∧
    (let s := devR .saved .running none id
     (Ready.ofTeam s s.t).isNone && !s.t.coopSwarm && placeable s 2 s.t.core && (fitSaved s s.t).isSome) = true ∧
    (let s := swarmOf id (devR .savedBarrier .running none id)
     s.t.isSaved && s.t.coopSwarm && (Ready.ofTeam s s.t).isNone && (resumeSwarm 2 s.t.sub s).isSome) = true ∧
    (let s := updSlice 0 (fun z => { z with up := false }) (swarmOf id (devR .savedBarrier .running none id))
     s.t.isSaved && s.t.coopSwarm && (Ready.ofTeam s s.t).isNone && (resumeSwarm 2 s.t.sub s).isNone) = true := by decide +kernel

/-- The head, which is due sooner, waits; or it is due later. -/
theorem witness_held_back :
    ([(0, true), (9, false)].all fun p =>
      let s := devR .saved .running none id
      let s := { s with t := { s.t with sub := 81 },
                        subs := [{ subL with deadline := BitVec.ofNat 64 p.1 }, { subL with uid := 81, deadline := 5, next := 2 }] }
      (Ready.ofTeam s s.t).any fun own => holdsBack s 2 own == p.2) = true := by decide +kernel

/-- A time slice of tags 2 and 17 that ends now, with a team of tag 2 left or none. -/
theorem witness_time_slice :
    let f := fun z : Slice => { z with st := 2, up := true, resident := 2, sharers := 0x8001, span := 100, ends := some 200000 }
    let left (s : State) : Bool := (allTeams s).any fun p => p.holds && p.slice == 0 && p.tag == (getSlice s 0).resident
    left (devR .resident .running none f) = true ∧ left (devR .saved .running none f) = false ∧
    (getSlice (devR .saved .running none f) 0).ends = some 200000 ∧
    ((List.range 16).map fun i => (2 - 2 + 1 + i) % 16).find? ((getSlice (devR .saved .running none f) 0).sharers.getLsbD ·) = some 15 := by
  decide +kernel

/-- The group waits for phase 3; the object is external or not; the watchdog's interval is 100 000 000 ticks, the advisory's 0. -/
def devDog (flags : Nat) : State :=
  let s := withObj 0xF0 ⟨0, 0, 2, 1, 3, 0x8000 + flags⟩ { devWait 3 with tick := 100000000 }
  updFn 2 (fun f => { f with ctx := some { ctxT with wdint := 100000000, extint := 0, extOn := true } }) s

/-- SchedulingEventResults, watchdogs. -/
theorem witness_watchdog :
    (getFn (devDog 0) 2).ctx.isSome = true ∧ (getFn (devDog 1) 2).ctx.isSome = true ∧
    contextGroups (devDog 0) 2 = [(devDog 0).g] ∧ isWaiting (devDog 0).g = true ∧ waitsExternal (devDog 0) (devDog 0).g = false ∧
    contextOn (devDog 0) 0 2 = true ∧ contextOn (devDog 1) 0 2 = true ∧ (devDog 0).tick - (peek (devDog 0).wdog 2).toNat = 100000000 ∧
    (List.range 48).all (fun cl => !clusterHalted (devDog 0) 2 cl) = true ∧
    contextGroups (devDog 1) 2 = [(devDog 1).g] ∧ waitsExternal (devDog 1) (devDog 1).g = true ∧
    (waitsOf (devDog 1).g).all (phaseExternal (devDog 1) (devDog 1).g) = true ∧ (waitsOf (devDog 1).g).length = 1 ∧
    peek (devDog 1).wext 2 ≠ BitVec.allOnes 64 ∧ extSince (peek (devDog 1).wext 2).toNat ((waitsOf (devDog 1).g).map (·.since)) = 0 := by
  decide +kernel

/-- A hit of watchpoint 7 of core 0, whose action is a halt or none; cluster 0 halted for tag 2 or not. -/
def devWp (act halted : Bool) (st : GStat) (stop : Option StopKind) (run : Nat) : State :=
  { devB with
    wpq := [⟨2, 0, 7, 0, devB.g.uid, 0, 0, 1, 0, 0, []⟩], g := { devB.g with stat := st, stop := stop, runPos := run, halted := halted },
    obs := poke (poke devB.obs (obsKey 2 0 (0x2400 + 0x70 + 8)) (if act then 2 ^ 12 else 0)) (obsKey 2 0 0x8004) (if halted then 2 ^ 31 else 0) }

/-- DebugEventResults, halts: a hit that only counts and one that halts; a halt that lands at a run boundary and inside a run; a cluster
that is halted and resumed; a step of a running and of a waiting group. -/
theorem witness_halt :
    bit (obsGet (devWp false false .running none 0) 2 0 (0x2400 + 0x70 + 8)) 12 = false ∧
    bit (obsGet (devWp true false .running none 0) 2 0 (0x2400 + 0x70 + 8)) 12 = true ∧ clusterOf 0 = 0 ∧
    ([devWp false false .running (some .cluster) 0, devWp false false .running (some .cluster) 3].all fun s =>
      findGroup s s.g.uid == some s.g && s.g.stop == some .cluster && coreOf s.t s.g == 0) = true ∧
    (holdsSlice (devWp false false .running none 0) 2 0 && !clusterHalted (devWp false false .running none 0) 2 0 &&
      clusterHalted (devWp false true .running none 0) 2 0) = true ∧
    ([devWp false true .running none 0, devWp false true (.waiting ⟨0xF0, 2, .team, none, 8, 0, false⟩) none 0].all fun s =>
      holdsSlice s 2 0 && clusterHalted s 2 0 && inCluster s 2 0 s.g && s.g.halted && s.g.slot % 64 == 0 &&
      (allGroups s).find? (fun x => inCluster s 2 0 x && x.halted && x.slot % 64 == 0 && (match findTeam s x.team with
        | some t => coreOf t x == 12 * 0 + 0 | none => false)) == some s.g && findGroup s s.g.uid == some s.g) = true ∧
    ([.running, .port, .waiting ⟨0xF0, 3, .team, none, 8, 0, false⟩, .held, .parked].all fun st => let s := devWp false true st none 0
      inCluster s 2 0 s.g && (allGroups s).find? (fun x => inCluster s 2 0 x && x.halted && x.slot % 64 == 0 && (match findTeam s x.team with
        | some t => coreOf t x == 12 * 0 + 0 | none => false)) == some s.g) = true ∧
    (devWp false false .running none 0).wpq.length = 1 ∧ (findGroup (devWp false false .running none 0) 1).isSome = true := by decide +kernel

/-- Trace unit 0 with a buffer of 4096 bytes, its producer at 64; it samples every 1024 ticks; bank 3 is claimed or not. -/
def devProf (claimed : Bool) : State :=
  let o := fun off : Nat => obsKey 2 0 off
  { devB with tick := 1024, obs := poke (poke (poke devB.obs (o 0x1000) 1) (o 0x1010) 4096) (o 0x1018) 64,
              claims := if claimed then [⟨0, .bank 3, 0, []⟩] else [] }

/-- DebugEventResults, profiling: TR_CTL that is taken and one that is not, the consumer at the producer, a claimed bank and one that is
not, a counter, a sample, a clock. -/
theorem witness_profiling :
    holdsSlice (devProf false) 2 0 = true ∧ obsGet (devProf false) 2 0 0x1008 % 4096 = 0 ∧
    traceSizeOk (obsGet (devProf false) 2 0 0x1010) = true ∧ traceSizeOk (obsGet devB 2 0 0x1010) = false ∧
    bit (obsGet (devProf false) 2 0 0x1000) 31 = false ∧ 64 % 32 = 0 ∧
    (64 + 4096 - obsGet (devProf false) 2 0 0x1020 % 4096) % 4096 ≤
      (obsGet (devProf false) 2 0 0x1018 + 4096 - obsGet (devProf false) 2 0 0x1020 % 4096) % 4096 ∧
    bankClaimed (devProf false) 0 3 = false ∧ bankClaimed (devProf true) 0 3 = true ∧
    (counterReg (devProf false) 2 0x40).isSome = true ∧ (counterReg (devProf false) 2 0x100378).isSome = true ∧
    2 < (devProf false).fns.length ∧ schedGroups (devProf false) 0 = [((devProf false).g, (devProf false).t)] ∧
    trTag (devProf false) 2 0 = 2 ∧ (peek (devProf false).obs (trKey 2 0 0)).toNat % 2 ^ 16 * 1024 = 1024 ∧
    (List.range 16).all (fun q => q == 0 || schedGroups (devProf false) q == []) = true := by decide +kernel

/-- The context 2 with a cached page and an invalidation that runs or not; one group parked on a page fault. -/
def devTi (run : Option (Nat × Nat)) : State :=
  let s := updFn 2 (fun f => { f with tiRun := run }) dev
  { s with tlb := [⟨0, 2, 0, 2 ^ 30, 0⟩], g := { s.g with stat := .parked } }

/-- ContextEventResults, translation: ranges of 2^12 and 2^56 bytes, all, a completion, a parked group. -/
theorem witness_translation :
    writable (devTi none) 2 = true ∧ bit (0x8000000C : Word).toNat 31 = true ∧ bits (0x8000000C : Word).toNat 0 6 = 12 ∧
    bits (0x80000038 : Word).toNat 0 6 = 56 ∧ bit (0x80000038 : Word).toNat 8 = false ∧ bit (0x80000100 : Word).toNat 8 = true ∧
    (getFn (devTi none) 2).tiRun = none ∧ 2 < (devTi none).fns.length ∧ (getFn (devTi (some (0, 4096))) 2).tiRun = some (0, 4096) ∧
    parkedGroup (devTi none) 2 (myGid (devTi none)) = some (devTi none).g ∧
    findGroup (devTi none) (devTi none).g.uid = some (devTi none).g ∧ (focus (devTi none).g.uid (devTi none)).g = (devTi none).g ∧
    (focus (devTi none).g.uid (devTi none)).t.latches = [] := by decide +kernel

/-- Context descriptors at 0x5000: one without tables of its own whose error ring is described at 0x6000, and zeros. -/
def devCx (good : Bool) : State :=
  let s := put 0x100000 0x2001 (put 0x6000 (0x20000 + 6 * 2 ^ 64) dev)
  let s := if good then put 0x5000 (0x100000 + 2 ^ 20 * 2 ^ 128 + 0x6000 * 2 ^ 256) s else s
  updFn 2 (fun f => { f with cxDesc := 0x5000 }) s

/-- ContextEventResults, registers: a descriptor that passes and one that does not, the last byte of the aperture, bytes that translate and
bytes that do not, registers of a function. -/
theorem witness_registers :
    (physBytes (devCx true) 2 0x5000 128).isSome = true ∧ (physBytes (devCx false) 2 0x5000 128).isSome = true ∧
    writable (devCx true) 2 = true ∧ (devCx true).subs = [] ∧
    (match physBytes (devCx true) 2 0x5000 128, physBytes (devCx false) 2 0x5000 128 with
     | some d, some z => (parseCtx (devCx true) 2 d).isOk && isErr (parseCtx (devCx false) 2 z)
     | _, _ => false) = true ∧
    apTaken dev 2 (2 ^ 36 - 1) 1 = true ∧ (vWriteAll 2 (apVa dev 2 0x3FFFFFFF) [7] dev).isSome = true ∧
    (vWriteAll 2 (apVa dev 2 0x40000000) [7] dev).isSome = false ∧ (vBytes dev 2 (apVa dev 2 0x3FFFFFFF) needR 1).isOk = true ∧
    isErr (vBytes dev 2 (apVa dev 2 0x40000000) needR 1) = true ∧
    ([(0, true, BarReg.cxDesc), (0x18, true, .apBase), (0x200, false, .erUst), (0x204, false, .erUmsk), (0x208, false, .erUsev),
      (0x210, false, .erCmsk), (0x214, false, .erCtl), (0xC, false, .cxStat), (0x20, false, .apErr), (0x40, true, .tkBal)].all fun x =>
        locate 2 x.1 x.2.1 == some (x.2.2, 0) && mayWrite dev 2 x.2.2) = true ∧
    ([(0x150000, BarReg.fabId), (0x170010, .telCap), (0x10000C, .pmStat), (0x110004, .rstStat), (0x130000, .bootStat)].all fun x =>
        locate 1 x.1 false == some (x.2, 0) && mayWrite { dev with own := { dev.own with owner := some 0 } } 1 x.2) = true := by
  decide +kernel

/-- Queue 15 of context 2, enabled or not, its ring of 16 entries at 0x50000, the entries read up to 4, TAIL at 5; entry 4 is `op`. -/
def devSq (en : Bool) (op : Nat) : State :=
  let q : SubQ := { SubQ.init with base := 0x50000, en := en, tail := 5, head := 4, done := 3 }
  put (0x50000 + 64 * 4) op (updFn 2 (fun f => { f with sqs := List.replicate 15 SubQ.init ++ [q] }) devK)

/-- A submission of an operation with a value. -/
def subOp (op : Nat) (started : Bool) (at_ val : Nat) : State :=
  { devK with subs := [{ subL with op := op, started := started, addr := at_, value := BitVec.ofNat 64 val, teams := 1,
                                   desc := if started then some dev.t.desc else none, live := 0, q := 15 }] }

/-- QueueResults: SQ_CTL with 4 and 12, TAIL at 16 entries ahead and at 17, an entry that is good and one that is not. -/
theorem witness_queue :
    writable (devSq false 4) 2 = true ∧ 15 < (getFn (devSq false 4) 2).sqs.length ∧ (getSq (devSq false 4) 2 15).en = false ∧
    bits (0x80000014 : Word).toNat 0 4 = 4 ∧ bits (0x8000001C : Word).toNat 0 4 = 12 ∧ bits (0x8000001C : Word).toNat 4 6 ≠ 0 ∧
    bit (0x8000001C : Word).toNat 31 = true ∧ (getFn (devSq false 4) 2).ctx ≠ none ∧
    (19 - (getSq (devSq true 4) 2 15).done).toNat = 2 ^ (getSq (devSq true 4) 2 15).logn ∧
    2 ^ (getSq (devSq true 4) 2 15).logn < (20 - (getSq (devSq true 4) 2 15).done).toNat ∧
    ([devSq true 4, devSq true 5].all fun s => (getSq s 2 15).en && (getSq s 2 15).head != (getSq s 2 15).tail && queueSlotFree s 2 &&
      !vPoison s 2 0x50100 64 && s.subs == []) = true ∧
    (match vBytes (devSq true 4) 2 0x50100 needR 64, vBytes (devSq true 5) 2 0x50100 needR 64 with
     | .ok e, .ok f => firstBad e == none && firstBad f == some 0
     | _, _ => false) = true := by decide +kernel

/-- Each operation: a launch that fits and one whose descriptor cannot be read, one that has ended, a fence that is reached and one that
is not, a signal that translates and one that does not. -/
theorem witness_queue_entries :
    (queueEntry (subOp 1 false 0x43000 0) 80 1 false).isSome = true ∧
    ((readDesc (startSub 80 (subOp 1 false 0x43000 0)) 2 0x43000).filter fun d => couldFit (startSub 80 (subOp 1 false 0x43000 0)) 2 d 1).isSome
      = true ∧
    readDesc (subOp 1 false 0x43001 0) 2 0x43001 = none ∧
    (match queueEntry (subOp 1 true 0 0) 80 1 true with
     | some x => x.desc != none && decide (x.teams ≤ x.next) && x.live == 0 && !descended (subOp 1 true 0 0) 80
     | none => false) = true ∧
    ([false, true].all fun b => (queueEntry (subOp 2 b 0x43000 7) 80 2 b).isSome &&
      match xlate (subOp 2 b 0x43000 7) 2 engUnit 0x43000 needR with
      | .ok p => !gPoison (subOp 2 b 0x43000 7) p 0 && gRead (subOp 2 b 0x43000 7) p 8 == 0
      | .error _ => false) = true ∧
    (queueEntry (subOp 3 false 0x50000 7) 80 3 false).isSome = true ∧
    (vWriteAll 2 0x50000 (natBytes 7 8) (startSub 80 (subOp 3 false 0x50000 7))).isSome = true ∧
    (vWriteAll 2 0x3FFFFFF9 (natBytes 7 8) (startSub 80 (subOp 3 false 0x3FFFFFF9 7))).isSome = false ∧
    (queueEntry (subOp 4 false 0 0) 80 4 false).isSome = true := by decide +kernel

/-- A command block (R440). -/
def pmBlock (op tag slices flags timeout a0 a1 : Nat) : List Byte :=
  natBytes (op + tag * 2 ^ 8 + slices * 2 ^ 16 + flags * 2 ^ 40 + timeout * 2 ^ 64 + a0 * 2 ^ 128 + a1 * 2 ^ 192) 32

/-- Slices 0 and 1 are tag 2's, slice 2 is tag 17's, the others are free; the manager runs a command at a phase. -/
def devPm (b : List Byte) (phase : Nat) : State :=
  { dev with
    slices := (List.range 16).map fun n =>
      { Slice.init n with st := if n < 3 then 1 else 0, up := true, owner := if n < 2 then 2 else if n = 2 then 17 else 1,
                          resident := if n < 2 then 2 else 0 }
    pm := { dev.pm with addr := 0x7000, busy := true, block := b, phase := phase, deadline := some 0 } }

def runs (op : Nat) (s : State) : Bool := s.pm.busy && cmdOp s == op && s.dump.fatal.isNone

/-- PartitionResults: the last slice and tag, 2 and 8 sharers, spans of 100 and 100 000, one slice of two, a shrink whose slices are
empty, its timeout, a release. -/
theorem witness_partition :
    (let s := devPm (pmBlock 1 16 0x8000 0 0 0 0) 0
     s.slices.length == 16 && runs 1 s && !cmdFlag s 0 && tagOk (cmdTag s) && slicesIn (cmdSlices s) == [15] && allFree s [15] &&
       !holdsPart s 16) = true ∧
    ([(0x4002, 100), (0x40FE, 100000)].all fun x =>
      let s := devPm (pmBlock 1 0 0x8000 1 0 x.1 x.2) 0
      let ts := (slicesIn (BitVec.ofNat 16 (cmdArg0 s))).map (· + 2)
      runs 1 s && cmdFlag s 0 && slicesIn (cmdSlices s) == [15] && decide (2 ≤ ts.length) && decide (ts.length ≤ 8) &&
        decide (100 ≤ bits (cmdArg1 s) 0 32) && decide (bits (cmdArg1 s) 0 32 ≤ 100000) && allFree s [15] &&
        ts.all fun k => !holdsPart s k) = true ∧
    (let s := devPm (pmBlock 2 17 0x8008 0 0 0 0) 0
     runs 2 s && s.pm.phase != 1 && tagOk (cmdTag s) && slicesIn (cmdSlices s) == [3, 15] && allFree s [3, 15] &&
       holdsDedicated s 17 && runs 2 (devPm (pmBlock 2 17 0x8008 0 0 0 0) 1)) = true ∧
    (let s := devPm (pmBlock 3 2 2 0 0 0 0) 0
     runs 3 s && s.pm.phase != 1 && tagOk (cmdTag s) && slicesIn (cmdSlices s) == [1] && (getSlice s 1).owner == 2 &&
       (getSlice s 1).up && (getSlice s 1).st == 1 && !lentOut s 1 &&
       ((List.range 16).filter fun n => (getSlice s n).owner == 2).length == 2) = true ∧
    (let s := devPm (pmBlock 3 2 2 0 0 0 0) 1
     runs 3 s && s.pm.phase == 1 && ((allTeams s).all fun p => p.uid == 0 || p.tag != 2 || p.resid == .gone || p.slice != 1) &&
       s.ops == [] && s.pm.deadline == some 0) = true ∧
    (let s := devPm (pmBlock 4 2 0 0 0 0 0) 0
     runs 4 s && tagOk (cmdTag s) && holdsPart s 2 && s.subs == [] &&
       (slicesOf s 2).all fun n => (getSlice s n).up && (getSlice s n).st != 4) = true := by decide +kernel

/-- TableCommandResults: key 4095, window 15, the last tag. -/
theorem witness_tables :
    ([0, 1, 2].all fun k =>
      let s := devPm (pmBlock 5 17 0 0 0 (0xFFF + 2 ^ 12 * k) 0xFFFF) 0
      runs 5 s && bits (cmdArg0 s) 0 12 == 4095 && bits (cmdArg0 s) 12 2 == k && tagOk (cmdTag s)) = true ∧
    (let s := devPm (pmBlock 6 1 0 0 0 (2 ^ 30) (1 + 15 * 2 ^ 32)) 0
     runs 6 s && cmdTag s == 1 && cmdArg0 s % 2 ^ 30 == 0 && decide (cmdTag s < s.fns.length)) = true ∧
    ([10, 11, 12].all fun op =>
      let s := devPm (pmBlock op 17 0 0 0 0 0) 0
      runs op s && tagOk (cmdTag s) && decide (cmdTag s < s.fns.length)) = true := by decide +kernel

/-- Lease 65535 of 4 tiles on core 24; cluster 5 of tag 2 is registered for tag 17, lent or not, passing or not; a claim of trace unit 2. -/
def devLend (b : List Byte) (lent passing : Bool) : State :=
  { devPm b 0 with leases := [⟨65535, 24, 2, 4, [], 0, 0⟩], elastics := [⟨5, 2, 17, lent, passing, false, 0⟩],
                   claims := [⟨15, .trace 2, 0, []⟩, ⟨15, .bank 3, 0, []⟩] }

/-- LendingAndTokenResults, lending: cluster 4 for the last tag, a registration that can end and one that waits, a handover, 256 tiles of
core 11 of the lender's slice, the lease, claims. -/
theorem witness_lending :
    (let s := devLend (pmBlock 7 2 0 0 0 (4 + 17 * 2 ^ 8) 0) false false
     runs 7 s && !bit (cmdArg0 s) 16 && tagOk 2 && tagOk 17 && bits (cmdArg0 s) 0 6 == 4 && bits (cmdArg0 s) 8 5 == 17 &&
       (getSlice s 1).up && (getSlice s 1).st == 1 && (getSlice s 1).owner == 2 && onDie s 17 1 && !coopOn s 2 4 &&
       s.elastics.all fun e => e.cluster != 4) = true ∧
    ([false, true].all fun l =>
      let s := devLend (pmBlock 7 2 0 0 0 (5 + 2 ^ 16) 0) l false
      runs 7 s && bit (cmdArg0 s) 16 && (s.elastics.find? fun e => e.cluster == 5 && e.lender == cmdTag s).isSome) = true ∧
    (let s := devLend [] true true
     (s.elastics.find? (·.cluster == 5)).isSome && (allTeams s).all fun p => clusterOf p.core != 5 && !p.pair) = true ∧
    (let s := devLend (pmBlock 8 2 0 0 0 (2 + 11 * 2 ^ 4 + 256 * 2 ^ 8) 5) false false
     let z := getSlice s 2
     runs 8 s && tagOk (cmdTag s) && bits (cmdArg0 s) 4 4 == 11 && bits (cmdArg0 s) 8 9 == 256 && z.up && z.st == 1 && z.owner == 17 &&
       onDie s 2 2 && !coopOn s 17 (clusterOf 35) && decide (tilesUsed s 35 + 256 ≤ 512) &&
       (getFn s 2).leaseTab.any fun e => !e.1) = true ∧
    (let s := devLend (pmBlock 9 0 0 0 0 65535 0) false false
     runs 9 s && (s.leases.find? (·.handle == bits (cmdArg0 s) 0 16)).any fun l => decide (l.ends ≤ s.tick)) = true ∧
    (let s := devLend (pmBlock 13 0 0 0 0 (15 + 2 ^ 6) 0) false false
     runs 13 s && claimUnit s == some (15, .trace 0) && !cmdFlag s 3 && (getSlice s 15).up &&
       s.claims.all fun c => !(c.slice == 15 && c.what == .trace 0)) = true ∧
    (let s := devLend (pmBlock 13 0 0 8 0 (15 + 2 ^ 4 * 3) 0) false false
     runs 13 s && claimUnit s == some (15, .bank 3) && cmdFlag s 3 &&
       (s.claims.find? fun c => c.slice == 15 && c.what == .bank 3).isSome) = true := by decide +kernel

/-- Tokens: tag 17, a boundary that has come. -/
theorem witness_tokens :
    17 < dev.fns.length ∧ dev.boundary ≤ { dev with tick := 1000000 }.tick ∧ dev.fns.length = 18 ∧ dev.leases = [] ∧ dev.ops = [] := by
  decide +kernel

/-- A shed ring of 16 entries of a class, at entry 0, with an entry or none, bound or not. Its PRODUCE word at 0x58000 says 1. -/
def ringS (cls : Nat) (cur : Option ShedEntry) (bound : Option Nat) : ShedRing :=
  { cmdBase := 0x50000, cplBase := 0x51000, notify := 0x58000, consume := 0x58008, lease := 100, logn := 4, space := 0, rankmap := 0,
    cls := cls, head := 0, recs := 0, seatGen := none, cur := cur, bound := bound }

def devShed (r : ShedRing) : State :=
  let s := put 0x58000 1 devT
  { updFn 2 (fun f => { f with ctx := some { ctxT with rings := [r] } }) s with tick := 100000, fabPeer := [(0, 0x81000002)] }

/-- A copy of 4 bytes; an all-reduce of one f32 among devices 0 and 1, this one being rank 0. -/
def copyE : ShedEntry := ⟨0, natBytes (1 + 4 * 2 ^ 32 + 0x52000 * 2 ^ 64 + 0x53000 * 2 ^ 128) 32, 0, [], 0⟩
def collE : ShedEntry :=
  ⟨0, natBytes (0x20 + 4 * 2 ^ 32 + 0x52000 * 2 ^ 64 + 0x53000 * 2 ^ 128 + 2 ^ 232 * 2) 32, 0, (natBytes 0x100 64), 0⟩

/-- ShedAndEncoderResults, shed: an entry to take up, a lease that ends, a copy, a collective, an abort that hits. -/
theorem witness_shed :
    (let s := devShed (ringS 0 none none)
     canBind s 2 (ringS 0 none none) && vNat s 2 0x58000 4 == some 1 && (readCmd s 2 (ringS 0 none none) 0).isSome &&
       getRing s 2 0 == some (ringS 0 none none)) = true ∧
    (let s := devShed (ringS 0 none (some 0))
     getRing s 2 0 == some (ringS 0 none (some 0)) && decide (0 + 1000 * 100 ≤ s.tick)) = true ∧
    (let r := ringS 0 (some copyE) (some 0)
     recordRoom (devShed r) 2 r && entryOk 0 copyE (devShed r).fabId.toNat) = true ∧
    (let r := ringS 2 (some collE) (some 0)
     let s := devShed r
     recordRoom s 2 r && entryOk 2 collE s.fabId.toNat && (collAux collE.bytes).ranks == 2 &&
       ((List.range 2).filter (· != (collAux collE.bytes).rank)) == [1] && peerAllowed s (collE.ranks.getD 1 0).toNat 2 &&
       (collBytes 0x20 2 4).1 == 4 && (vBytes s 2 0x52000 needR 4).isOk && !vPoison s 2 0x52000 4 && abortHits 0 1 collE) = true := by
  decide +kernel

/-- R452, RFC 1951: the letter a in a block of fixed codes (code 0x91 of 8 bits, the first bit first, then the 7 zeros of 256) and in a
stored block; a stream that breaks off. -/
theorem test_inflate :
    inflate 0x00044B 3 = ([0x61], false) ∧ inflate (bytesNat (storedStream 1 [0x61])) 6 = ([0x61], false) ∧
    (inflate 0x044B 2).2 = true := by decide +kernel

/-- Device 1 acts for tag 2, whichever of its tags an abort bears. -/
def devAbort : State := { devShed (ringS 2 (some collE) (some 0)) with fabPeer := (List.range 32).map fun k => (k, BitVec.ofNat 32 (0x81000002 + 2 ^ 16 * k)) }

theorem witness_abort : peerTag devAbort 1 (abortTag devAbort 0 1) = some 2 ∧ peerTag devAbort 1 (abortTag devAbort 0 1) ≠ some 3 := by
  have h : ∀ k, k < 32 → peerTag devAbort 1 k = some 2 := by
    have := (List.all_eq_true (l := List.range 32) (p := fun k => peerTag devAbort 1 k == some 2)).1 (by decide +kernel)
    intro k hk
    simpa using this k (List.mem_range.2 hk)
  have := h (abortTag devAbort 0 1) (Nat.mod_lt _ (by decide))
  rw [this]
  decide

/-- A lane of slice 0 that works on frame ring 3: row 1 of two, or ready. Its command is of 64 by 64 texels at 0x50000, its PROGRESS word
at 0x58000 says 1; the ring has room for 65536 bytes. -/
def frameCmd (w h : Nat) : List Byte :=
  natBytes (w * 2 ^ 32 + h * 2 ^ 48 + 0x50000 * 2 ^ 64 + 256 * 2 ^ 128 + 0x58000 * 2 ^ 192) 64
def frameR : FrameRing :=
  { cmdBase := 0x59000, notify := 0x58000, done := 0x58008, bsBase := 0x60000, bsProd := 0x58010, bsCons := 0x58018, logn := 4,
    logb := 16, n := 0, prod := 0 }
def devLane (l : Option Lane) : State :=
  let s := put 0x59000 (bytesNat (frameCmd 64 64)) (put 0x58000 1 devT)
  let s := updFn 2 (fun f => { f with ctx := some { ctxT with frames := List.replicate 3 { frameR with notify := 0x58008 } ++ [frameR] } }) s
  { s with tick := 1000000, lanes := match l with | some l => [(0, l)] | none => [] }
def lane0 (h done : Nat) (ready : Bool) : Lane := ⟨2, 3, true, frameCmd 1 h, (h + 63) / 64, done, 0, ready, 2, 0⟩

/-- ShedAndEncoderResults, encoder: a frame to start, a row with its PROGRESS, a deadline a millisecond past, a packet with room. -/
theorem witness_encoder :
    (let s := devLane none
     s.boot.stage == 2 && (getSlice s 0).up && frameWork s 0 == [(2, 3)] && getFrame s 2 3 == some frameR &&
       !vPoison s 2 0x59000 64 && match vBytes s 2 0x59000 needR 64 with | .ok b => frameOk b | .error _ => false) = true ∧
    (let s := devLane (some (lane0 1 0 false))
     getLane s 0 == some (lane0 1 0 false) && vNat s 2 (field (lane0 1 0 false).cmd 0x18 8) 4 == some 1 &&
       rowReads s 2 (lane0 1 0 false).cmd 0) = true ∧
    (let s := devLane (some (lane0 65 0 false))
     decide (field (lane0 65 0 false).cmd 0x20 8 + 1000000 ≤ s.tick) &&
       decide (Nat.max 0 ((vNat s 2 (field (lane0 65 0 false).cmd 0x18 8) 4).getD 0) < (lane0 65 0 false).rows)) = true ∧
    (let s := devLane (some (lane0 1 1 true))
     vNat s 2 frameR.bsCons 4 == some 0 && (packetOf s (lane0 1 1 true) 0).length == 16) = true := by decide +kernel

/-- Slices 0 and 1 are tag 2's, slice 2 is tag 17's; the queue of resets is as given. -/
def devRst (q : List RstReq) : State := { devPm [] 0 with pm := { dev.pm with busy := false }, rst := ⟨q, 0, none⟩ }

/-- The first of them has begun a millisecond ago, with slice 3, which no tenant has, in it. -/
def devRun (q : List RstReq) : State :=
  { updSlice 3 (fun z => { z with st := 4, was := 0 }) (devRst q) with rst := ⟨q, 0, some ⟨0, [3], [], [3]⟩⟩, tick := 1000000 }

/-- Slice 1 is shared by tags 2 and 17. -/
def devShared (q : List RstReq) : State := updSlice 1 (fun z => { z with st := 2, sharers := 0x8001 }) (devRst q)

/-- ErrorAndResetResults, errors: the first and last byte of a region, its owner's and tag 0's; the last tag, slice and counter, a counter
of a link and one of memory; every cause, in a device that runs. -/
theorem witness_errors :
    (15 * 2 ^ 35 + regionBytes - 1) / 2 ^ 35 < 16 ∧ (15 * 2 ^ 35 + regionBytes - 1) % 2 ^ 35 < regionBytes ∧ chargedTag dev 0 = 2 ∧
    chargedTag dev (regionBytes - 1) = 0 ∧ dev.dump.fatal = none ∧ dev.fns.length = 18 ∧ 2 < dev.fns.length ∧ 17 < dev.fns.length ∧
    (261 : Nat) < 262 ∧ (5 : Nat) < 6 ∧ (6 : Nat) ≤ 261 ∧ (15 : Nat) < 16 := by decide +kernel

/-- Resets: each kind at the head of its queue and behind another, one that runs; every slice, one of two, and one that is shared; a team on a slice
that is reset, whose tag goes on or does not, the only one of its number. -/
theorem witness_resets :
    (devRst [.vf 17, .slices 1]).rst.queue.head? ≠ some (.slices 1) ∧ (devRst [.slices 1, .vf 17]).rst.queue.head? ≠ some (.vf 17) ∧
    (devRst []).rst.run = none ∧ (devRst [.vf 17]).rst.run = none ∧ (devRst [.slices 0xFFFF, .vf 17]).rst.run = none ∧
    (devRun [.slices 8]).rst.queue = [.slices 8] ∧ (devRun [.slices 8]).rst.run = some ⟨0, [3], [], [3]⟩ ∧
    (devRun [.vf 17]).rst.run.isSome = true ∧ 0 + 1000000 ≤ (devRun [.slices 8]).tick ∧ (devRun [.slices 8]).dump.fatal = none ∧
    (devRst [.slices 0xFFFF, .vf 17]).rst.queue = [.slices 0xFFFF, .vf 17] ∧
    (devRst [.slices 0xFFFF]).pm.busy = false ∧ (devRst [.vf 17]).rst.queue = [.vf 17] ∧ 17 < (devRst [.vf 17]).fns.length ∧
    (devRst [.vf 17]).dump.fatal = none ∧ (devRst []).fns.length = 18 ∧ (devRst []).slices.length = 16 ∧
    ((slicesIn 0xFFFF).filter fun n => (getSlice (devRst []) n).up) = List.range 16 ∧
    wholeTags (devRst []) (List.range 16) = [17] ∧ wholeTags (devRst []) [0] = [] ∧ (wholeTags (devShared []) [1]).contains 2 = true ∧
    (let s := devRst [.slices 1]
     s.t.uid != 0 && s.t.resid != .gone && s.t.slice == 0 && s.t.tag == 2 && (allTeams s).filter (·.uid == s.t.uid) == [s.t]) = true := by
  decide +kernel

/-- R473, R474: SL_STATE is 4 and RST_STAT names the slice from the first step to the last, then as before. -/
theorem test_reset_steps :
    (match exec (.sliceReset 2) (devRst [.slices 2]) with
      | .next t => (getSlice t 1).st == 4 && (getSlice t 0).st == 1 && rstStatus t / 2 ^ 31 == 1 && rstStatus t % 65536 == 2
      | _ => false) = true ∧
    (match exec (.sliceReset 8) (devRun [.slices 8]) with
      | .next t => (getSlice t 3).st == 0 && rstStatus t == 2 ^ 28
      | _ => false) = true := by decide +kernel

/-- R442: the slices that join show state 3 before they are the partition's. -/
theorem test_fuse_steps :
    ([0, 1].map fun k => match exec .fuse (devPm (pmBlock 2 17 0x8000 0 0 0 0) k) with
      | .next t => ((getSlice t 15).st, (getSlice t 15).owner)
      | _ => (9, 9)) = [(3, 1), (1, 17)] := by decide +kernel

/-- A device at power-on whose first slices are up. Whether an image verifies is open (log 30), but for an empty one. -/
def devBoot (up : Nat) : State :=
  { State.reset with boot := { State.reset.boot with stage := 1, ready := true },
                     slices := (List.range 16).map fun n => { Slice.init n with up := decide (n < up) } }
def badSlot : FwSlot := ⟨some [], false⟩

/-- StartAndFirmwareResults: no slot that runs; the last slice, an even one that fails; a port that owns the device and
one that does not; the last function. -/
theorem witness_start :
    State.reset.boot.stage = 0 ∧ State.reset.boot.ready = false ∧
    (let s := { State.reset with fw := { State.reset.fw with slotA := badSlot, slotB := badSlot } }
     !slotRuns s false && !slotRuns s true) = true ∧
    (devBoot 15).boot.stage ≤ 1 ∧ (getSlice (devBoot 15) 15).up = false ∧ excluded (devBoot 15) 15 = false ∧
    ((List.range 15).all fun k => (getSlice (devBoot 15) k).up) = true ∧ (getSlice (devBoot 14) 14).up = false ∧
    ((List.range 14).all fun k => (getSlice (devBoot 14) k).up) = true ∧ excluded (devBoot 14) 14 = false ∧
    ((List.range 16).all fun k => (getSlice (devBoot 16) k).up) = true ∧
    dev.boot.ready = true ∧ dev.boot.stage ≠ 3 ∧ dev.own.owner ≠ some 0 ∧
    { dev.own with owner := some 3 }.owner = some 3 ∧ 17 < dev.fns.length := by decide +kernel

/-- OwnershipResults. -/
theorem witness_ownership :
    let s : State := { dev with own := { dev.own with owner := some 3, claims := [(0, 15)] } }
    let e : State := { dev with own := { dev.own with claims := [(0, 15), (3, 15)], election := some 0 } }
    ownServes s = true ∧ s.own.numVfs = 0 ∧ s.own.ends ≤ s.tick ∧ s.fns.length = 18 ∧ ownServes e = true ∧ e.own.owner = none ∧
    e.own.election = some 0 ∧ e.own.claims ≠ [] := by decide +kernel

/-- LinkResults: port 13 up, retraining since 10 ms, down since 100 ms; a peer's store of one byte that the table admits. -/
def devPort (x : Port) (t : Nat) : State := { dev with ports := List.replicate 13 Port.init ++ [x], tick := t }

/-- LinkResults, credits: a write of 512 bytes on a fresh port, on channels without a header or data credit left, beside one that waits
which it may pass or not. -/
theorem witness_credits :
    let p := Port.init
    let y : Xact := ⟨2, 2, 0⟩
    let x : Xact := ⟨1, 2, 32⟩
    p.retraining = false ∧ (p.credits.getD 1 (0, 0)).1 ≠ 0 ∧ 32 ≤ (p.credits.getD 1 (0, 0)).2 ∧ p.held = [] ∧
    (({ p with credits := [(0, 0), (0, 64), (1, 31), (1, 1)] } : Port).credits.getD 1 (0, 0)).1 = 0 ∧
    (({ p with credits := [(0, 0), (0, 64), (1, 31), (1, 1)] } : Port).credits.getD 2 (0, 0)).2 < 32 ∧ x.passes y = true ∧ x.passes x = false := by
  decide +kernel

theorem witness_links :
    trained (devPort Port.init 0) 13 = true ∧ Port.init.up = true ∧ Port.init.retraining = false ∧ 13 < dev.ports.length ∧
    (getPort (devPort { Port.init with retraining := true } (10 * msec)) 13).since + 10 * msec ≤ 10 * msec ∧
    trained (devPort { Port.init with up := false } (100 * msec)) 13 = true ∧
    (let s := { dev with fabPeer := [(0, 0x81000002)] }
     s.boot.stage == 2 && peerTag s 1 0 == some 2) = true := by decide +kernel

/-- The key ID that the model gives the request is open; whichever it is, it is the tag's. -/
def peerKid : Nat := Config.free .peer [1, 0, 5, 0] % 4096
def devPeer : State := { dev with fabPeer := [(0, 0x81000002)], keyOwner := [(peerKid, 2)] }

theorem witness_peer :
    localOk devPeer 2 5 peerKid false = true ∧ keyOk devPeer 2 peerKid = true ∧ devPeer.fresh = 0 := by
  refine ⟨by decide +kernel, ?_, by decide +kernel⟩
  have hp : peek devPeer.keyOwner peerKid = 2 := by simp [devPeer, peek]
  simp [keyOk, hp]

/-- TelemetryAndLifeResults: a sample 100 000 ticks after the last, a trip that is due. -/
theorem witness_telemetry :
    let s : State := { dev with tick := 100000 }
    s.boot.ready = true ∧ s.boot.stage ≠ 3 ∧ s.tel.last + 100000 ≤ s.tick ∧ s.boot.stage ≠ 0 ∧
    tripDue 0 { dev with tick := msec, tel := { dev.tel with tripSince := some 0, sample := { dev.tel.sample with tj := 120 } } } = true := by
  decide +kernel

/-- StepKeepsInvariant: the invariant holds at reset, from which a step goes on. -/
theorem witness_invariant : DeviceInv State.reset ∧ ∃ t, step State.reset = .next t :=
  ⟨⟨by decide, by decide, by decide, by decide⟩, _, rfl⟩

/-- EncodeDecode: every operand of a well-formed instruction at its largest value. -/
theorem witness_encode :
    wellFormed (.tsub hdr true .sys (.g 62) (.imm 0xFF)) = true ∧
    wellFormed (.mad hdr .i32 true (.v 255) (.v 255) (.v 255) (.v 255)) = true := by decide +kernel

/-! ### One step each

Expected values are worked out by hand from the rule named. -/

def after (i : Instr) (s : State) (f : State → Bool) : Bool :=
  match exec i s with
  | .next t => f t
  | _ => false

/-- R149: 32-bit addition wraps. -/
theorem test_gadd_wraps :
    after (.gadd hdr .n32 false (.g 4) (.g 2) (.imm 1)) (devG [(2, 0xFFFFFFFF)]) (fun t => t.g.gAt 4 == 0) = true := by decide +kernel

/-- R149 with `.sat`: it saturates instead. -/
theorem test_gadd_saturates :
    after (.gadd hdr .n32 true (.g 4) (.g 2) (.imm 1)) (devG [(2, 0xFFFFFFFF)]) (fun t => t.g.gAt 4 == 0xFFFFFFFF) = true := by
  decide +kernel

/-- R152: a source that is also the destination is read first; a subtraction below 0 wraps; lane 1 keeps its own value. -/
theorem test_sub_in_place :
    after (.sub hdr .n32 false (.v 1) (.v 1) .lane) { dev with g := { dev.g with regs := { dev.g.regs with v := [(64, 7)] } } }
      (fun t => t.g.vAt 1 0 == 7 && t.g.vAt 1 1 == 0xFFFFFFFF && t.g.vAt 1 31 == 0xFFFFFFE1) = true := by decide +kernel

/-- R162: 1.0 + 2.0 = 3.0, and nothing is flagged. -/
theorem test_fadd :
    after (.fadd hdr .f32 false .rn false false (.v 4) (.v 1) (.v 2))
      { dev with g := { dev.g with regs := { dev.g.regs with v := [(64, 0x3F800000), (128, 0x40000000)] } } }
      (fun t => t.g.vAt 4 0 == 0x40400000 && t.g.fflags == 0) = true := by decide +kernel

/-- R128: a transfer that every lane takes. -/
theorem test_bra : after (.bra chdr 4 8) dev (fun t => t.g.pc == dev.g.pc + 32) = true := by decide +kernel

/-- R33–R35: a software trap goes to the handler of the launch descriptor, in a shadow context; R36: `eret` leaves it. -/
theorem test_trap :
    after (.trap ⟨7, false⟩ (.imm 5)) devTrap (fun t => t.g.pc == 0x8000 && t.g.sh.isSome && t.g.tpc == dev.g.pc + 8) = true := by
  decide +kernel
theorem test_eret : after .eret (devSh .trap) (fun t => t.g.sh.isNone) = true := by decide +kernel

/-- R2: bytes are stored with the least significant at the lowest address. -/
theorem test_st_byte_order :
    after (.gst hdr .pd .dflt .b32 (.g 8) (.g 2) .zero (.short 0)) (devG [(2, 0xFFFC), (8, 0x04030201)])
      (fun t => peek t.t.pad 0xFFFC == 1 && peek t.t.pad 0xFFFF == 4 && peek t.t.pad 0xFFFB == 0) = true := by decide +kernel

/-- The example of R199: two lanes add 2^-24 to the 1.0 at one address. -/
def devAdd : State :=
  let s := withPad (fun p => pokeBytes p 0xFFFC 4 0x3F800000) (devG [(2, 0xFFFC)])
  { s with g := { s.g with em := 3, live := 3, regs := { s.g.regs with v := [(512, 0x33800000), (513, 0x33800000)] } } }

theorem test_atm_fadd :
    after (.atm hdr .fadd .dev false (.v 4) (.g 2) .zero (.v 8) (.ext .pd false false 0)) devAdd
      (fun t => t.g.vAt 4 0 == 0x3F800000 && t.g.vAt 4 1 == 0x3F800000 && padRead t.t 0xFFFC 4 == 0x3F800001) = true := by decide +kernel

/-- R205, R208: the last arrival completes the phase, and the count starts again. -/
theorem test_arv_completes :
    after (.arv hdr .team (.g 10) (.g 4)) devB
      (fun t => (getObj t.t 0xF0).phase == 4 && (getObj t.t 0xF0).carr == 0 && t.g.gAt 10 == 3) = true := by decide +kernel

/-- R494, R495: with no image that verifies the device halts. -/
theorem test_power_good_halts :
    after .powerGood { State.reset with fw := { State.reset.fw with slotA := badSlot, slotB := badSlot } }
      (fun t => t.boot.stage == 3 && !t.boot.ready) = true := by decide +kernel

/-- R439, R441: ASSIGN gives slice 15 to tag 16. -/
theorem test_assign :
    after .assign (devPm (pmBlock 1 16 0x8000 0 0 0 0) 0)
      (fun t => (getSlice t 15).owner == 16 && (getSlice t 15).st == 1 && (getSlice t 14).st == 0 && !t.pm.busy && t.pm.last == 1) = true := by
  decide +kernel

end Sys2Proof.Tests
end

section
/-!
SUPPORT. The groups of a state under what reports, traces, credits, signals and ends a team: all of it leaves every group as
it is, so that what a group is when it starts or ends is what the operation itself wrote (spec/01 R15, R23).
-/
namespace Sys2Proof.Machine

/-! ### Writing memory, counting and tracing -/

/-- t is s after bytes were written at virtual addresses, transactions sent, events counted and trace records stored: no
group, team or task has changed (R301, R407, R425, R480). -/
def Recorded (s t : State) : Prop :=
  t = { s with mem := t.mem, tlb := t.tlb, ports := t.ports, obs := t.obs, evc := t.evc, trLost := t.trLost }

theorem Recorded.refl (s : State) : Recorded s s := rfl

theorem Recorded.trans {s t u : State} (h : Recorded s t) (k : Recorded t u) : Recorded s u := by
  unfold Recorded at *
  rw [k, h]

theorem Recorded.ite {c : Prop} [Decidable c] {s t u : State} (ht : Recorded s t) (hu : Recorded s u) :
    Recorded s (if c then t else u) := by
  split
  · exact ht
  · exact hu

theorem Recorded.group {s t : State} (h : Recorded s t) : t.g = s.g := by rw [h]

theorem Recorded.groups {s t : State} (h : Recorded s t) : t.gs = s.gs := by rw [h]

theorem Recorded.team {s t : State} (h : Recorded s t) : t.t = s.t := by rw [h]

theorem recorded_gPut (x : Xl) (i : Nat) (b : Byte) (s : State) : Recorded s (gPut x i b s) := by
  unfold gPut
  split
  · rfl
  · rfl
  · exact .ite rfl rfl

theorem recorded_gWrite (x : Xl) (v n : Nat) (s : State) : Recorded s (gWrite x v n s) := by
  induction n with
  | zero => rfl
  | succ n ih => exact ih.trans (recorded_gPut _ _ _ _)

theorem recorded_vPut {tag va : Nat} {bs : List Byte} {s t : State} (e : vPut tag va bs s = .ok t) : Recorded s t := by
  induction bs generalizing va s with
  | nil => cases e; rfl
  | cons b bs ih =>
    unfold vPut at e
    split at e
    · cases e
    · exact (recorded_gPut _ _ _ s).trans (.trans (t := tlbPut _ _) rfl (ih e))

theorem recorded_sendOut (target vc tag n : Nat) (data : Bool) (s : State) :
    Recorded s (sendOut target vc tag n data s) := by
  unfold sendOut
  refine .ite rfl ?_
  split
  · rfl
  · rfl

theorem recorded_vWriteAll {tag va : Nat} {bs : List Byte} {s t : State} (e : vWriteAll tag va bs s = some t) :
    Recorded s t := by
  unfold vWriteAll at e
  split at e
  · next hp =>
    cases e
    unfold sendVa
    split
    · exact (recorded_vPut hp).trans (recorded_sendOut ..)
    · exact recorded_vPut hp
  · cases e

theorem recorded_written (tag va : Nat) (bs : List Byte) (s : State) :
    Recorded s ((vWriteAll tag va bs s).getD s) := by
  cases e : vWriteAll tag va bs s with
  | none => rfl
  | some t => exact recorded_vWriteAll e

theorem recorded_countEv (tag core n amt : Nat) (s : State) : Recorded s (countEv tag core n amt s) := by
  unfold countEv
  dsimp only
  split
  · rfl
  · rfl

theorem recorded_trStore {tag cl : Nat} {bs : List Byte} {s t : State} (k : trStore tag cl bs s = some t) :
    Recorded s t := by
  unfold trStore at k
  dsimp only at k
  split at k
  · cases k
  · split at k
    · cases k
    · next hw => cases k; exact (recorded_vWriteAll hw).trans rfl

theorem recorded_trDrop (tag cl core : Nat) (gid : Word) (s : State) : Recorded s (trDrop tag cl core gid s) := by
  unfold trDrop
  refine .ite rfl (.trans ?_ (recorded_countEv ..))
  rfl

theorem recorded_trace (tag core ty : Nat) (pc : VA) (gid payload : Word) (mask : Mask) (s : State) :
    Recorded s (trace tag core ty pc gid payload mask s) := by
  unfold trace
  refine .ite rfl ?_
  dsimp only
  split
  · exact recorded_trDrop ..
  · next s1 note =>
    have h1 : Recorded s s1 := by
      split at note
      · cases note; rfl
      · obtain ⟨r, hr, rfl⟩ := Option.map_eq_some_iff.1 note
        exact (recorded_trStore hr).trans rfl
    split
    · next hs => exact h1.trans (recorded_trStore hs)
    · exact h1.trans (recorded_trDrop ..)

/-! ### The groups of a state -/

section Groups

/-- The groups of a state: x in focus, and the others. -/
def HasGroups (x : Group) (xs : List Group) (s : State) : Prop := s.g = x ∧ s.gs = xs

variable {x : Group} {xs : List Group} {s t : State}

theorem HasGroups.of_eq (h : HasGroups x xs s) (hg : t.g = s.g) (hgs : t.gs = s.gs) : HasGroups x xs t :=
  ⟨hg.trans h.1, hgs.trans h.2⟩

theorem HasGroups.recorded (h : HasGroups x xs s) (r : Recorded s t) : HasGroups x xs t :=
  h.of_eq r.group r.groups

theorem hasGroups_ite {c : Prop} [Decidable c] (hs : HasGroups x xs s) (ht : HasGroups x xs t) :
    HasGroups x xs (if c then s else t) := by
  split
  · exact hs
  · exact ht

theorem hasGroups_foldl {α : Type} {f : State → α → State} (hf : ∀ s a, HasGroups x xs s → HasGroups x xs (f s a))
    (l : List α) (h : HasGroups x xs s) : HasGroups x xs (l.foldl f s) := by
  induction l generalizing s with
  | nil => exact h
  | cons a l ih => exact ih (hf _ _ h)

/-! ### Events -/

theorem hasGroups_updFn {n f} (h : HasGroups x xs s) : HasGroups x xs (updFn n f s) := h.of_eq rfl rfl

theorem hasGroups_ringPush {tag e fl} (h : HasGroups x xs s) (k : ringPush tag e fl s = some t) : HasGroups x xs t := by
  unfold ringPush at k
  dsimp only at k
  split at k
  · cases k
  · split at k
    · cases k
    · split at k
      · cases k
      · split at k
        · cases k
        · next h1 =>
          split at k
          · cases k
          · next h2 =>
            cases k
            exact hasGroups_updFn (h.recorded (((recorded_vWriteAll h1).trans (recorded_vWriteAll h2)).trans (recorded_sendOut ..)))

theorem hasGroups_ringLost {tag} (h : HasGroups x xs s) : HasGroups x xs (ringLost tag s) := by
  unfold ringLost
  exact hasGroups_ite (hasGroups_updFn h) h

theorem hasGroups_ringCatchUp {tag} (h : HasGroups x xs s) : HasGroups x xs (ringCatchUp tag s) := by
  unfold ringCatchUp
  dsimp only
  split
  · exact h
  · split
    · next hp => exact hasGroups_updFn (hasGroups_ringPush h hp)
    · exact h

theorem hasGroups_ringEvent {tag e fl} (h : HasGroups x xs s) : HasGroups x xs (ringEvent tag e fl s) := by
  have hc := hasGroups_ringCatchUp (tag := tag) h
  unfold ringEvent
  dsimp only
  split
  · split
    · next hp => exact hasGroups_ringPush hc hp
    · exact hasGroups_ringLost hc
  · exact hasGroups_ringLost hc

theorem hasGroups_keepRecent {e fl seq} (h : HasGroups x xs s) : HasGroups x xs (keepRecent e fl seq s) := by
  unfold keepRecent
  exact hasGroups_ite (h.of_eq rfl rfl) h

theorem hasGroups_askReset {r} (h : HasGroups x xs s) : HasGroups x xs (askReset r s) := by
  unfold askReset
  exact hasGroups_ite h (h.of_eq rfl rfl)

theorem hasGroups_severity {tag slice} (h : HasGroups x xs s) : HasGroups x xs (severity tag slice s) := by
  unfold severity
  exact hasGroups_ite ((hasGroups_askReset h).of_eq rfl rfl) (hasGroups_updFn h)

theorem hasGroups_emit {tag e} (h : HasGroups x xs s) : HasGroups x xs (emit tag e s) := by
  unfold emit
  refine hasGroups_ite (h.of_eq rfl rfl) ?_
  have own {st fl seq} := hasGroups_ringEvent (tag := tag) (e := e) (fl := fl)
    (hasGroups_keepRecent (e := e) (fl := fl) (seq := seq) (hasGroups_updFn (n := tag) (f := st) h))
  have told {st fl seq c} [Decidable c] := hasGroups_ite (c := c)
    (hasGroups_ringEvent (tag := 1) (e := { e with addr := 0 }) (fl := fl) (own (st := st) (fl := fl) (seq := seq)))
    (own (st := st) (fl := fl) (seq := seq))
  exact hasGroups_ite (hasGroups_severity told) told

/-! ### Watchpoint hits -/

theorem hasGroups_takeHit {w} (h : HasGroups x xs s) : HasGroups x xs (takeHit w s) :=
  .recorded (s := { s with wpq := s.wpq ++ [w] }) (h.of_eq rfl rfl) ((recorded_trace ..).trans (recorded_countEv ..))

theorem hasGroups_wpQueue {tag core kind grp gid pc pos ys} (h : HasGroups x xs s) :
    HasGroups x xs (wpQueue tag core kind grp gid pc pos ys s) :=
  hasGroups_foldl (fun _ _ hs => hasGroups_takeHit hs) _ h

theorem hasGroups_wpEngine {tag ys} (h : HasGroups x xs s) : HasGroups x xs (wpEngine tag ys s) := by
  unfold wpEngine
  exact hasGroups_ite h (hasGroups_foldl (fun _ _ hs => hasGroups_wpQueue hs) _ h)

/-! ### Credits, signals and records -/

theorem hasGroups_updTeam {uid f} (h : HasGroups x xs s) : HasGroups x xs (updTeam uid f s) := h.of_eq rfl rfl

theorem hasGroups_credit {tag team off n gid slice sig} (h : HasGroups x xs s) :
    HasGroups x xs (credit tag team off n gid slice sig s) := by
  unfold credit
  refine hasGroups_ite (h.of_eq rfl rfl) ?_
  unfold landCredit
  dsimp only
  split
  · exact hasGroups_ite (hasGroups_wpEngine (hasGroups_updTeam h)) (hasGroups_emit h)
  · exact hasGroups_emit h

theorem hasGroups_setSlotState {tag va st} (h : HasGroups x xs s) : HasGroups x xs (setSlotState tag va st s) := by
  unfold setSlotState
  split
  · exact h.of_eq rfl rfl
  · exact h

theorem hasGroups_ready {w} (h : HasGroups x xs s) : HasGroups x xs { s with ready := w } := h.of_eq rfl rfl

theorem hasGroups_newUid (h : HasGroups x xs s) : HasGroups x xs (newUid s).2 := h.of_eq rfl rfl

theorem hasGroups_updCtx {tag f} (h : HasGroups x xs s) : HasGroups x xs (updCtx tag f s) := h.of_eq rfl rfl

theorem hasGroups_closeBatch {tag node tick} (h : HasGroups x xs s) : HasGroups x xs (closeBatch tag node tick s) := by
  unfold closeBatch
  split
  · exact h
  · split
    · exact h
    · refine hasGroups_ite h ?_
      exact hasGroups_ready (hasGroups_updCtx
        (hasGroups_foldl (fun _ _ hs => hs.recorded (recorded_written ..)) _ (hasGroups_newUid h)))

theorem hasGroups_closeDue {tag node} (h : HasGroups x xs s) : HasGroups x xs (closeDue tag node s) := by
  unfold closeDue
  split
  · exact h
  · split
    · exact h
    · split
      · exact h
      · exact hasGroups_ite (hasGroups_closeBatch h) h

theorem hasGroups_enterRec {r} (h : HasGroups x xs s) : HasGroups x xs (enterRec r s) := by
  unfold enterRec
  have due : HasGroups x xs (if r.node then closeDue r.tag r.idx s else s) := hasGroups_ite (hasGroups_closeDue h) h
  have stored {va bs va' bs'} :=
    (hasGroups_setSlotState (tag := r.tag) (va := r.slot) (st := some .submitted) due).recorded
      ((recorded_written r.tag va bs _).trans (recorded_written r.tag va' bs' _))
  refine hasGroups_ite ?_ (stored.of_eq rfl rfl)
  dsimp only
  split
  · split
    · exact hasGroups_ite (hasGroups_closeBatch (hasGroups_updCtx stored)) (hasGroups_updCtx stored)
    · exact hasGroups_updCtx stored
  · exact hasGroups_updCtx stored

theorem hasGroups_fireCounter {tag va w gid gen slice subs sig} (h : HasGroups x xs s) :
    HasGroups x xs (fireCounter tag va w gid gen slice subs sig s) := by
  unfold fireCounter
  split
  · exact hasGroups_ite (hasGroups_enterRec (hasGroups_ite (hasGroups_emit h) h)) (hasGroups_emit h)
  · exact hasGroups_emit h

theorem hasGroups_signal {tag unit va j gid gen slice subs sig} (h : HasGroups x xs s)
    (k : signal tag unit va j gid gen slice subs sig s = .ok t) : HasGroups x xs t := by
  unfold signal at k
  dsimp only at k
  split at k
  · cases k
  · split at k
    · cases k
    · split at k
      · cases k
      · next y _ _ _ =>
        have counted {v v'} := h.recorded
          ((recorded_gWrite y v 4 s).trans (recorded_gWrite { y with addr := y.addr + 4 } v' 4 _))
        cases k
        exact hasGroups_ite (hasGroups_fireCounter (counted.of_eq rfl rfl)) (counted.of_eq rfl rfl)

/-! ### The end of a team -/

theorem hasGroups_fireMons {p} (h : HasGroups x xs s) : HasGroups x xs (fireMons p s) := by
  unfold fireMons
  refine hasGroups_foldl (fun s m hs => hasGroups_updTeam ?_) _ (h.of_eq rfl rfl)
  split
  · exact hs.of_eq rfl rfl
  · exact hs

theorem hasGroups_returnSlot {tag va} (h : HasGroups x xs s) : HasGroups x xs (returnSlot tag va s) := by
  unfold returnSlot
  split
  · exact hasGroups_fireMons (hasGroups_setSlotState (h.recorded (recorded_written ..)))
  · exact h

theorem hasGroups_updSub {uid f} (h : HasGroups x xs s) : HasGroups x xs (updSub uid f s) := h.of_eq rfl rfl

theorem hasGroups_slices {v} (h : HasGroups x xs s) : HasGroups x xs { s with slices := v } := h.of_eq rfl rfl

theorem hasGroups_teamEnd {uid} (h : HasGroups x xs s) : HasGroups x xs (teamEnd uid s) := by
  unfold teamEnd
  split
  · exact h
  · dsimp only
    split
    · refine hasGroups_updSub (hasGroups_slices (hasGroups_foldl (fun _ _ hs => hasGroups_returnSlot hs) _ ?_))
      exact h.of_eq rfl rfl
    · refine hasGroups_slices (hasGroups_foldl (fun _ _ hs => hasGroups_returnSlot hs) _ ?_)
      exact h.of_eq rfl rfl

theorem hasGroups_teamQuiet {uid} (h : HasGroups x xs s) : HasGroups x xs (teamQuiet uid s) := by
  unfold teamQuiet
  split
  · exact h
  · exact hasGroups_ite h (hasGroups_ite (hasGroups_updTeam h) (hasGroups_teamEnd h))

theorem hasGroups_acquireL1 {tag core sig} (h : HasGroups x xs s) : HasGroups x xs (acquireL1 tag core sig s) := by
  unfold acquireL1
  have counted {n} : HasGroups x xs (if n = 0 then s else countEv tag core 7 n s) :=
    hasGroups_ite h (h.recorded (recorded_countEv ..))
  exact hasGroups_ite (.recorded (s := l1Drop _ _ _) (counted.of_eq rfl rfl) (recorded_countEv ..))
    (counted.of_eq rfl rfl)

end Groups

end Sys2Proof.Machine
end

section
/-!
SUPPORT. How a group starts, ends and yields (spec/01 R15, R21, R23, spec/05 R132, R133, spec/10 R290), and the statement
GroupLifeResults.
-/
namespace Sys2Proof.Machine

/-! ### The start of a group -/

/-- A group as it starts (R15, R145, R290): blank but for who it is, where it stands and its launch inputs. -/
def freshGroup (t : Team) (gidx slot : Nat) (sig : BitVec 1024) (inst uid tick : Nat) (pc : VA) (halted : Bool) : Group :=
  { Group.blank with
    uid := uid, team := t.uid, slot := slot, inst := inst, gidx := gidx, gw := t.desc.gw, start := tick,
    stat := .running, pc := pc, em := laneMask t.desc.gw, live := laneMask t.desc.gw, fmode := t.desc.fz, sig := sig,
    halted := halted,
    regs := { Bank.empty with
      g := launchRegs t.desc t.idx gidx t.argp.toNat (Origin.inputs t.origin).1 (Origin.inputs t.origin).2 } }

theorem acquired_gs (c : Prop) [Decidable c] (tag core : Nat) (sig : BitVec 1024) (s : State) :
    (if c then s else acquireL1 tag core sig s).gs = s.gs :=
  (hasGroups_ite (x := s.g) ⟨rfl, rfl⟩ (hasGroups_acquireL1 ⟨rfl, rfl⟩)).2

/-- Starting a group adds it to the others and changes none of them. -/
theorem startGroup_gs (t : Team) (gidx slot : Nat) (sig : BitVec 1024) (entry : VA) (s : State) :
    ∃ inst pc halted, (startGroup t gidx slot sig entry s).gs =
      s.gs ++ [freshGroup t gidx slot sig inst s.nextUid s.tick pc halted] := by
  simp only [startGroup, startSlot, newUid, (recorded_trace ..).groups, acquired_gs]
  exact ⟨_, _, _, rfl⟩

/-- The halves of a number, in a pair of registers. -/
theorem ofNat_pair (n : Nat) : (BitVec.ofNat 32 (n / 2 ^ 32) : Word) ++ (BitVec.ofNat 32 n : Word) = BitVec.ofNat 64 n := by
  rw [← ofNat_halves (BitVec.ofNat 64 n)]
  congr 1
  · apply BitVec.eq_of_toNat_eq
    simp
    omega
  · apply BitVec.eq_of_toNat_eq
    simp

theorem gPair_of_halves {x : Group} {r n : Nat} (lo : x.gAt r = BitVec.ofNat 32 n)
    (hi : x.gAt (r + 1) = BitVec.ofNat 32 (n / 2 ^ 32)) : x.gPair r = BitVec.ofNat 64 n := by
  rw [Group.gPair, lo, hi, ofNat_pair]

/-- The uniform registers of a group that starts (R290). -/
theorem peek_launchRegs (d : Desc) (team gidx argp arg slot r : Nat) :
    let top := if d.gstack = 0 then 0 else d.gstack + (team * d.ngrp + gidx + 1) * d.gstksz
    peek (launchRegs d team gidx argp arg slot) r =
      if r = 62 then BitVec.ofNat 32 (d.pad - gidx * d.pdstk)
      else if r = 59 then BitVec.ofNat 32 (top / 2 ^ 32)
      else if r = 58 then BitVec.ofNat 32 top
      else if r = 5 then BitVec.ofNat 32 (slot / 2 ^ 32)
      else if r = 4 then BitVec.ofNat 32 slot
      else if r = 3 then BitVec.ofNat 32 (arg / 2 ^ 32)
      else if r = 2 then BitVec.ofNat 32 arg
      else if r = 1 then BitVec.ofNat 32 (argp / 2 ^ 32)
      else if r = 0 then BitVec.ofNat 32 argp
      else 0 := by
  simp only [launchRegs, peek_poke]
  rfl

section Fresh

variable {t : Team} {gidx slot : Nat} {sig : BitVec 1024} {inst uid tick : Nat} {pc : VA} {halted : Bool}

theorem freshGroup_gAt (r : Nat) : (freshGroup t gidx slot sig inst uid tick pc halted).gAt r =
    peek (launchRegs t.desc t.idx gidx t.argp.toNat (Origin.inputs t.origin).1 (Origin.inputs t.origin).2) r := rfl

/-- A uniform register that holds no launch input reads zero (R15, R290). -/
theorem freshGroup_gAt_zero {r : Nat} (h6 : 6 ≤ r) (h58 : r ≠ 58) (h59 : r ≠ 59) (h62 : r ≠ 62) :
    (freshGroup t gidx slot sig inst uid tick pc halted).gAt r = 0 := by
  have low : r ≠ 0 ∧ r ≠ 1 ∧ r ≠ 2 ∧ r ≠ 3 ∧ r ≠ 4 ∧ r ≠ 5 := by omega
  simp [freshGroup_gAt, peek_launchRegs, low, h58, h59, h62]

/-- The uniform registers hold the launch inputs and nothing else (R15, R290). -/
theorem freshGroup_inputs : let x := freshGroup t gidx slot sig inst uid tick pc halted
    let d := t.desc
    x.gPair 0 = t.argp ∧ x.gPair 2 = BitVec.ofNat 64 (Origin.inputs t.origin).1 ∧
      x.gPair 4 = BitVec.ofNat 64 (Origin.inputs t.origin).2 ∧
      x.gPair 58 = BitVec.ofNat 64 (if d.gstack = 0 then 0 else d.gstack + (t.idx * d.ngrp + gidx + 1) * d.gstksz) ∧
      x.gAt 62 = BitVec.ofNat 32 (d.pad - gidx * d.pdstk) ∧ ∀ r, 6 ≤ r → r ≠ 58 → r ≠ 59 → r ≠ 62 → x.gAt r = 0 := by
  have argp := gPair_of_halves (x := freshGroup t gidx slot sig inst uid tick pc halted) (r := 0) (n := t.argp.toNat)
    (by simp [freshGroup_gAt, peek_launchRegs]) (by simp [freshGroup_gAt, peek_launchRegs])
  rw [BitVec.ofNat_toNat, BitVec.setWidth_eq] at argp
  refine ⟨argp, gPair_of_halves ?_ ?_, gPair_of_halves ?_ ?_, gPair_of_halves ?_ ?_, ?_, fun _ => freshGroup_gAt_zero⟩
  all_goals simp [freshGroup_gAt, peek_launchRegs]

/-- No predicate below p7 holds of a lane (R15). -/
theorem freshGroup_pAt {n : Nat} (h : n < 7) : (freshGroup t gidx slot sig inst uid tick pc halted).pAt n = 0 :=
  if_neg (by omega)

/-- The gang registers are invalid (R15). -/
theorem freshGroup_gang : ∀ k ∈ (freshGroup t gidx slot sig inst uid tick pc halted).k, k.valid = false :=
  fun _ hk => congrArg GangReg.valid (List.eq_of_mem_replicate hk)

end Fresh

/-- R15, R145, R290: a group starts blank, with its launch inputs in its uniform registers. -/
theorem groupStartResults : Claims.GroupStartResults := by
  intro t gidx slot sig entry s
  obtain ⟨inst, pc, halted, hgs⟩ := startGroup_gs t gidx slot sig entry s
  exact ⟨_, hgs, rfl, rfl, rfl, fun _ _ => ⟨rfl, rfl⟩, fun _ => freshGroup_pAt, fun _ => rfl, freshGroup_gang,
    rfl, rfl, rfl, rfl, rfl, freshGroup_inputs⟩

/-! ### The start of an instruction -/

theorem nextPc_begin (e : Enc) (s : State) : nextPc e (beginIssue e s) = afterPc e s := by
  unfold nextPc afterPc
  rw [Steady.begin (f := Group.pc) (fun _ _ _ _ _ _ _ _ => rfl)]

theorem beginIssue_uid (e : Enc) (s : State) : (beginIssue e s).g.uid = s.g.uid :=
  Steady.begin (f := Group.uid) (fun _ _ _ _ _ _ _ _ => rfl) e s

theorem beginIssue_live (e : Enc) (s : State) : (beginIssue e s).g.live = s.g.live :=
  Steady.begin (f := Group.live) (fun _ _ _ _ _ _ _ _ => rfl) e s

theorem beginIssue_em (e : Enc) (s : State) : (beginIssue e s).g.em = s.g.em :=
  Steady.begin (f := Group.em) (fun _ _ _ _ _ _ _ _ => rfl) e s

theorem beginIssue_bank (e : Enc) (s : State) : (beginIssue e s).g.bank = s.g.bank :=
  Steady.begin (f := Group.bank) (fun _ _ _ _ _ _ _ _ => rfl) e s

theorem beginIssue_t (e : Enc) (s : State) : (beginIssue e s).t = s.t := by
  obtain ⟨p, a, c, d, f, g, h, wd, we, ev, ob, fr, tl, wq, hb, hq⟩ := beginIssue_spec e s
  rw [hb]

/-- The device after the start of an instruction, whatever the group in focus has become. -/
theorem sameDevice_begin (e : Enc) (s : State) (y : Group) : SameDevice s { beginIssue e s with g := y } := by
  obtain ⟨p, a, c, d, f, g, h, wd, we, ev, ob, fr, tl, wq, hb, hq⟩ := beginIssue_spec e s
  rw [hb]; rfl

theorem sameBytes_begin (e : Enc) (s : State) (y : Group) : SameBytes s { beginIssue e s with g := y } := by
  obtain ⟨p, a, c, d, f, g, h, wd, we, ev, ob, fr, tl, wq, hb, hq⟩ := beginIssue_spec e s
  rw [hb]; exact ⟨fun _ => ⟨rfl, rfl, rfl, rfl, rfl⟩, fun _ _ => rfl⟩

theorem sameHits_beginIssue (e : Enc) (s : State) (y : Group) : SameHits s { beginIssue e s with g := y } := by
  obtain ⟨p, a, c, d, f, g, h, wd, we, ev, ob, fr, tl, wq, hb, hq⟩ := beginIssue_spec e s
  rw [hb]; exact hq

/-- An instruction that only goes on behind itself. -/
theorem regFrame_seqNext (e : Enc) (s : State) : RegFrame s (seqNext e (beginIssue e s)) [] 0 0 :=
  regFrame_of (F := id) ⟨_, rfl, .refl _, (Wrote.refl _ _ _).sameRegs, BitVec.or_zero.symm⟩

/-! ### The end of a group -/

theorem taskEnd_groups (s : State) : ∃ u sg, HasGroups { s.g with unack := u, sig := sg } s.gs (taskEnd s) := by
  unfold taskEnd
  split
  · exact ⟨_, _, rfl, rfl⟩
  · refine ⟨0, 0, hasGroups_foldl (fun s r hs => hasGroups_ite hs ?signal) _
      (hasGroups_foldl (fun s r hs => ?credit) _ ⟨rfl, rfl⟩)⟩
    case signal =>
      split
      · next h => exact hasGroups_signal hs h
      · exact hasGroups_emit hs
    case credit =>
      split
      · split
        · exact hasGroups_credit hs
        · exact hasGroups_emit hs
      · exact hs

/-- With no rendezvous latch in use none breaks (R236). -/
theorem breakLatches_none {gidx : Nat} {keep : Option Word} {s : State} (h : s.t.latches = []) :
    (breakLatches gidx keep s).2 = [] ∧ (breakLatches gidx keep s).1.g = s.g := by
  simp [breakLatches, h]

/-- A group that no longer issues: no live lane, nothing held or pending (R23, R132). -/
def Group.finish (st : GStat) (x : Group) : Group :=
  { x with stat := st, live := 0, lockRes := false, lockLost := false, arrive := none, stop := none }

theorem endGroup_eq (st : GStat) (pc : VA) (s : State) : endGroup st pc s =
    let s1 := traceMine 9 pc 0 0 (onG (Group.finish st) s)
    let b := breakLatches s1.g.gidx none s1
    (teamQuiet (taskEnd b.1).t.uid (taskEnd b.1), b.2) := rfl

/-- A group that ends with no latch in use breaks none, has no live lane and keeps its number (R23, R132). -/
theorem endGroup_spec (st : GStat) (pc : VA) {s : State} (h : s.t.latches = []) :
    (endGroup st pc s).2 = [] ∧ (endGroup st pc s).1.g.uid = s.g.uid ∧ (endGroup st pc s).1.g.stat = st ∧
      (endGroup st pc s).1.g.live = 0 := by
  have traced : Recorded (onG (Group.finish st) s) (traceMine 9 pc 0 0 (onG (Group.finish st) s)) := recorded_trace ..
  rw [endGroup_eq]
  generalize traceMine 9 pc 0 0 (onG (Group.finish st) s) = s1 at traced ⊢
  obtain ⟨hnone, hg⟩ := breakLatches_none (gidx := s1.g.gidx) (keep := none) (s := s1) (by rw [traced.team]; exact h)
  obtain ⟨u, sg, ended⟩ := taskEnd_groups (breakLatches s1.g.gidx none s1).1
  have hx : (breakLatches s1.g.gidx none s1).1.g = Group.finish st s.g := hg.trans traced.group
  rw [hx] at ended
  dsimp only
  rw [(hasGroups_teamQuiet ended).1]
  exact ⟨hnone, rfl, rfl, rfl⟩

/-- What is left of a group that has ended: its number, no live lane, and a state in which it never issues (R23, R285). -/
theorem withBroken_endGroup {uid : Nat} (pc : VA) {s : State} (h : s.t.latches = []) :
    (withBroken uid (endGroup .ended pc s)).g.uid = s.g.uid ∧ (withBroken uid (endGroup .ended pc s)).g.stat = .ended ∧
      (withBroken uid (endGroup .ended pc s)).g.live = 0 := by
  obtain ⟨hnone, hend⟩ := endGroup_spec .ended pc h
  unfold withBroken
  rw [if_pos hnone]
  exact hend

/-! ### Lanes that `exit` takes away -/

/-- The lanes of a path that is not complete. -/
def Other.lanes : Other → Mask
  | .fresh _ m => m
  | .yielded _ m => m
  | .waiting _ m _ => m
  | .done => 0

/-- No lane of m is live, active or on a path to come. -/
structure LanesGone (m : Mask) (x : Group) : Prop where
  em : x.em &&& m = 0
  live : x.live &&& m = 0
  paths : ∀ d ∈ x.bank.stk, d.other.lanes &&& m = 0

theorem setStk_stk (x : Group) (stk : List DivEntry) : (x.setStk stk).bank.stk = stk := by
  rw [Group.setStk, onBank_bank]

theorem Walked.live {x y : Group} (h : Walked x y) : y.live = x.live := by rw [h.rest]

theorem setStk_live (x : Group) (stk : List DivEntry) : (x.setStk stk).live = x.live := by
  unfold Group.setStk Group.onBank
  cases x.sh <;> rfl

/-- Another place under another stack, as a new run. -/
theorem LanesGone.place {m : Mask} {x : Group} (h : LanesGone m x) {em : Mask} (pc : VA) {stk : List DivEntry}
    (he : em &&& m = 0) (hs : ∀ d ∈ stk, d.other.lanes &&& m = 0) :
    LanesGone m ({ x with pc := pc, em := em }.setStk stk).endRun where
  em := (congrArg (· &&& m) (setStk_place _ _).2.1).trans he
  live := (congrArg (· &&& m) (setStk_live _ _)).trans h.live
  paths := fun d hd => hs d ((setStk_stk { x with pc := pc, em := em } stk) ▸ hd)

/-- The lanes of m stay away, whatever paths are switched (R19, R23). -/
theorem lanesGone_settleGo {m : Mask} (nrm : VA → VA) (fin : Bool) (n : Nat) {x : Group} (h : LanesGone m x) :
    LanesGone m (settleGo nrm fin n x) := by
  induction n generalizing x with
  | zero => exact h
  | succ n ih =>
    unfold settleGo
    cases hb : x.bank.stk with
    | nil =>
      dsimp only
      split
      · exact ⟨h.live, h.live, h.paths⟩
      · exact h
    | cons d rest =>
      have hd : d.other.lanes &&& m = 0 := h.paths d (by simp [hb])
      have hrest : ∀ d ∈ rest, d.other.lanes &&& m = 0 := fun d' hd' => h.paths d' (by simp [hb, hd'])
      have crossed {em} (pc : VA) (he : em &&& m = 0) : LanesGone m (x.cross pc em .done d rest) :=
        h.place pc he (by simpa [Other.lanes] using hrest)
      dsimp only
      split
      · split
        · refine ih (h.place _ ?_ hrest)
          rw [BitVec.and_assoc, h.live]
          exact BitVec.and_zero
        · cases ho : d.other with
          | fresh pc em => rw [ho] at hd; exact ih (crossed _ hd)
          | yielded pc em => rw [ho] at hd; exact ih (crossed _ hd)
          | waiting pc em w =>
            rw [ho] at hd
            obtain ⟨he, hl, hp⟩ := crossed pc hd
            exact ⟨he, hl, hp⟩
          | done => exact h
      · exact h

theorem and_not_and_self (a m : Mask) : a &&& ~~~m &&& m = 0 := by
  rw [BitVec.and_assoc, BitVec.and_comm (~~~m), BitVec.and_not_self]
  exact BitVec.and_zero

theorem lanes_without (m : Mask) (d : DivEntry) : (d.without m).other.lanes &&& m = 0 := by
  cases ho : d.other with
  | done => simp [DivEntry.without, Other.lanes, ho]
  | _ => simpa only [DivEntry.without, Other.lanes, ho] using and_not_and_self _ m

theorem dropLanes_bank (m : Mask) (x : Group) :
    (x.dropLanes m).bank = { x.bank with stk := x.bank.stk.map (DivEntry.without m) } := by
  unfold Group.dropLanes Group.bank
  cases x.sh <;> rfl

theorem dropLanes_shadowed (m : Mask) (x : Group) : (x.dropLanes m).shadowed = x.shadowed := by
  unfold Group.dropLanes Group.shadowed
  cases x.sh <;> rfl

theorem lanesGone_dropLanes (m : Mask) (x : Group) : LanesGone m (x.dropLanes m) where
  em := and_not_and_self _ _
  live := and_not_and_self _ _
  paths := by
    intro d hd
    rw [dropLanes_bank] at hd
    obtain ⟨d', -, rfl⟩ := List.mem_map.1 hd
    exact lanes_without m d'

theorem dropLanes_rest (m : Mask) (x : Group) : SameRest { x with live := (x.dropLanes m).live } (x.dropLanes m) := rfl

/-- Taking lanes away leaves every register. -/
theorem dropLanes_regVal (m : Mask) (x : Group) (k : Nat) {l : Nat} (hl : l < 64) :
    regVal (x.dropLanes m) k l = regVal x k l := by
  refine regVal_congr (fun r l _ => ?_) (fun r => ?_) (fun r l => ?_) (fun n => ?_) k l hl
  · unfold Group.vAt Group.vMark Group.vBank
    rw [dropLanes_shadowed, dropLanes_bank]
    split <;> exact ⟨rfl, rfl⟩
  · unfold Group.gAt Group.gMark Group.gBank
    rw [dropLanes_shadowed, dropLanes_bank]
    split <;> exact ⟨rfl, rfl⟩
  · unfold Group.oAt Group.oMark Group.dropLanes
    exact ⟨rfl, rfl⟩
  · unfold Group.pAt
    rw [dropLanes_bank]
    rfl

/-! ### `exit` and `tend` -/

/-- What `exit` does once it issues: nothing without an active lane; else it ends the lanes, and with the last of them the
group (R23, R132). -/
theorem exec_exit {gd : Guard} {s : State} {e : Enc} (h : Issues (.exit gd) s e) :
    exec (.exit gd) s = .next (
      let b := onG (Group.dropLanes (s.g.active gd)) (beginIssue e s)
      if s.g.active gd = 0 then seqNext e (beginIssue e s)
      else if s.g.live &&& ~~~s.g.active gd = 0 then withBroken b.g.uid (endGroup .ended b.g.pc b)
      else settle true { b with g := { b.g with pc := afterPc e s }.endRun }) := by
  rw [show exec (.exit gd) s = execExit gd s from rfl, execExit, issue_eq h]
  dsimp only
  rw [beginIssue_active, nextPc_begin]
  have hlive : (onG (Group.dropLanes (s.g.active gd)) (beginIssue e s)).g.live = s.g.live &&& ~~~s.g.active gd := by
    rw [← beginIssue_live e s]; rfl
  by_cases hz : s.g.active gd = 0
  · simp only [if_pos hz]
  · by_cases hl : s.g.live &&& ~~~s.g.active gd = 0
    · simp only [if_neg hz, if_pos hl, if_pos (hlive.trans hl)]; rfl
    · simp only [if_neg hz, if_neg hl, if_neg (fun h => hl (hlive.symm.trans h))]

/-- The lanes that are left go on behind `exit`: the lanes taken away are gone, and nothing else of the group has changed
(R23). -/
theorem settle_dropLanes (gone : Mask) (s : State) (pc : VA) :
    let y := (settle true { s with g := { s.g.dropLanes gone with pc := pc }.endRun }).g
    LanesGone gone y ∧ y.live = s.g.live &&& ~~~gone ∧ SameRest { s.g with live := y.live } y ∧ y.fflags = s.g.fflags ∧
      ∀ k l, l < 64 → regVal y k l = regVal s.g k l := by
  dsimp only
  obtain ⟨he, hl, hp⟩ := lanesGone_dropLanes gone s.g
  have walked : Walked (s.g.dropLanes gone) (settle true { s with g := { s.g.dropLanes gone with pc := pc }.endRun }).g :=
    ((walked_pc _ pc).trans (walked_endRun _)).trans (walked_settleGo ..)
  have hlive := walked.live
  refine ⟨lanesGone_settleGo _ _ _ ⟨he, hl, hp⟩, hlive, ?_, walked.fflags, fun k l h => ?_⟩
  · rw [hlive]
    exact (dropLanes_rest gone s.g).trans walked.rest
  · rw [walked.regVal, dropLanes_regVal _ _ _ h]

/-- R23, R132, R268: `exit` takes lanes away, and with the last one ends the group, as `tend` does for a task. -/
theorem groupEndResults : Claims.GroupEndResults := by
  refine ⟨fun gd s e hi => ⟨fun hz => ?_, fun hact hleft => ?_, fun hact hleft hlat => ?_⟩,
    fun s e hi => ⟨fun ho => ?_, fun ho hlat => ?_⟩⟩
  · exact ⟨_, (exec_exit hi).trans (by rw [if_pos hz]), regFrame_seqNext e s⟩
  · refine ⟨_, (exec_exit hi).trans (by rw [if_neg hact, if_neg hleft]), ?_⟩
    obtain ⟨gone, hlive, rest, flags, regs⟩ := settle_dropLanes (s.g.active gd) (beginIssue e s) (afterPc e s)
    rw [beginIssue_live] at hlive
    refine ⟨hlive, gone.em, sameBytes_begin e s _, sameDevice_begin e s _, ?_, flags.trans (beginIssue_fflags e s),
      fun k l _ hl => (regs k l hl).trans (beginIssue_regVal e s k l)⟩
    exact SameRest.trans (y := { (beginIssue e s).g with live := _ }) (by
      obtain ⟨p, a, c, d, f, g, h, wd, we, ev, ob, fr, tl, wq, hb, hq⟩ := beginIssue_spec e s
      rw [hb]; rfl) rest
  · refine ⟨_, (exec_exit hi).trans (by rw [if_neg hact, if_pos hleft]), ?_⟩
    obtain ⟨huid, hend⟩ := withBroken_endGroup (uid := (beginIssue e s).g.uid) (beginIssue e s).g.pc
      (s := onG (Group.dropLanes (s.g.active gd)) (beginIssue e s)) (by rw [onG_t, beginIssue_t]; exact hlat)
    exact ⟨huid.trans (beginIssue_uid e s), hend⟩
  · rw [show exec .tend s = execTend s from rfl, execTend, issue_eq hi]
    simp only [beginIssue_t, ho, if_true]
  · rw [show exec .tend s = execTend s from rfl, execTend, issue_eq hi]
    simp only [beginIssue_t, ho, if_false]
    obtain ⟨huid, hend⟩ := withBroken_endGroup (uid := (beginIssue e s).g.uid) (beginIssue e s).g.pc
      (s := beginIssue e s) (by rw [beginIssue_t]; exact hlat)
    exact ⟨_, rfl, huid.trans (beginIssue_uid e s), hend⟩

/-! ### `yield` -/

theorem Walked.yielded {x y : Group} (h : Walked x y) : y.yielded = x.yielded := by
  obtain ⟨stk, h⟩ := h
  rw [h]
  unfold Group.setStk Group.onBank
  cases x.sh <;> rfl

theorem receive_yielded (sig : BitVec 1024) (s : State) : (receive sig s).g.yielded = s.g.yielded := by
  have hg : (acquireL1 s.t.tag (coreOf s.t s.g) sig s).g = s.g := (hasGroups_acquireL1 ⟨rfl, rfl⟩).1
  unfold receive
  dsimp only
  split
  · rw [hg]
  · rw [onG_g, hg]

theorem finishWait_yielded (w : Wait) (s : State) : (finishWait w s).g.yielded = s.g.yielded := by
  have received {c : Prop} [Decidable c] {sig} : (if c then s else receive sig s).g.yielded = s.g.yielded := by
    split
    · rfl
    · exact receive_yielded sig s
  unfold finishWait
  dsimp only
  split
  · exact received
  · exact received

theorem settle_yielded (fin : Bool) (s : State) : (settle fin s).g.yielded = s.g.yielded :=
  (walked_settleGo ..).yielded

theorem goto_yielded (va : VA) (s : State) : (goto va s).g.yielded = s.g.yielded := settle_yielded ..

theorem afterWait_yielded (w : Wait) (s : State) : (afterWait w s).g.yielded = s.g.yielded := by
  unfold afterWait
  rw [goto_yielded, finishWait_yielded]
  dsimp only
  split
  · rfl
  · rfl

/-- The current path goes on at pc behind a `yield` (R133). -/
def yieldedAt (pc : VA) (s : State) : State := { s with g := { s.g with yielded := true, pc := pc }.endRun }

/-- Whatever path runs next, a group that yields lets others of the core issue first (R133). -/
theorem suspendYield_yielded (pc : VA) (s : State) : (suspendYield pc s).g.yielded = true := by
  have on : (settle false (yieldedAt pc s)).g.yielded = true := settle_yielded ..
  have crossed {p em l d rest} : (Group.cross p em l d rest { s.g with yielded := true }).yielded = true :=
    (walked_cross ..).yielded
  unfold suspendYield
  dsimp only
  split
  · exact on
  · split
    · exact on
    · split
      · exact (settle_yielded ..).trans crossed
      · exact (settle_yielded ..).trans crossed
      · split
        · exact (afterWait_yielded ..).trans crossed
        · exact on
      · exact on

/-- The current path has nowhere else to go: there is no other path that could run, or the PC is at the join (R19, R21). -/
def OnlyPath (pc : VA) (s : State) : Prop :=
  ∀ d, s.g.bank.stk.head? = some d → d.other.complete = true ∨ pc = d.join ∨ pc = normPc s d.join

theorem suspendYield_onlyPath {pc : VA} {s : State} (h : OnlyPath pc s) :
    suspendYield pc s = settle false (yieldedAt pc s) := by
  unfold suspendYield
  dsimp only
  split
  · rfl
  · next d rest hb =>
    have hd := h d (congrArg List.head? hb)
    rw [if_pos (by simpa [or_assoc] using hd)]
    rfl

/-- With an empty stack there is no path to switch to (R19). -/
theorem settle_noStack {s : State} (h : s.g.bank.stk = []) : settle false s = s := by
  simp [settle, settleGo, h]

theorem wrote_begin (e : Enc) (s : State) (y : Bool) :
    Wrote { s.g with yielded := y } { (beginIssue e s).g with yielded := y } [] 0 := by
  obtain ⟨p, a, c, d, f, g, h, wd, we, ev, ob, fr, tl, wq, hb, hq⟩ := beginIssue_spec e s
  rw [hb]
  exact .of_same [] 0 rfl rfl rfl rfl rfl rfl

/-- The frame of an instruction that only walks on, with the mark of a `yield`. -/
theorem regFrame_walked {e : Enc} {s : State} {y : Bool} {x : Group}
    (h : Walked { (beginIssue e s).g with yielded := y } x) :
    RegFrame { s with g := { s.g with yielded := y } } { beginIssue e s with g := x } [] 0 0 := by
  have wrote := (wrote_begin e s y).trans (h.wrote [] 0)
  exact ⟨sameDevice_begin e s x, sameHits_beginIssue e s x, sameBytes_begin e s x, wrote.rest,
    wrote.flags.trans BitVec.or_zero.symm, wrote.sameRegs⟩

/-- R21, R133: where no other path can run, `yield` goes on behind itself. -/
theorem yieldResult : Claims.YieldResult := by
  intro s e hi
  rw [show exec .yield s = execYield s from rfl, execYield, issue_eq hi]
  dsimp only
  rw [nextPc_begin]
  refine ⟨_, rfl, suspendYield_yielded .., fun h => ?_⟩
  have only : OnlyPath (afterPc e s) (beginIssue e s) := by
    unfold OnlyPath
    rw [beginIssue_bank]
    exact h
  rw [suspendYield_onlyPath only]
  refine ⟨regFrame_walked (((walked_pc _ _).trans (walked_endRun _)).trans (walked_settleGo ..)), fun hs => ?_⟩
  rw [settle_noStack (s := yieldedAt _ _) ((congrArg Bank.stk (beginIssue_bank e s)).trans hs)]
  exact ⟨rfl, beginIssue_em e s⟩

/-- Settles O58: a group starts with what R15 and R290 give it, ends when its last lane does, and goes on behind a `yield`. -/
theorem groupLifeResults : Obligations.GroupLifeResults := by
  unfold Obligations.GroupLifeResults
  exact ⟨groupStartResults, groupEndResults, yieldResult⟩

end Sys2Proof.Machine
end

section
/-!
SUPPORT. The fetch of the group that its scheduler chooses (spec/02 R43, R45, spec/03 R71, R73, spec/17 R413), and the
statement FetchFaults.
-/
namespace Sys2Proof.Machine

/-! ### The step of a group that is about to fetch -/

/-- The scheduler's decision changes only the other groups (R133, R285). -/
theorem takeTurn_eq (s : State) : takeTurn s = { s with gs := (takeTurn s).gs } := by
  unfold takeTurn
  split
  · rfl
  · rfl

/-- Where nothing comes before fetch, a step fetches and executes. -/
theorem step_of_ready {s : State} (ha : s.agenda = []) (hr : ready s = true) : step s = fetchExec (takeTurn s) := by
  simp only [ready, Bool.and_eq_true, Bool.not_eq_true', beq_iff_eq, Option.isNone_iff_eq_none] at hr
  obtain ⟨⟨⟨⟨⟨⟨⟨hmove, hstop⟩, hrun⟩, hyield⟩, hturn⟩, hlock⟩, hhit⟩, hmatch⟩ := hr
  have hissue : step s = issueStep s := by rw [step, stepOf, ha]
  rw [hissue]
  simp [issueStep, runStep, hmove, hstop, hrun, hyield, hturn, hlock, hhit, hmatch]

theorem step_of_fetch_instr {s : State} {i : Instr} (ha : s.agenda = []) (hr : ready s = true)
    (hf : fetch (takeTurn s) = .instr i) : step s = exec i (takeTurn s) := by
  rw [step_of_ready ha hr, fetchExec, hf]

theorem step_of_fetch_fault {s : State} {f : FaultInfo} (ha : s.agenda = []) (hr : ready s = true)
    (hf : fetch (takeTurn s) = .fault f) : step s = .next (takeFault f (takeTurn s)) := by
  rw [step_of_ready ha hr, fetchExec, hf]

/-! ### Fetch does not look at the other groups -/

theorem gRead_gs (s : State) (xs : List Group) (x : Xl) (n : Nat) : gRead { s with gs := xs } x n = gRead s x n := by
  induction n with
  | zero => rfl
  | succ n ih => exact congrArg (· + 256 ^ n * (gByte s x n).toNat) ih

theorem asOf_gs (p : Snap) (s : State) (xs : List Group) :
    State.asOf p { s with gs := xs } = { State.asOf p s with gs := xs } := rfl

theorem fetchWord_gs (s : State) (xs : List Group) (va : VA) : fetchWord { s with gs := xs } va = fetchWord s va := by
  have hxlate (u v : Nat) : xlate { s with gs := xs } s.t.tag u v needX = xlate s s.t.tag u v needX := rfl
  have hblock (x : Xl) : sameBlock { s with gs := xs } x = sameBlock s x := rfl
  have hpoison (t : State) (x : Xl) : gPoison { t with gs := xs } x 0 = gPoison t x 0 := rfl
  unfold fetchWord
  dsimp only
  rw [hxlate]
  split
  · rfl
  · rw [hblock, gRead_gs, hpoison]
    split
    · rfl
    · split
      · rw [asOf_gs, gRead_gs, hpoison]
      · rw [gRead_gs, hpoison]

theorem fetchAt_gs (s : State) (xs : List Group) (n : Nat) : fetchAt { s with gs := xs } n = fetchAt s n := by
  unfold fetchAt
  dsimp only
  rw [fetchWord_gs]
  rfl

theorem fetchAt_takeTurn (s : State) (n : Nat) : fetchAt (takeTurn s) n = fetchAt s n := by
  rw [takeTurn_eq, fetchAt_gs]

theorem takeTurn_g (s : State) : (takeTurn s).g = s.g := by rw [takeTurn_eq]

/-! ### What fetch finds first -/

/-- A word of LEN 3 is looked at before anything else (R43, R73). -/
theorem fetch_of_isPadLen {s : State} {w : Word} (hw : fetchAt s 0 = .ok w) (hp : isPadLen w = true) :
    fetch s = .instr (.unassignedOpc w) := by
  have hlen : w.extractLsb' 0 2 = 3#2 := of_decide_eq_true hp
  simp [fetch, hw, hlen]

/-- FETCH_SPLIT comes before the other words and the encoding checks (R45, R73). -/
theorem fetch_of_leavesBlock {s : State} {w : Word} (hw : fetchAt s 0 = .ok w) (hp : isPadLen w = false)
    (hl : 32 < s.g.pc.toNat % 32 + 4 * ((w.extractLsb' 0 2 : BitVec 2).toNat + 2)) :
    fetch s = .fault { cause := cSPLIT } := by
  have hlen : (w.extractLsb' 0 2 : BitVec 2).toNat ≠ 3 := fun h =>
    of_decide_eq_false hp (BitVec.eq_of_toNat_eq h)
  simp only [fetch, hw, if_neg hlen, if_pos hl]

/-- The fetch at address 0 of a PC-match handler faults (R413), with PERM (log 94). -/
theorem fetch_of_nullEntry {s : State} (h : nullEntry s = true) : fetch s = .fault { cause := cPERM, fetch := true } := by
  have hat : fetchAt s 0 = .error (fetchFault cPERM 0) := by rw [fetchAt, if_pos h]
  rw [fetch, hat]
  rfl

theorem nullEntry_of_pcMatch {s : State} (hpc : s.g.pc = 0) (hk : s.g.sh.map (·.kind) = some .pcMatch) :
    nullEntry s = true := by
  obtain ⟨sh, hsh, hkind⟩ := Option.map_eq_some_iff.1 hk
  simp [nullEntry, hpc, hsh, hkind]

/-- Settles O33: the scheduler's decision leaves what fetch sees, and of that a word of LEN 3, FETCH_SPLIT and the fault at
address 0 come first. -/
theorem fetchFaults : Obligations.FetchFaults := by
  unfold Obligations.FetchFaults
  intro s ha hr
  refine ⟨fun w hw => ?_, fun hpc hk => ?_⟩
  · rw [← fetchAt_takeTurn] at hw
    refine ⟨fun hp => step_of_fetch_instr ha hr (fetch_of_isPadLen hw hp), fun hp hl => ?_⟩
    rw [← takeTurn_g] at hl
    exact step_of_fetch_fault ha hr (fetch_of_leavesBlock hw hp hl)
  · rw [← takeTurn_g] at hpc hk
    exact step_of_fetch_fault ha hr (fetch_of_nullEntry (nullEntry_of_pcMatch hpc hk))

end Sys2Proof.Machine
end

section
/-!
SUPPORT. Instructions with a uniform result (spec/05 R137, R147–R151, spec/06 R161, R177): the row of each gives D a uniform
register, and the model's value is the formula of the row. With them the statement UniformResults.
-/
namespace Sys2Proof.Machine

/-! ### The destination -/

/-- What the encoding of an instruction holds in OPC, MOD and DST (R49). -/
def destFields (i : Instr) : Option (BitVec 8 × BitVec 4 × BitVec 10) :=
  (toEnc i).map fun e => (e.w.opc, e.w.mod, e.w.d)

/-- An instruction of an opcode whose row makes D a uniform destination completes with its value (R17, R148). -/
theorem uniSpec_of_row {i : Instr} {op : BitVec 8} {mod : BitVec 4} {w : Width} {h : Hdr} {wide : Bool} {d : Opnd}
    {v : Group → DWord} (hi : destFields i = some (op, mod, encSpec d))
    (hrow : (rowOf op).map Row.d = some (Roles.dg w)) (hcount : ∀ e : Enc, e.w.mod = mod → e.count w = regsOf wide)
    (hex : ∀ s, exec i s = issue i s (uni h wide d v)) (hv : Steady v) : UniSpec i h wide d v := by
  refine uniSpec_of hex (fun s e hs => ?_) hv
  rw [destFields, hs.1, Option.map_some, Option.some_inj, Prod.mk.injEq, Prod.mk.injEq] at hi
  obtain ⟨rfl, hmod, hd⟩ := hi
  exact gOpen_of hs hrow (by decide) hd (hcount e hmod)

/-- The case that D is as wide as the type in MOD says (R148). -/
theorem uniSpec_int (op : BitVec 8) {i : Instr} {ty : IType} {sat : Bool} {h : Hdr} {d : Opnd} {v : Group → DWord}
    (hi : destFields i = some (op, mk4 ty.code sat, encSpec d)) (hrow : (rowOf op).map Row.d = some (Roles.dg .int))
    (hex : ∀ s, exec i s = issue i s (uni h (IType.wide ty) d v)) (hv : Steady v) : UniSpec i h (IType.wide ty) d v :=
  uniSpec_of_row hi hrow (fun _ => count_int) hex hv

/-- The case that D is one register. -/
theorem uniSpec_one (op : BitVec 8) {i : Instr} {mod : BitVec 4} {h : Hdr} {d : Opnd} {v : Group → DWord}
    (hi : destFields i = some (op, mod, encSpec d)) (hrow : (rowOf op).map Row.d = some (Roles.dg .one))
    (hex : ∀ s, exec i s = issue i s (uni h false d v)) (hv : Steady v) : UniSpec i h false d v :=
  uniSpec_of_row hi hrow (fun _ _ => rfl) hex hv

/-- The case that D is a pair. -/
theorem uniSpec_pair (op : BitVec 8) {i : Instr} {mod : BitVec 4} {h : Hdr} {d : Opnd} {v : Group → DWord}
    (hi : destFields i = some (op, mod, encSpec d)) (hrow : (rowOf op).map Row.d = some (Roles.dg .pair))
    (hex : ∀ s, exec i s = issue i s (uni h true d v)) (hv : Steady v) : UniSpec i h true d v :=
  uniSpec_of_row hi hrow (fun _ _ => rfl) hex hv

/-- The value may be written in another way. -/
theorem UniSpec.congr {i : Instr} {h : Hdr} {wide : Bool} {d : Opnd} {v w : Group → DWord} (hs : UniSpec i h wide d v)
    (hvw : ∀ x, v x = w x) : UniSpec i h wide d w :=
  funext hvw ▸ hs

/-! ### What operands read stays when an instruction begins -/

theorem steady_srcU (wide : Bool) (o : Opnd) : Steady (srcU · wide o) := fun _ _ _ _ _ _ _ _ => by cases o <;> rfl

theorem steady_uInt (ty : IType) (o : Opnd) : Steady (uInt · ty o) :=
  fun _ _ _ _ _ _ _ _ => congrArg (valInt ty) (steady_srcU _ o ..)

theorem steady_u32 (o : Opnd) : Steady (u32 · o) :=
  fun _ _ _ _ _ _ _ _ => congrArg (BitVec.setWidth 32) (steady_srcU false o ..)

theorem steady_srcP (o : Opnd) : Steady (srcP · o) := fun _ _ _ _ _ _ _ _ => by cases o <;> rfl

theorem steady_srcInt (ty : IType) (o : Opnd) (l : Nat) : Steady (srcInt · ty o l) :=
  fun _ _ _ _ _ _ _ _ => by cases o <;> rfl

theorem steady_active (gd : Guard) : Steady (·.active gd) := fun _ _ _ _ _ _ _ _ => rfl

theorem steady_em : Steady (·.em) := fun _ _ _ _ _ _ _ _ => rfl

/-- A reading of the group that another reading chooses. -/
theorem Steady.bind {α β : Type} {f : Group → α} {k : α → Group → β} (hf : Steady f) (hk : ∀ y, Steady (k y)) :
    Steady fun x => k (f x) x :=
  fun _ _ _ _ _ _ _ _ => (congrFun (congrArg k (hf ..)) _).trans (hk _ ..)

theorem Steady.map {α β : Type} {f : Group → α} (hf : Steady f) (k : α → β) : Steady fun x => k (f x) :=
  fun _ _ _ _ _ _ _ _ => congrArg k (hf ..)

theorem Steady.map₂ {α β γ : Type} {f : Group → α} {g : Group → β} (hf : Steady f) (hg : Steady g) (k : α → β → γ) :
    Steady fun x => k (f x) (g x) :=
  hf.bind fun y => hg.map (k y)

theorem Steady.map₃ {α β γ δ : Type} {f : Group → α} {g : Group → β} {k : Group → γ} (hf : Steady f) (hg : Steady g)
    (hk : Steady k) (j : α → β → γ → δ) : Steady fun x => j (f x) (g x) (k x) :=
  hf.bind fun y => hg.map₂ hk (j y)

/-! ### The values of the rows -/

theorem iMad_zero (T : IType) (a b : Int) : iMad T false a b 0 = wrapInt T (a * b) := by
  simp [iMad, finalInt]

theorem iSar_eq (T : IType) (a : Int) (c : Nat) :
    iSar T a c = patInt (sextNat (iPat T a) (IType.width T) / 2 ^ Nat.min c (IType.width T)) := by
  unfold iSar
  dsimp only
  by_cases h : IType.width T ≤ c
  · rw [if_pos h, show Nat.min c (IType.width T) = IType.width T from Nat.min_eq_right h]
  · rw [if_neg h, show Nat.min c (IType.width T) = c from Nat.min_eq_left (Nat.le_of_not_le h)]

theorem bits_zero_five (n : Nat) : bits n 0 5 = n % 32 := by simp [bits]

theorem fieldWidth_eq (w : Word) : fieldWidth w = Nat.min (w.toNat / 256 % 64) (32 - w.toNat % 32) := by
  rw [fieldWidth, bits_zero_five]; rfl

theorem ofNat_field_zeroExtend (a : Word) (off wd : Nat) :
    (BitVec.ofNat 32 (a.toNat / 2 ^ off % 2 ^ wd)).zeroExtend 64 = BitVec.ofNat 64 (a.toNat / 2 ^ off % 2 ^ wd) := by
  have hle : a.toNat / 2 ^ off % 2 ^ wd < 2 ^ 32 :=
    Nat.lt_of_le_of_lt (Nat.le_trans (Nat.mod_le _ _) (Nat.div_le_self _ _)) a.isLt
  apply BitVec.eq_of_toNat_eq
  simp only [BitVec.truncate_eq_setWidth, BitVec.toNat_setWidth, BitVec.toNat_ofNat]
  omega

/-- The extracted field of R150, extended as its type says; with a width of 0 it is 0. -/
theorem bitExtract_zeroExtend (ty : IType) (a w : Word) :
    (bitExtract (ty == .i32) a w).zeroExtend 64 =
      (let off := w.toNat % 32
       let wd := Nat.min (w.toNat / 256 % 64) (32 - off)
       let f := a.toNat / 2 ^ off % 2 ^ wd
       if ty = .i32 ∧ wd ≠ 0 then ((BitVec.ofInt 32 (sextNat f wd) : Word).zeroExtend 64 : DWord) else BitVec.ofNat 64 f) := by
  dsimp only
  rw [bitExtract, fieldWidth_eq, bits_zero_five, bits]
  by_cases hc : ty = .i32 ∧ Nat.min (w.toNat / 256 % 64) (32 - w.toNat % 32) ≠ 0
  · rw [if_pos hc, if_pos (by simpa using hc)]
  · rw [if_neg hc, if_neg (by simpa using hc), ofNat_field_zeroExtend]

theorem bitInsert_eq (a b w : Word) :
    bitInsert a b w =
      (let off := w.toNat % 32
       let m : Word := BitVec.ofNat 32 (2 ^ Nat.min (w.toNat / 256 % 64) (32 - off) - 1)
       (a &&& ~~~(m <<< off)) ||| ((b &&& m) <<< off)) := by
  rw [bitInsert, fieldWidth_eq, bits_zero_five]

/-! ### The instructions -/

/-- Each value is a function of what the operands read; `gmul` and `gsar` are written by another formula in the row (R149). -/
theorem uniformIntegerResults : Claims.UniformIntegerResults := by
  refine ⟨?gmov, ?gadd, ?gsub, ?gmul, ?gmulh, ?gmad, ?gand, ?gor, ?gxor, ?gshl, ?gshr, ?gsar, ?gmin, ?gmax, ?gcmp, ?gsel,
    ?gclz, ?gpopc⟩
  case gmov => exact fun h ty d a => uniSpec_int 0x10 rfl rfl (fun _ => rfl) ((steady_uInt ty a).map patInt)
  case gadd =>
    exact fun h ty sat d a b => uniSpec_int 0x11 rfl rfl (fun _ => rfl)
      ((steady_uInt ty a).map₂ (steady_uInt ty b) fun m n => finalInt ty sat (m + n))
  case gsub =>
    exact fun h ty sat d a b => uniSpec_int 0x12 rfl rfl (fun _ => rfl)
      ((steady_uInt ty a).map₂ (steady_uInt ty b) fun m n => finalInt ty sat (m - n))
  case gmul =>
    exact fun h ty d a b => (uniSpec_int 0x13 rfl rfl (fun _ => rfl)
      ((steady_uInt ty a).map₂ (steady_uInt ty b) fun m n => iMad ty false m n 0)).congr fun _ => iMad_zero ty _ _
  case gmulh =>
    exact fun h ty d a b => uniSpec_int 0x14 rfl rfl (fun _ => rfl)
      ((steady_uInt ty a).map₂ (steady_uInt ty b) (iMulh ty))
  case gmad =>
    exact fun h ty sat d a b c => uniSpec_int 0x15 rfl rfl (fun _ => rfl)
      ((steady_uInt ty a).map₃ (steady_uInt ty b) (steady_uInt ty c) (iMad ty sat))
  case gand =>
    exact fun h ty d a b => uniSpec_int 0x16 rfl rfl (fun _ => rfl)
      ((steady_srcU _ a).map₂ (steady_srcU _ b) (· &&& ·))
  case gor =>
    exact fun h ty d a b => uniSpec_int 0x17 rfl rfl (fun _ => rfl)
      ((steady_srcU _ a).map₂ (steady_srcU _ b) (· ||| ·))
  case gxor =>
    exact fun h ty d a b => uniSpec_int 0x18 rfl rfl (fun _ => rfl)
      ((steady_srcU _ a).map₂ (steady_srcU _ b) (· ^^^ ·))
  case gshl =>
    exact fun h ty d a b => uniSpec_int 0x19 rfl rfl (fun _ => rfl)
      ((steady_uInt ty a).map₂ (steady_u32 b) fun m c => iShl ty m c.toNat)
  case gshr =>
    exact fun h ty d a b => uniSpec_int 0x1a rfl rfl (fun _ => rfl)
      ((steady_uInt ty a).map₂ (steady_u32 b) fun m c => iShr ty m c.toNat)
  case gsar =>
    exact fun h ty d a b => (uniSpec_int 0x1b rfl rfl (fun _ => rfl)
      ((steady_uInt ty a).map₂ (steady_u32 b) fun m c => iSar ty m c.toNat)).congr fun _ => iSar_eq ty _ _
  case gmin =>
    exact fun h ty d a b => uniSpec_int 0x1c rfl rfl (fun _ => rfl)
      ((steady_uInt ty a).map₂ (steady_uInt ty b) fun m n => patInt (if m ≤ n then m else n))
  case gmax =>
    exact fun h ty d a b => uniSpec_int 0x1d rfl rfl (fun _ => rfl)
      ((steady_uInt ty a).map₂ (steady_uInt ty b) fun m n => patInt (if m ≤ n then n else m))
  case gcmp =>
    exact fun h ty cond d a b => uniSpec_one 0x1e rfl rfl (fun _ => rfl)
      ((steady_uInt ty a).map₂ (steady_uInt ty b) fun m n => if condHolds cond m n then 1 else 0)
  case gsel =>
    exact fun h ty d a b c => uniSpec_int 0x1f rfl rfl (fun _ => rfl)
      (((steady_u32 c).bind fun w => steady_uInt ty (if w ≠ 0 then a else b)).map patInt)
  case gclz => exact fun h ty d a => uniSpec_one 0xd3 rfl rfl (fun _ => rfl) ((steady_uInt ty a).map (iClz ty))
  case gpopc => exact fun h ty d a => uniSpec_one 0xd4 rfl rfl (fun _ => rfl) ((steady_uInt ty a).map (iPopc ty))

/-- Each value is a function of what the operands, EM and the active set read; the fields of `gbfx` and `gbfi` are computed
in 32 bits (R150, R151, R137, R161, R177). -/
theorem uniformFieldAndMaskResults : Claims.UniformFieldAndMaskResults := by
  refine ⟨?gbfx, ?gbfi, ?glea, ?emrd, ?vbal, ?rdfl⟩
  case gbfx =>
    exact fun h ty d a b => (uniSpec_one 0xd1 rfl rfl (fun _ => rfl) ((steady_u32 a).map₂ (steady_u32 b) fun m w =>
      (bitExtract (ty == .i32) m w).zeroExtend 64)).congr fun _ => bitExtract_zeroExtend ty _ _
  case gbfi =>
    exact fun h d a b c => (uniSpec_one 0xd2 rfl rfl (fun _ => rfl)
      ((steady_u32 a).map₃ (steady_u32 b) (steady_u32 c) fun m n w => (bitInsert m n w).zeroExtend 64)).congr
        fun _ => congrArg (BitVec.zeroExtend 64) (bitInsert_eq _ _ _)
  case glea =>
    exact fun h sh d a b => uniSpec_pair 0xd0 rfl rfl (fun _ => rfl)
      ((steady_srcU true a).map₂ (steady_u32 b) fun m n => m + (n.signExtend 64 <<< sh.toNat))
  case emrd => exact fun h d => uniSpec_pair 0x0e rfl rfl (fun _ => rfl) steady_em
  case vbal =>
    exact fun h d a => uniSpec_pair 0x3e rfl rfl (fun _ => rfl)
      ((steady_active h.toGuard).map₂ (steady_srcP a) (· &&& ·))
  case rdfl =>
    exact fun h ty d a => uniSpec_int 0x61 rfl rfl (fun _ => rfl)
      (((steady_active h.toGuard).bind fun act => steady_srcInt ty a (lowLane act)).map patInt)

/-- Settles O1: the row of every uniform instruction makes D a uniform register, which is written once with the value of the
row or, without an active lane, not at all. -/
theorem uniformResults : Obligations.UniformResults :=
  ⟨uniformIntegerResults, uniformFieldAndMaskResults⟩

end Sys2Proof.Machine
end

section
/-!
SUPPORT. Predicate instructions and `addc` (spec/06 R156–R160): the row of each gives D a predicate, or a vector register with
the carry in C. With them the statement PredicateAndCarryResults.
-/
namespace Sys2Proof.Machine

/-! ### The lanes of a mask -/

theorem mem_lanesOf {m : Mask} {l : Nat} : l ∈ lanesOf m ↔ m.getLsbD l = true := by
  rw [lanesOf, List.mem_filter, List.mem_range]
  exact ⟨And.right, fun h => ⟨BitVec.lt_of_getLsbD h, h⟩⟩

/-- The empty mask, spelled as the model spells it. -/
theorem mask_eq_zero_iff {m : Mask} : m = 0 ↔ ∀ l, m.getLsbD l = false := BitVec.zero_iff_eq_false

/-- Some lane of m has its bit of p set (R160). -/
theorem and_bne_zero_eq_any (m p : Mask) : (m &&& p != 0) = (lanesOf m).any fun l => p.getLsbD l := by
  rw [Bool.eq_iff_iff, bne_iff_ne, ne_eq, mask_eq_zero_iff, List.any_eq_true]
  simp [mem_lanesOf]

/-- Every lane of m has its bit of p set (R160). -/
theorem and_not_beq_zero_eq_all (m p : Mask) : (m &&& ~~~p == 0) = (lanesOf m).all fun l => p.getLsbD l := by
  rw [Bool.eq_iff_iff, beq_iff_eq, mask_eq_zero_iff, List.all_eq_true]
  simp only [mem_lanesOf, BitVec.getLsbD_and, BitVec.getLsbD_not, Bool.and_eq_false_iff, Bool.not_eq_false']
  refine forall_congr' fun l => ⟨fun h hm => ?_, fun h => ?_⟩
  · rcases h with h | h | h
    · rw [hm] at h; cases h
    · simp [BitVec.lt_of_getLsbD hm] at h
    · exact h
  · cases hm : m.getLsbD l with
    | false => exact .inl rfl
    | true => exact .inr (.inr (h hm))

/-! ### What the operands give the lanes stays when an instruction begins -/

theorem steady_src32 (o : Opnd) (l : Nat) : Steady (src32 · o l) := fun _ _ _ _ _ _ _ _ => by cases o <;> rfl

/-- A reading of every lane. -/
theorem Steady.lanes {α : Type} {f : Group → Nat → α} (hf : ∀ l, Steady (f · l)) : Steady f :=
  fun _ _ _ _ _ _ _ _ => funext fun l => hf l ..

theorem steady_lanesInt (ty : IType) (o : Opnd) : Steady fun x l => srcInt x ty o l := .lanes (steady_srcInt ty o)

theorem steady_lanes32 (o : Opnd) : Steady fun x l => src32 x o l := .lanes (steady_src32 o)

/-! ### Predicate results -/

/-- An instruction of an opcode whose row makes D a predicate completes with its bits (R14, R17). -/
theorem predSpec_of_row (op : BitVec 8) {i : Instr} {mod : BitVec 4} {h : Hdr} {d : Opnd} {f : Group → Nat → Bool}
    (hi : destFields i = some (op, mod, encSpec d)) (hrow : (rowOf op).map Row.d = some Roles.dp)
    (hex : ∀ s, exec i s = issue i s (predwise h d f)) (hf : Steady f) : PredSpec i h d f := by
  refine predSpec_of hex (fun s e hs => ?_) hf
  rw [destFields, hs.1, Option.map_some, Option.some_inj, Prod.mk.injEq, Prod.mk.injEq] at hi
  obtain ⟨rfl, -, hd⟩ := hi
  exact pDest_of hs hrow hd

/-- The bits may be written in another way. -/
theorem PredSpec.congr {i : Instr} {h : Hdr} {d : Opnd} {f g : Group → Nat → Bool} (hs : PredSpec i h d f)
    (hfg : ∀ x l, f x l = g x l) : PredSpec i h d g :=
  (funext fun x => funext (hfg x) : f = g) ▸ hs

/-- Each bit is a function of what the operands read; `vany` and `vall` give every lane one bit, found over the active lanes
(R156, R159, R160). -/
theorem predicateResults : Claims.PredicateResults := by
  refine ⟨?cmp, ?pand, ?por, ?pxor, ?pnot, ?vany, ?vall⟩
  case cmp =>
    exact fun h ty cond d a b => predSpec_of_row 0x2f rfl rfl (fun _ => rfl)
      ((steady_lanesInt ty a).map₂ (steady_lanesInt ty b) fun m n l => condHolds cond (m l) (n l))
  case pand =>
    exact fun h d a b => predSpec_of_row 0x38 rfl rfl (fun _ => rfl)
      ((steady_srcP a).map₂ (steady_srcP b) fun p q l => p.getLsbD l && q.getLsbD l)
  case por =>
    exact fun h d a b => predSpec_of_row 0x39 rfl rfl (fun _ => rfl)
      ((steady_srcP a).map₂ (steady_srcP b) fun p q l => p.getLsbD l || q.getLsbD l)
  case pxor =>
    exact fun h d a b => predSpec_of_row 0x3a rfl rfl (fun _ => rfl)
      ((steady_srcP a).map₂ (steady_srcP b) fun p q l => p.getLsbD l != q.getLsbD l)
  case pnot => exact fun h d a => predSpec_of_row 0x3b rfl rfl (fun _ => rfl) ((steady_srcP a).map fun p l => !p.getLsbD l)
  case vany =>
    exact fun h d a => (predSpec_of_row 0x3c rfl rfl (fun _ => rfl)
      ((steady_active h.toGuard).map₂ (steady_srcP a) fun m p _ => m &&& p != 0)).congr fun _ _ => and_bne_zero_eq_any _ _
  case vall =>
    exact fun h d a => (predSpec_of_row 0x3d rfl rfl (fun _ => rfl)
      ((steady_active h.toGuard).map₂ (steady_srcP a) fun m p _ => m &&& ~~~p == 0)).congr
        fun _ _ => and_not_beq_zero_eq_all _ _

/-! ### Bodies that only write registers -/

/-- Such a body completes, raises no flag, and its frame is the registers it writes. -/
theorem plain_wrote {i : Instr} {s : State} {e : Enc} {F : Enc → State → State} {y : Group} {ks : List Nat} {act : Mask}
    (hi : Issues i s e) (hex : exec i s = issue i s (plain F)) (hF : F e (beginIssue e s) = { beginIssue e s with g := y })
    (hw : Wrote (beginIssue e s).g y ks act) : ∃ t, exec i s = .next t ∧ Walked y t.g ∧ RegFrame s t ks act 0 := by
  obtain ⟨t, ht, hwalk, -, hframe⟩ := plain_done hi hex hF hw.rest hw.sameRegs (fl := 0)
    (by rw [hw.flags, beginIssue_fflags]; exact BitVec.or_zero.symm)
  exact ⟨t, ht, hwalk, hframe⟩

/-! ### A predicate written without a latch -/

/-- pN with the lanes of `act` replaced by f (R14). -/
def putP (n : BitVec 3) (act : Mask) (f : Nat → Bool) (x : Group) : Group :=
  x.setP n.toNat ((x.pAt n.toNat &&& ~~~act) ||| maskOf fun l => act.getLsbD l && f l)

/-- A word that neither keeps its run going nor holds its result back: `nop`. -/
def nopEnc : Enc := mkEnc 0x00 (stayBits false) 0 0 specZero specZero specZero specZero .w64

/-- The write is that of a predicate result of an instruction that ends its run (R26). -/
theorem wrP_nopEnc (n : BitVec 3) (act : Mask) (f : Nat → Bool) (s : State) :
    wrP nopEnc (.p n) act f s = { s with g := putP n act f s.g } := by
  have hw : nwb nopEnc = false := by decide
  have hs : stays nopEnc = false := by decide
  simp [wrP, hw, latchAll, hs, putP]

theorem putP_spec (n : BitVec 3) (act : Mask) (f : Nat → Bool) (x : Group) :
    Wrote x (putP n act f x) (opKeys (.p n) 1) act ∧
    ∀ l, l < 64 → l < x.gw → act.getLsbD l = true → ((putP n act f x).pAt n.toNat).getLsbD l = (n == 7 || f l) := by
  obtain ⟨y, hy, hw, hv⟩ := wrP_spec nopEnc (.p n) act f { State.reset with g := x }
  obtain rfl : putP n act f x = y := by
    rw [wrP_nopEnc] at hy
    exact congrArg State.g hy
  refine ⟨hw.mono fun k hk => ?_, fun l hl hg ha => hv (by decide) l hl hg ha n rfl⟩
  unfold destKeys at hk
  split at hk
  · cases hk
  · exact hk

theorem vAt_putP (n : BitVec 3) (act : Mask) (f : Nat → Bool) (x : Group) (r l : Nat) :
    (putP n act f x).vAt r l = x.vAt r l := vAt_setP ..

theorem oAt_putP (n : BitVec 3) (act : Mask) (f : Nat → Bool) (x : Group) (r l : Nat) :
    (putP n act f x).oAt r l = x.oAt r l := by
  unfold putP Group.setP
  split
  · rfl
  · unfold Group.oAt; rw [(onBank_o x _).1]

/-! ### Add with carry -/

/-- A + B + c in a lane, before it is cut to 32 bits (R158). -/
def carrySum (x : Group) (a b : Opnd) (n : BitVec 3) (l : Nat) : Nat :=
  (src32 x a l).toNat + (src32 x b l).toNat + if (x.pAt n.toNat).getLsbD l then 1 else 0

theorem steady_carrySum (a b : Opnd) (n : BitVec 3) : Steady fun x l => carrySum x a b n l :=
  (steady_lanes32 a).map₃ (steady_lanes32 b) (steady_srcP (.p n)) fun u v p l =>
    (u l).toNat + (v l).toNat + if p.getLsbD l then 1 else 0

/-- The carry out is bit 32 of the sum. -/
theorem bit_carrySum (x : Group) (a b : Opnd) (n : BitVec 3) (l : Nat) :
    bit (carrySum x a b n l) 32 = decide (2 ^ 32 ≤ carrySum x a b n l) := by
  have hlt : carrySum x a b n l < 2 * 2 ^ 32 := by
    have ha := (src32 x a l).isLt
    have hb := (src32 x b l).isLt
    unfold carrySum
    split <;> omega
  rw [bit, Bool.eq_iff_iff, beq_iff_eq, decide_eq_true_iff]
  omega

theorem exec_addc (h : Hdr) (d a b : Opnd) (n : BitVec 3) (s : State) :
    exec (.addc h d a b (.p n)) s = issue (.addc h d a b (.p n)) s (plain fun e s =>
      onG (putP n (s.g.active h.toGuard) fun l => bit (carrySum s.g a b n l) 32)
        (wrV e d false (s.g.active h.toGuard) (fun l => BitVec.ofNat 64 (carrySum s.g a b n l % 2 ^ 32)) s)) := rfl

/-- The sums go to D, then the carries to C, which no vector register reads (R158). -/
theorem addWithCarryResult : Claims.AddWithCarryResult := by
  intro h d a b n s e hi
  have hfields : destFields (.addc h d a b (.p n)) = some (0x37, 1, encSpec d) := rfl
  rw [destFields, hi.1, Option.map_some, Option.some_inj, Prod.mk.injEq, Prod.mk.injEq] at hfields
  obtain ⟨hopc, -, hd⟩ := hfields
  obtain ⟨hopen, hdest⟩ : destOpen s.g d (regsOf false) ∧ vDest d false :=
    vOpen_of hi (by rw [hopc]; rfl) (by decide) hd rfl
  have hsum (l : Nat) : carrySum (beginIssue e s).g a b n l = carrySum s.g a b n l :=
    congrFun ((steady_carrySum a b n).begin e s) l
  let act := s.g.active h.toGuard
  obtain ⟨y, hy, hyw, hyv, -⟩ := wrVec_spec e d 1 act (fun l => some (BitVec.ofNat 64 (carrySum s.g a b n l % 2 ^ 32)).toNat)
    (fun _ => false) (beginIssue e s) ((beginIssue_open e s d 1).2 hopen)
  obtain ⟨hzw, hzp⟩ := putP_spec n act (fun l => bit (carrySum s.g a b n l) 32) y
  obtain ⟨t, ht, hwalk, hframe⟩ := plain_wrote hi (exec_addc h d a b n s)
    (y := putP n act (fun l => bit (carrySum s.g a b n l) 32) y)
    (by
      simp only [beginIssue_active, hsum]
      exact congrArg (onG _) hy)
    ((hyw.mono fun _ => List.mem_append_left (opKeys (.p n) 1)).trans (hzw.mono fun _ => List.mem_append_right _))
  refine ⟨t, ht, laneResult_of hdest hwalk fun hn l hl hg ha v hv => ?_, fun l hl hg ha => ?_, hframe⟩
  · rw [hzw.rest.gw, hyw.rest.gw] at hg
    simp only [vAt_putP, oAt_putP]
    exact hyv hn l hl hg ha v hv
  · rw [hwalk.reads.2.2.2, hzp l hl (by rw [hyw.rest.gw, beginIssue_gw]; exact hg) ha, bit_carrySum]
    rfl

/-- Settles O3: the row of every predicate instruction makes D a predicate, whose active lanes take the bits of the row, and
`addc` writes its sums and then its carries. -/
theorem predicateAndCarryResults : Obligations.PredicateAndCarryResults :=
  ⟨predicateResults, addWithCarryResult⟩

end Sys2Proof.Machine
end

section
/-!
SUPPORT. Lane exchange, `rdln` and `cmpk` (spec/06 R175–R182): the rows make D a vector register, a uniform one for some `rdln`;
a lane without a source keeps its value. With them the statement LaneMovementResults.
-/
namespace Sys2Proof.Machine

/-! ### The destination -/

/-- An opcode whose row makes D a vector destination of one register or a pair leaves D open, and its registers fit (R152). -/
theorem laneDest_of_row (op : BitVec 8) {i : Instr} {mod : BitVec 4} {w : Width} {wide : Bool} {d : Opnd}
    (hi : destFields i = some (op, mod, encSpec d)) (hrow : (rowOf op).map Row.d = some (Roles.dv w))
    (hcount : ∀ e : Enc, e.w.mod = mod → e.count w = regsOf wide) (halign : ∀ e : Enc, e.align w = e.count w)
    (s : State) (e : Enc) (hs : Issues i s e) :
    (destOpen s.g d (regsOf wide) ∧ vDest d wide) ∧ ∀ r, d = .v r → r.toNat + regsOf wide ≤ 256 := by
  rw [destFields, hs.1, Option.map_some, Option.some_inj, Prod.mk.injEq, Prod.mk.injEq] at hi
  obtain ⟨rfl, hmod, hd⟩ := hi
  have hc := hcount e hmod
  exact ⟨vOpen_of hs hrow (by decide) hd hc, vFits_of hs hrow hd hc ((halign e).trans hc)⟩

/-! ### Results that may leave a lane as it is -/

/-- A vector result that gives no lane a value writes nothing but the latch (R175, R177, R180). -/
theorem wrVec_none_spec (e : Enc) (d : Opnd) (n : Nat) (act : Mask) (m : Nat → Bool) (s : State) (ks : List Nat) (act' : Mask) :
    ∃ y, wrVec e d n act (fun _ => none) m s = { s with g := y } ∧ Wrote s.g y ks act' := by
  have hx : forLanes (putLane d n act (fun _ => none) m) s.g.gw s.g = s.g :=
    forLanes_ind (fun _ z => z = s.g) _ _ _ rfl (by rintro i z _ rfl; simp [putLane])
  cases hn : nwb e <;> simp only [wrVec, hn, hx, Bool.false_eq_true, if_false, if_true] <;>
    exact ⟨_, rfl, wrote_latchAll ..⟩

/-- A result at the width of the type in MOD completes with the lanes it gives (R175). -/
theorem laneOptSpec_int (op : BitVec 8) {i : Instr} {ty : IType} {sat : Bool} {h : Hdr} {d : Opnd}
    {f : Group → Nat → Option DWord} (hi : destFields i = some (op, mk4 ty.code sat, encSpec d))
    (hrow : (rowOf op).map Row.d = some (Roles.dv .int)) (hex : ∀ s, exec i s = issue i s (lanewiseOpt h ty d f))
    (hf : Steady f) : LaneOptSpec i h (IType.wide ty) d f :=
  laneOptSpec_of hex (laneDest_of_row op hi hrow (fun _ => count_int) fun _ => rfl) hf

/-- The lanes may be written in another way. -/
theorem LaneOptSpec.congr {i : Instr} {h : Hdr} {wide : Bool} {d : Opnd} {f g : Group → Nat → Option DWord}
    (hs : LaneOptSpec i h wide d f) (hfg : ∀ x l, f x l = g x l) : LaneOptSpec i h wide d g :=
  (funext fun x => funext (hfg x) : f = g) ▸ hs

/-- The same result, whatever poison marks m the lanes take that get a value (R175, R189). -/
theorem laneOptSpec_marked {i : Instr} {h : Hdr} {wide : Bool} {d : Opnd} {f : Group → Nat → Option DWord}
    {m : Group → Nat → Bool} (hex : ∀ s, exec i s = issue i s (plain fun e s => wrVec e d (regsOf wide)
      (s.g.active h.toGuard) (fun l => (f s.g l).map BitVec.toNat) (m s.g) s))
    (hdest : ∀ s e, Issues i s e → (destOpen s.g d (regsOf wide) ∧ vDest d wide) ∧
      ∀ r, d = .v r → r.toNat + regsOf wide ≤ 256)
    (hf : Steady f) : LaneOptSpec i h wide d f := by
  intro s e hi
  obtain ⟨⟨hopen, hvec⟩, hfits⟩ := hdest s e hi
  obtain ⟨y, hy, hw, hv, hk⟩ := wrVec_spec e d (regsOf wide) ((beginIssue e s).g.active h.toGuard)
    (fun l => (f (beginIssue e s).g l).map BitVec.toNat) (m (beginIssue e s).g) (beginIssue e s)
    ((beginIssue_open e s d (regsOf wide)).2 hopen)
  obtain ⟨t, ht, hwalk, hframe⟩ := plain_wrote hi (hex s) hy hw
  rw [beginIssue_active] at hv hframe
  rw [hf.begin, beginIssue_gw] at hv hk
  have hkeep : ∀ l, l < 64 → l < s.g.gw → (f s.g l).map BitVec.toNat = none → ∀ k, k < 335 → uniformKey k = false →
      regVal y k l = regVal s.g k l := fun l hl hg hn k hk' hu => by rw [hk l hl hg hn k hk' hu, beginIssue_regVal]
  exact ⟨t, ht, laneResultOpt_of hvec (by rw [hw.rest.gw, beginIssue_gw]) hwalk hv hkeep hfits, hframe⟩

/-- Where a lane that gets no value holds g already, every lane ends with g. -/
theorem LaneOptSpec.laneSpec {i : Instr} {h : Hdr} {d : Opnd} {f : Group → Nat → Option DWord} {g : Group → Nat → DWord}
    (hs : LaneOptSpec i h false d f) (hsome : ∀ x l v, f x l = some v → v = g x l)
    (hnone : ∀ x l, f x l = none → (g x l).setWidth 32 = x.curReg d l) : LaneSpec i h false d g := by
  intro s e hi
  obtain ⟨t, ht, hres, hframe⟩ := hs s e hi
  have value (l : Nat) : ((f s.g l).map (·.setWidth 32)).getD (s.g.curReg d l) = (g s.g l).setWidth 32 := by
    cases hf : f s.g l with
    | none => exact (hnone _ _ hf).symm
    | some v => rw [hsome _ _ _ hf]; rfl
  refine ⟨t, ht, fun hn l hl hg ha => ?_, hframe⟩
  have hl := hres hn l hl hg ha
  have hval := value l
  cases d with
  | v r => exact Eq.trans hl hval
  | o r => exact ⟨rfl, hl.2.trans hval⟩
  | _ => exact hl

/-! ### `shfl` and `expd` -/

theorem steady_gw : Steady (·.gw) := fun _ _ _ _ _ _ _ _ => rfl

theorem validLane_iff {act : Mask} {gw : Nat} {f : Int} :
    validLane act gw f = true ↔ 0 ≤ f ∧ f < gw ∧ act.getLsbD f.toNat = true := by
  simp [validLane, and_assoc]

theorem validLane_natCast_iff {act : Mask} {gw n : Nat} : validLane act gw n = true ↔ n < gw ∧ act.getLsbD n = true := by
  simp [validLane]

/-- A set bit has the number of set bits below it before it in the list of the lanes (R181). -/
theorem length_takeWhile_lanesOf (m : Mask) {l : Nat} (hl : l ≤ 64) :
    ((lanesOf m).takeWhile (· < l)).length = popUpTo m l := by
  have below (n : Nat) : ((List.range n).filter fun k => m.getLsbD k).length = popUpTo m n := by
    induction n with
    | zero => rfl
    | succ n ih =>
      rw [List.range_succ, List.filter_append, List.length_append, ih, popUpTo]
      cases hb : m.getLsbD n <;> simp [hb]
  have hlow : ∀ k ∈ (List.range l).filter (fun k => m.getLsbD k), decide (k < l) = true := by
    intro k hk
    exact decide_eq_true (List.mem_range.1 (List.mem_filter.1 hk).1)
  have hhigh : (((List.range (64 - l)).map (l + ·)).filter fun k => m.getLsbD k).takeWhile (· < l) = [] := by
    cases hks : ((List.range (64 - l)).map (l + ·)).filter fun k => m.getLsbD k with
    | nil => rfl
    | cons k ks =>
      obtain ⟨j, -, rfl⟩ := List.mem_map.1 (List.mem_filter.1 (hks ▸ List.mem_cons_self)).1
      exact List.takeWhile_cons_of_neg (by rw [decide_eq_true_iff]; omega)
  have hsplit : List.range 64 = List.range l ++ (List.range (64 - l)).map (l + ·) := by
    rw [← List.range_add, Nat.add_sub_cancel' hl]
  rw [lanesOf, hsplit, List.filter_append, List.takeWhile_append_of_pos hlow, hhigh, List.append_nil, below]

/-- The lanes that `expd` fills, and the element that each takes (R181). -/
theorem expd_lane (m : Mask) (v : Nat → DWord) (l : Nat) :
    (if (lanesOf m).contains l then some (v ((lanesOf m).takeWhile (· < l)).length) else none) =
      if m.getLsbD l ∧ l < 64 then some (v (popUpTo m l)) else none := by
  by_cases hm : m.getLsbD l = true
  · have hl := BitVec.lt_of_getLsbD hm
    rw [if_pos (List.contains_iff_mem.2 (mem_lanesOf.2 hm)), if_pos ⟨hm, hl⟩, length_takeWhile_lanesOf m (Nat.le_of_lt hl)]
  · rw [if_neg (fun h => hm (mem_lanesOf.1 (List.contains_iff_mem.1 h))), if_neg fun h => hm h.1]

/-! ### `bperm.byte` -/

/-- The bytes of a word, put together again. -/
theorem bits_sum (n : Nat) (hn : n < 2 ^ 32) :
    bits n (8 * 0) 8 + 2 ^ 8 * bits n (8 * 1) 8 + 2 ^ 16 * bits n (8 * 2) 8 + 2 ^ 24 * bits n (8 * 3) 8 = n := by
  simp only [bits, Nat.reduceMul, Nat.reducePow, Nat.div_one]
  omega

theorem tableByte_getD (x : Group) (act : Mask) (a : Opnd) (k v : Nat) :
    (tableByte x act a k).getD v =
      if k < 4 * x.gw ∧ act.getLsbD (k / 4) then bits (src32 x a (k / 4)).toNat (8 * (k % 4)) 8 else v := by
  have hvalid : validLane act x.gw (k / 4 : Nat) = true ↔ k < 4 * x.gw ∧ act.getLsbD (k / 4) = true :=
    validLane_natCast_iff.trans (and_congr_left' (by omega))
  unfold tableByte
  by_cases hk : k < 4 * x.gw ∧ act.getLsbD (k / 4) = true
  · rw [if_pos (hvalid.2 hk), if_pos hk]; rfl
  · rw [if_neg (fun h => hk (hvalid.1 h)), if_neg hk]; rfl

/-- Four bytes fill a word. -/
theorem permByte_lt (x : Group) (act : Mask) (d a b : Opnd) (l : Nat) : permByte x act d a b l < 2 ^ 64 := by
  have byte (i : Nat) : (tableByte x act a (bits (src32 x b l).toNat (8 * i) 8)).getD
      (bits (x.curReg d l).toNat (8 * i) 8) < 2 ^ 8 := by
    rw [tableByte_getD]
    split <;> exact Nat.mod_lt _ (by decide)
  have h0 := byte 0
  have h1 := byte 1
  have h2 := byte 2
  have h3 := byte 3
  simp only [permByte]
  omega

/-- A lane that looks up no byte of the table holds its element already (R182). -/
theorem permByte_of_not_looksUp {x : Group} {act : Mask} {d a b : Opnd} {l : Nat} (h : looksUp x act a b l = false) :
    permByte x act d a b l = (x.curReg d l).toNat := by
  have kept (i : Nat) (hi : i < 4) : tableByte x act a (bits (src32 x b l).toNat (8 * i) 8) = none := by
    rw [looksUp, List.any_eq_false] at h
    simpa using h i (List.mem_range.2 hi)
  unfold permByte
  simp only [kept 0 (by decide), kept 1 (by decide), kept 2 (by decide), kept 3 (by decide), Option.getD_none]
  exact bits_sum _ (x.curReg d l).isLt

/-- The element of `bperm.byte` in the lanes that look up a byte (R182). -/
def permLane (d a b : Opnd) (act : Mask) (x : Group) (l : Nat) : Option DWord :=
  if looksUp x act a b l then some (BitVec.ofNat 64 (permByte x act d a b l)) else none

theorem steady_curReg (d : Opnd) (l : Nat) : Steady (·.curReg d l) := fun _ _ _ _ _ _ _ _ => by cases d <;> rfl

theorem steady_permLane (d a b : Opnd) (act : Mask) : Steady (permLane d a b act) := by
  intro x p r c y f g h
  have ha (m : Nat) := steady_src32 a m x p r c y f g h
  have hb (m : Nat) := steady_src32 b m x p r c y f g h
  have hd (m : Nat) := steady_curReg d m x p r c y f g h
  dsimp only at ha hb hd
  funext l
  simp only [permLane, looksUp, permByte, tableByte, ha, hb, hd] <;> rfl

theorem permLane_toNat (d a b : Opnd) (act : Mask) (x : Group) (l : Nat) :
    (permLane d a b act x l).map BitVec.toNat = if looksUp x act a b l then some (permByte x act d a b l) else none := by
  unfold permLane
  split
  · rw [Option.map_some, BitVec.toNat_ofNat, Nat.mod_eq_of_lt (permByte_lt ..)]
  · rfl

/-- Bytes are looked up, or keep their values, one by one (R182). -/
theorem bpermByteResult (h : Hdr) (d a b : Opnd) : LaneSpec (.bperm h true d a b) h false d fun x l =>
    BitVec.ofNat 64 (permByte x (x.active h.toGuard) d a b l) := by
  refine (laneOptSpec_marked (f := fun x => permLane d a b (x.active h.toGuard) x)
    (m := fun x l => keepsByte x (x.active h.toGuard) a b l && x.curMark d l) (fun s => ?_)
    (laneDest_of_row 0x67 (w := .one) rfl rfl (fun _ _ => rfl) fun _ => rfl)
    ((steady_active h.toGuard).bind fun act => steady_permLane d a b act)).laneSpec (fun x l v hv => ?_) fun x l hv => ?_
  · simp only [permLane_toNat]
    rfl
  · unfold permLane at hv
    split at hv
    · exact (Option.some.inj hv).symm
    · cases hv
  · unfold permLane at hv
    split at hv
    · cases hv
    · next hl =>
      rw [permByte_of_not_looksUp (by simpa using hl)]
      apply BitVec.eq_of_toNat_eq
      rw [BitVec.toNat_setWidth, BitVec.toNat_ofNat]
      have := (x.curReg d l).isLt
      omega

/-! ### Lane exchange -/

/-- Each lane is a function of the active set and of what the operands give all the lanes (R175, R176, R181, R182). -/
theorem laneExchangeResults : Claims.LaneExchangeResults := by
  refine ⟨?shfl, ?expd, ?bperm, ?bpermByte⟩
  case shfl =>
    refine fun h ty mode d a b => (laneOptSpec_int 0x60 rfl rfl (fun _ => rfl)
      ((steady_active h.toGuard).bind fun act => steady_gw.map₃ (steady_lanesInt ty a) (steady_lanes32 b) fun gw v w l =>
        if validLane act gw (shflFrom mode l (w l)) then some (patInt (v (shflFrom mode l (w l)).toNat)) else none)).congr
          fun x l => ?_
    cases mode <;> simp only [validLane_iff, shflFrom]
  case expd =>
    exact fun h ty d a b => (laneOptSpec_int 0x66 rfl rfl (fun _ => rfl)
      ((steady_active h.toGuard).map₃ (steady_srcP b) (steady_lanesInt ty a) fun act p v l =>
        if (lanesOf (act &&& p)).contains l then some (patInt (v ((lanesOf (act &&& p)).takeWhile (· < l)).length))
        else none)).congr fun x l => expd_lane _ (fun k => patInt (srcInt x ty a k)) l
  case bperm =>
    refine fun h d a b => laneOptSpec_of (fun s => ?_) (laneDest_of_row 0x67 (w := .one) rfl rfl (fun _ _ => rfl) fun _ => rfl)
      ((steady_active h.toGuard).map₃ (steady_lanes32 b) (steady_lanesInt .i32 a) fun act w v l =>
        ((lanesOf act).filter fun m => (w m).toNat == l).getLast?.map fun m => patInt (v m))
    simp only [Option.map_map]
    rfl
  case bpermByte =>
    intro h d a b
    have hres := bpermByteResult h d a b
    unfold permByte at hres
    simp only [tableByte_getD] at hres
    exact hres

/-! ### `rdln` -/

/-- D of `rdln` is open, and a uniform register or a vector destination (R177). -/
theorem readLane_dest {h : Hdr} {ty : IType} {d a b : Opnd} {s : State} {e : Enc} (hi : Issues (.rdln h ty d a b) s e) :
    destOpen s.g d (regsOf (IType.wide ty)) ∧ (gDest d ∨ vDest d (IType.wide ty)) := by
  have hfields : destFields (.rdln h ty d a b) = some (0x62, mk4 ty.code false, encSpec d) := rfl
  rw [destFields, hi.1, Option.map_some, Option.some_inj, Prod.mk.injEq, Prod.mk.injEq] at hfields
  obtain ⟨hopc, hmod, hd⟩ := hfields
  have hrow : (rowOf e.w.opc).map Row.d = some (.op Roles.accVG .int .wr) := by rw [hopc]; rfl
  have hc := count_int hmod
  obtain ⟨htakes, hfit⟩ := dest_takes hi hrow hd
  refine ⟨hc ▸ destOpen_row hi hrow (by decide) hd, ?_⟩
  cases d with
  | g r => exact .inl trivial
  | v r => exact .inr trivial
  | o r =>
    rw [hc] at hfit
    cases hw : IType.wide ty with
    | false => exact .inr rfl
    | true => rw [hw] at hfit; cases hfit
  | _ => cases htakes

theorem exec_rdln_uniform (h : Hdr) (ty : IType) (r : BitVec 6) (a b : Opnd) (s : State) :
    exec (.rdln h ty (.g r) a b) s = issue (.rdln h ty (.g r) a b) s (plain fun e s =>
      wrG e (.g r) (IType.wide ty) (if validLane (s.g.active h.toGuard) s.g.gw (u32 s.g b).toNat then s.g.active h.toGuard else 0)
        (patInt (srcInt s.g ty a (u32 s.g b).toNat)) s) := rfl

theorem exec_rdln_vector {d : Opnd} {wide : Bool} (hd : vDest d wide) (h : Hdr) (ty : IType) (a b : Opnd) (s : State) :
    exec (.rdln h ty d a b) s = issue (.rdln h ty d a b) s (plain fun e s =>
      wrVec e d (regsOf (IType.wide ty)) (s.g.active h.toGuard)
        (fun _ => if validLane (s.g.active h.toGuard) s.g.gw (u32 s.g b).toNat
          then some (patInt (srcInt s.g ty a (u32 s.g b).toNat)).toNat else none) (fun _ => false) s) := by
  cases d with
  | v r => rfl
  | o r => rfl
  | _ => exact hd.elim

/-- A uniform D: the lane that B names gives A once, and a lane that is not valid leaves everything as it was (R177). -/
theorem readLane_uniform {h : Hdr} {ty : IType} {r : BitVec 6} {a b : Opnd} {s : State} {e : Enc}
    (hi : Issues (.rdln h ty (.g r) a b) s e) (hopen : destOpen s.g (.g r) (regsOf (IType.wide ty))) (act : Mask)
    (hact : act = if validLane (s.g.active h.toGuard) s.g.gw (u32 s.g b).toNat then s.g.active h.toGuard else 0) :
    ∃ t, exec (.rdln h ty (.g r) a b) s = .next t ∧
      UniResult e t (.g r) (IType.wide ty) act (patInt (srcInt s.g ty a (u32 s.g b).toNat)) ∧
      RegFrame s t (destKeys e (.g r) (regsOf (IType.wide ty)) act) act 0 := by
  obtain ⟨y, hy, hw, hv⟩ := wrG_spec e (.g r) (IType.wide ty) act (patInt (srcInt s.g ty a (u32 s.g b).toNat))
    (beginIssue e s) ((beginIssue_open e s _ _).2 hopen)
  obtain ⟨t, ht, hwalk, hframe⟩ := plain_wrote hi (exec_rdln_uniform h ty r a b s) (y := y)
    (by
      simp only [beginIssue_active, beginIssue_gw, (steady_u32 b).begin, (steady_srcInt ty a _).begin, ← hact]
      exact hy)
    hw
  refine ⟨t, ht, fun hn ha => ?_, hframe⟩
  simp only [Group.gPair, (hwalk.reads.2.1 _).1]
  exact hv hn ha r rfl

/-- A vector D with the lane that B names valid: every active lane takes A of that lane (R177). -/
theorem readLane_vector {h : Hdr} {ty : IType} {d a b : Opnd} {s : State} {e : Enc} (hi : Issues (.rdln h ty d a b) s e)
    (hopen : destOpen s.g d (regsOf (IType.wide ty))) (hvec : vDest d (IType.wide ty))
    (hok : validLane (s.g.active h.toGuard) s.g.gw (u32 s.g b).toNat = true) :
    ∃ t, exec (.rdln h ty d a b) s = .next t ∧
      LaneResult e t d (IType.wide ty) (s.g.active h.toGuard) (fun _ => patInt (srcInt s.g ty a (u32 s.g b).toNat)) ∧
      RegFrame s t (destKeys e d (regsOf (IType.wide ty)) (s.g.active h.toGuard)) (s.g.active h.toGuard) 0 := by
  obtain ⟨y, hy, hw, hv, -⟩ := wrVec_spec e d (regsOf (IType.wide ty)) (s.g.active h.toGuard)
    (fun _ => some (patInt (srcInt s.g ty a (u32 s.g b).toNat)).toNat) (fun _ => false)
    (beginIssue e s) ((beginIssue_open e s _ _).2 hopen)
  obtain ⟨t, ht, hwalk, hframe⟩ := plain_wrote hi (exec_rdln_vector hvec h ty a b s) (y := y)
    (by
      simp only [beginIssue_active, beginIssue_gw, (steady_u32 b).begin, (steady_srcInt ty a _).begin, hok, if_true]
      exact hy)
    hw
  exact ⟨t, ht, laneResult_of hvec hwalk fun hn l hl hg ha => hv hn l hl (by rw [← hw.rest.gw]; exact hg) ha, hframe⟩

/-- A vector D with that lane not valid: nothing is written (R175, R177). -/
theorem readLane_vector_invalid {h : Hdr} {ty : IType} {d a b : Opnd} {s : State} {e : Enc}
    (hi : Issues (.rdln h ty d a b) s e) (hvec : vDest d (IType.wide ty))
    (hok : validLane (s.g.active h.toGuard) s.g.gw (u32 s.g b).toNat = false) :
    ∃ t, exec (.rdln h ty d a b) s = .next t ∧ RegFrame s t [] 0 0 := by
  obtain ⟨y, hy, hw⟩ := wrVec_none_spec e d (regsOf (IType.wide ty)) (s.g.active h.toGuard) (fun _ => false)
    (beginIssue e s) [] 0
  obtain ⟨t, ht, -, hframe⟩ := plain_wrote hi (exec_rdln_vector hvec h ty a b s) (y := y)
    (by
      simp only [beginIssue_active, beginIssue_gw, (steady_u32 b).begin, hok, Bool.false_eq_true, if_false]
      exact hy)
    hw
  exact ⟨t, ht, hframe⟩

/-- By the class of D, and by whether the lane that B names is valid (R177). -/
theorem readLaneResult : Claims.ReadLaneResult := by
  intro h ty d a b s e hi
  obtain ⟨hopen, hdest⟩ := readLane_dest hi
  dsimp only
  rw [← validLane_natCast_iff]
  rcases hdest with hg | hvec
  · cases d with
    | g r =>
      obtain ⟨t, ht, hres, hframe⟩ := readLane_uniform hi hopen _ rfl
      refine ⟨t, ht, fun hok => ?_, fun hok => ?_, fun hok => ?_⟩
      · simpa only [if_pos hok] using hres
      · simpa only [if_pos hok] using hframe
      · simpa only [if_neg hok, destKeys, beq_self_eq_true, Bool.or_true, if_true] using hframe
    | _ => exact hg.elim
  · cases hok : validLane (s.g.active h.toGuard) s.g.gw (u32 s.g b).toNat with
    | true =>
      obtain ⟨t, ht, hres, hframe⟩ := readLane_vector hi hopen hvec hok
      refine ⟨t, ht, fun _ => ?_, fun _ => hframe, fun hne => absurd rfl hne⟩
      cases d with
      | g r => exact hvec.elim
      | _ => exact hres
    | false =>
      obtain ⟨t, ht, hframe⟩ := readLane_vector_invalid hi hvec hok
      exact ⟨t, ht, fun hc => by simp at hc, fun hc => by simp at hc, fun _ => hframe⟩

/-! ### `cmpk` -/

/-- A vector result leaves every uniform register as it is (R17). -/
theorem wrVec_gAt (e : Enc) (d : Opnd) (n : Nat) (act : Mask) (f : Nat → Option Nat) (m : Nat → Bool) (s : State) (r : Nat) :
    (wrVec e d n act f m s).g.gAt r = s.g.gAt r := by
  have latch (f : Nat → Word) (m : Nat → Bool) (x : Group) : (latchAll e f m x).gAt r = x.gAt r := by
    obtain ⟨_, _, h⟩ := latchAll_spec e f m x
    rw [h]; rfl
  have regs (l v : Nat) (b : Bool) (k : Nat) (x : Group) : (putRegs d l v b k x).gAt r = x.gAt r := by
    induction k with
    | zero => rfl
    | succ k ih =>
      cases d with
      | v q => exact (gAt_setV ..).trans ih
      | _ => exact ih
  have lane (l : Nat) (x : Group) : (putLane d n act f m l x).gAt r = x.gAt r := by
    unfold putLane
    split
    · split
      · exact regs ..
      · rfl
    · rfl
  unfold wrVec
  dsimp only
  split
  · exact latch ..
  · exact (latch ..).trans (forLanes_ind (fun _ x => x.gAt r = s.g.gAt r) _ _ _ rfl fun l x _ hx => (lane l x).trans hx)

/-- C of `cmpk` is open (R37, R180). -/
theorem compact_count_open {h : Hdr} {ty : IType} {d a b : Opnd} {k : BitVec 6} {s : State} {e : Enc}
    (hi : Issues (.cmpk h ty d a b (.g k)) s e) : gOpen s.g k.toNat := by
  have hfields : (toEnc (.cmpk h ty d a b (.g k))).map (fun e => (e.w.opc, e.w.c)) = some (0x65, encSpec (.g k)) := rfl
  rw [hi.1, Option.map_some, Option.some_inj, Prod.mk.injEq] at hfields
  obtain ⟨hopc, hc⟩ := hfields
  obtain ⟨r, hr, hrc⟩ : ∃ r, rowOf e.w.opc = some r ∧ r.c = Roles.dg .one := by rw [hopc]; exact ⟨_, rfl, rfl⟩
  have hbad := issues_fields hi hr ⟨r.c, e.w.c, 3⟩ (by simp [fieldsOf])
  have hone : e.count .one = 1 := rfl
  have hwr : (Dir.wr != Dir.rd) = true := rfl
  simp only [fieldBad, FieldUse.operand, hrc, Roles.dg, hc, decSpec_g, Option.map_some, hone, hwr, Bool.and_true] at hbad
  unfold gOpen
  cases hs : s.g.shadowed with
  | false => rfl
  | true =>
    rw [hs, Bool.true_and, decide_eq_false_iff_not] at hbad
    rw [Bool.true_and, decide_eq_false_iff_not]
    omega

theorem exec_cmpk (h : Hdr) (ty : IType) (d a b : Opnd) (k : BitVec 6) (s : State) :
    exec (.cmpk h ty d a b (.g k)) s = issue (.cmpk h ty d a b (.g k)) s (plain fun e s =>
      if s.g.active h.toGuard = 0 then wrVec e d (regsOf (IType.wide ty)) 0 (fun _ => none) (fun _ => false) s
      else wrVec e d (regsOf (IType.wide ty)) (laneMask (lanesOf (s.g.active h.toGuard &&& srcP s.g b)).length)
        (fun n => ((lanesOf (s.g.active h.toGuard &&& srcP s.g b))[n]?).map fun l => (patInt (srcInt s.g ty a l)).toNat)
        (fun _ => false) (onG (fun y => y.setG k.toNat
          (BitVec.ofNat 32 (lanesOf (s.g.active h.toGuard &&& srcP s.g b)).length) false) s)) := rfl

/-- With an empty active set nothing is written, the count included (R180). -/
theorem compact_empty {h : Hdr} {ty : IType} {d a b : Opnd} {k : BitVec 6} {s : State} {e : Enc}
    (hi : Issues (.cmpk h ty d a b (.g k)) s e) (hact : s.g.active h.toGuard = 0) (act : Mask) :
    ∃ t, exec (.cmpk h ty d a b (.g k)) s = .next t ∧ RegFrame s t [] act 0 := by
  obtain ⟨y, hy, hw⟩ := wrVec_none_spec e d (regsOf (IType.wide ty)) 0 (fun _ => false) (beginIssue e s) [] act
  obtain ⟨t, ht, -, hframe⟩ := plain_wrote hi (exec_cmpk h ty d a b k s) (y := y)
    (by
      simp only [beginIssue_active, hact, if_true]
      exact hy)
    hw
  exact ⟨t, ht, hframe⟩

/-- The count goes to C, then the elements to D: lane n takes the one of the n-th picked lane (R180). -/
theorem compact_active {h : Hdr} {ty : IType} {d a b : Opnd} {k : BitVec 6} {s : State} {e : Enc}
    (hi : Issues (.cmpk h ty d a b (.g k)) s e) (hact : s.g.active h.toGuard ≠ 0) (ls : List Nat)
    (hls : ls = lanesOf (s.g.active h.toGuard &&& srcP s.g b)) :
    ∃ t, exec (.cmpk h ty d a b (.g k)) s = .next t ∧ t.g.gAt k.toNat = BitVec.ofNat 32 ls.length ∧
      LaneResult e t d (IType.wide ty) (laneMask ls.length) (fun n => patInt (srcInt s.g ty a (ls.getD n 0))) ∧
      RegFrame s t (opKeys d (regsOf (IType.wide ty)) ++ opKeys (.g k) 1) (laneMask ls.length) 0 := by
  obtain ⟨⟨hopen, hvec⟩, -⟩ := laneDest_of_row 0x65 (w := .int) (d := d) rfl rfl (fun _ => count_int) (fun _ => rfl) s e hi
  have hk : gOpen (beginIssue e s).g k.toNat := (beginIssue_open e s (.g k) 1).2 (fun i hi' => by
    rw [Nat.lt_one_iff.1 hi']; exact compact_count_open hi) 0 Nat.one_pos
  let x := (beginIssue e s).g.setG k.toNat (BitVec.ofNat 32 ls.length) false
  have hcount : Wrote (beginIssue e s).g x (opKeys d (regsOf (IType.wide ty)) ++ opKeys (.g k) 1) (laneMask ls.length) :=
    wrote_setG _ _ _ (List.mem_append_right _ (by simp [opKeys])) hk
  obtain ⟨y, hy, hw, hv, -⟩ := wrVec_spec e d (regsOf (IType.wide ty)) (laneMask ls.length)
    (fun n => (ls[n]?).map fun l => (patInt (srcInt s.g ty a l)).toNat) (fun _ => false) { beginIssue e s with g := x }
    ((destOpen_congr hcount.hidden _ _).2 ((beginIssue_open e s _ _).2 hopen))
  have hw' : Wrote x y (opKeys d (regsOf (IType.wide ty)) ++ opKeys (.g k) 1) (laneMask ls.length) :=
    hw.mono fun j hj => by
      unfold destKeys at hj
      split at hj
      · cases hj
      · exact List.mem_append_left _ hj
  have hyk : y.gAt k.toNat = BitVec.ofNat 32 ls.length := by
    have hkeep := wrVec_gAt e d (regsOf (IType.wide ty)) (laneMask ls.length)
      (fun n => (ls[n]?).map fun l => (patInt (srcInt s.g ty a l)).toNat) (fun _ => false) { beginIssue e s with g := x } k.toNat
    rw [hy] at hkeep
    exact hkeep.trans ((gAt_setG _ _ _ _ _ hk).trans (if_pos rfl))
  obtain ⟨t, ht, hwalk, hframe⟩ := plain_wrote hi (exec_cmpk h ty d a b k s) (y := y)
    (by
      simp only [beginIssue_active, hact, if_false, (steady_srcP b).begin, (steady_srcInt ty a _).begin, ← hls]
      exact hy)
    (hcount.trans hw')
  refine ⟨t, ht, (hwalk.reads.2.1 _).1.trans hyk, laneResult_of hvec hwalk fun hn l hl hg ha v hv' => ?_, hframe⟩
  refine hv hn l hl (by rw [← hw.rest.gw]; exact hg) ha v ?_
  have hlen : l < ls.length := by
    rw [getLsbD_laneMask, Bool.and_eq_true, decide_eq_true_iff, decide_eq_true_iff] at ha
    exact ha.2
  rw [← hv', List.getD_eq_getElem?_getD, List.getElem?_eq_getElem hlen]
  rfl

/-- With an active lane the count and the elements are written, with none nothing is (R180). -/
theorem compactResult : Claims.CompactResult := by
  intro h ty d a b k s e _ hi
  dsimp only
  by_cases hact : s.g.active h.toGuard = 0
  · obtain ⟨t, ht, hframe⟩ := compact_empty hi hact (laneMask (lanesOf (s.g.active h.toGuard &&& srcP s.g b)).length)
    exact ⟨t, ht, fun hne => absurd hact hne, fun hne => absurd hact hne, by rw [if_pos hact]; exact hframe⟩
  · obtain ⟨t, ht, hcount, hres, hframe⟩ := compact_active hi hact _ rfl
    exact ⟨t, ht, fun _ => hcount, fun _ => hres, by rw [if_neg hact]; exact hframe⟩

/-- Settles O7: `shfl`, `expd` and `bperm` by what a lane's source is, `rdln` by whether the one source is valid, and `cmpk` by
the list of the lanes it packs. -/
theorem laneMovementResults : Obligations.LaneMovementResults :=
  ⟨laneExchangeResults, readLaneResult, compactResult⟩

end Sys2Proof.Machine
end

section
/-!
SUPPORT. Barrier objects in a scratchpad (spec/07 R204–R208, R214): what an object reads as after it is stored, what `bini`, `arv`
and `xpct` leave beside it, and the statement BarrierResults.
-/
namespace Sys2Proof.Machine

/-! ### Bytes of a scratchpad -/

theorem bytesAt_lt (m : Cells 8) (a n : Nat) : bytesAt m a n < 256 ^ n := by
  induction n generalizing a with
  | zero => exact Nat.one_pos
  | succ n ih =>
    have hb := (peek m a).isLt
    have hr := ih (a + 1)
    rw [bytesAt, Nat.pow_succ]
    omega

/-- A number that is stored reads back in parts: n bytes from byte k on. -/
theorem bytesAt_pokeBytes (m : Cells 8) (a k n w x : Nat) (h : k + n ≤ w) :
    bytesAt (pokeBytes m a w x) (a + k) n = x / 256 ^ k % 256 ^ n := by
  induction n generalizing k with
  | zero => exact (Nat.mod_one _).symm
  | succ n ih =>
    have hin : a ≤ a + k ∧ a + k < a + w := by omega
    have low : (peek (pokeBytes m a w x) (a + k)).toNat = x / 256 ^ k % 256 := by
      rw [peek_pokeBytes, if_pos hin, Nat.add_sub_cancel_left, BitVec.toNat_ofNat]
    rw [bytesAt, low, Nat.add_assoc, ih (k + 1) (by omega), Nat.pow_succ 256 k, ← Nat.div_div_eq_div_mul, ← Nat.mod_mul,
      ← Nat.pow_succ']

/-! ### Objects -/

/-- An object as its 16 bytes hold it: every field cut to its width (R204). -/
def BObj.fit (o : BObj) : BObj :=
  { xb := o.xb % 2 ^ 32, cb := o.cb % 2 ^ 32, xarr := o.xarr % 2 ^ 16, carr := o.carr % 2 ^ 16,
    phase := o.phase % 2 ^ 16, flags := o.flags % 2 ^ 16 }

theorem getObj_padWrite (off : Nat) (o : BObj) (t : Team) : getObj (padWrite off 16 o.num t) off = o.fit := by
  have part (k n : Nat) (h : k + n ≤ 16) : padRead (padWrite off 16 o.num t) (off + k) n = o.num / 256 ^ k % 256 ^ n :=
    bytesAt_pokeBytes _ _ _ _ _ _ h
  have whole := part 0 4 (by omega)
  rw [Nat.add_zero] at whole
  rw [getObj, whole, part 4 4 (by omega), part 8 2 (by omega), part 10 2 (by omega), part 12 2 (by omega),
    part 14 2 (by omega), BObj.fit, BObj.num, BObj.mk.injEq]
  refine ⟨?_, ?_, ?_, ?_, ?_, ?_⟩ <;> omega

/-- An object that a scratchpad holds fits its fields. -/
theorem fit_getObj (t : Team) (off : Nat) : (getObj t off).fit = getObj t off := by
  have four (a : Nat) : padRead t a 4 % 2 ^ 32 = padRead t a 4 := Nat.mod_eq_of_lt (bytesAt_lt _ _ _)
  have two (a : Nat) : padRead t a 2 % 2 ^ 16 = padRead t a 2 := Nat.mod_eq_of_lt (bytesAt_lt _ _ _)
  simp only [getObj, BObj.fit, four, two]

/-- An object at the end of a phase fits, whatever its counts were (R205). -/
theorem fit_advance {o : BObj} (hxarr : o.xarr % 2 ^ 16 = o.xarr) (hflags : o.flags % 2 ^ 16 = o.flags) :
    o.advance.fit = o.advance := by
  have hhalf : o.flags / 2 * 2 % 2 ^ 16 = o.flags / 2 * 2 := by omega
  simp only [BObj.fit, BObj.advance, Nat.zero_mod, Nat.mod_mod, hxarr, hhalf]

theorem fit_settled {o : BObj} (h : o.fit = o) : (settled o).fit = settled o := by
  unfold settled
  split
  · exact fit_advance (congrArg BObj.xarr h) (congrArg BObj.flags h)
  · exact h

/-- The arrivals may be counted past their field before the phase is looked at (R205). -/
theorem fit_settled_carr {o : BObj} (h : o.fit = { o with carr := o.carr % 2 ^ 16 }) :
    (settled o).fit = { settled o with carr := (settled o).carr % 2 ^ 16 } := by
  unfold settled
  split
  · exact fit_advance (congrArg BObj.xarr h) (congrArg BObj.flags h)
  · exact h

/-! ### An object stored in a team -/

/-- T is the team t with the object ob at o: beside its 16 bytes only marks and the signatures of carriers differ (R204, R320). -/
structure Stored (o : Nat) (ob : BObj) (t T : Team) : Prop where
  obj : getObj T o = ob
  rest : { T with pad := [], padm := [], carr := [] } = { t with pad := [], padm := [], carr := [] }
  pad : ∀ off, ¬ (o ≤ off ∧ off < o + 16) → peek T.pad off = peek t.pad off

theorem stored_padWrite (o : Nat) (ob : BObj) (t : Team) : Stored o ob.fit t (padWrite o 16 ob.num t) :=
  ⟨getObj_padWrite .., rfl, fun _ h => (peek_pokeBytes ..).trans (if_neg h)⟩

theorem Stored.setCarrier {o : Nat} {ob : BObj} {t T : Team} (h : Stored o ob t T) (k : Nat) (sig : BitVec 1024) :
    Stored o ob t (setCarrier k sig T) :=
  ⟨h.obj, h.rest, h.pad⟩

/-- A carrier that has changed before is no part of the object. -/
theorem Stored.of_setCarrier {o k : Nat} {ob : BObj} {t T : Team} {sig : BitVec 1024}
    (h : Stored o ob (Machine.setCarrier k sig t) T) : Stored o ob t T :=
  ⟨h.obj, h.rest, h.pad⟩

/-- Storing an object ends its phase when it is complete (R205). -/
theorem stored_storeObj (o : Nat) (ob : BObj) (sig : BitVec 1024) (t : Team) :
    Stored o (settled ob).fit t (storeObj o ob sig t) := by
  have ends (t : Team) : Stored o (settled ob).fit t (if ob.complete then
      setCarrier o 0 (setCarrier (o + 8) (carrierOf t o) (padWrite o 16 ob.advance.num t)) else padWrite o 16 ob.num t) := by
    unfold settled
    split
    · exact ((stored_padWrite ..).setCarrier ..).setCarrier ..
    · exact stored_padWrite ..
  unfold storeObj
  by_cases hsig : sig = 0
  · simp only [if_pos hsig]
    exact ends t
  · simp only [if_neg hsig]
    exact (ends _).of_setCarrier

/-- An object stored with another number of bytes expected (R208). -/
theorem stored_expect {n : Nat} (h : n < 2 ^ 32) (o : Nat) (sig : BitVec 1024) (t : Team) :
    Stored o (settled { getObj t o with xb := n }) t (storeObj o { getObj t o with xb := n } sig t) := by
  have hstored := stored_storeObj o { getObj t o with xb := n } sig t
  rwa [fit_settled] at hstored
  exact (congrArg (fun q : BObj => { q with xb := n % 2 ^ 32 }) (fit_getObj t o)).trans (by rw [Nat.mod_eq_of_lt h])

/-- An object stored with another count of arrivals (R208). -/
theorem stored_arrive (n o : Nat) (sig : BitVec 1024) (t : Team) :
    Stored o { settled { getObj t o with carr := n } with carr := (settled { getObj t o with carr := n }).carr % 2 ^ 16 } t
      (storeObj o { getObj t o with carr := n } sig t) := by
  rw [← fit_settled_carr]
  · exact stored_storeObj ..
  · exact congrArg (fun q : BObj => { q with carr := n % 2 ^ 16 }) (fit_getObj t o)

theorem Stored.uid {o : Nat} {ob : BObj} {t T : Team} (h : Stored o ob t T) : T.uid = t.uid := congrArg (·.uid) h.rest

/-! ### The frame of an instruction on an object -/

theorem wrote_beginIssue (e : Enc) (s : State) (ks : List Nat) (act : Mask) : Wrote s.g (beginIssue e s).g ks act := by
  obtain ⟨p, a, c, d, f, g, h, wd, we, ev, ob, fr, tl, wq, hb, hq⟩ := beginIssue_spec e s
  rw [hb]
  exact .of_same ks act rfl rfl rfl rfl rfl rfl

/-- Bytes elsewhere stay. -/
theorem locByte_stored {o : Nat} {ob : BObj} {s : State} {T : Team} (hT : Stored o ob s.t T) (e : Enc) (y : Group) (loc : Loc)
    (hloc : ¬ ObjBytes s o loc) : locByte { beginIssue e s with g := y, t := T } loc = locByte s loc := by
  obtain ⟨p, a, c, d, f, g, h, wd, we, ev, obs, fr, tl, wq, hb, hq⟩ := beginIssue_spec e s
  rw [hb]
  cases loc with
  | hbm _ => rfl
  | host _ => rfl
  | pad u off =>
    simp only [locByte, allTeams, List.find?_cons, hT.uid]
    cases hu : s.t.uid == u with
    | true =>
      refine hT.pad off fun hin => hloc ⟨off - o, by omega, ?_⟩
      rw [beq_iff_eq.1 hu, Nat.add_sub_cancel' hin.1]
    | false => rfl

/-- The object of the team in focus is stored, and the group in focus has changed by its registers, its signature and its
stores. -/
theorem accessFrame_stored {e : Enc} {s : State} {o : Nat} {ob : BObj} {T : Team} {y : Group} {sg : BitVec 1024} {un : Nat}
    {ks : List Nat} {act : Mask} (hT : Stored o ob s.t T) (hw : Wrote { s.g with sig := sg, unack := un } y ks act) :
    AccessFrame s { beginIssue e s with g := y, t := T } ks act (ObjBytes s o) := by
  have hsig : y.sig = sg := congrArg Group.sig hw.rest
  have hun : y.unack = un := congrArg Group.unack hw.rest
  have bytes := locByte_stored hT e y
  obtain ⟨p, a, c, d, f, g, h, wd, we, ev, obs, fr, tl, wq, hb, hq⟩ := beginIssue_spec e s
  rw [hb] at bytes ⊢
  refine ⟨rfl, ?teams, bytes, fun _ _ => ⟨rfl, fun _ _ => rfl⟩, fun _ _ _ _ => rfl, ?rest, hw.flags, hw.sameRegs⟩
  case teams => exact congrArg (· :: _) hT.rest
  case rest =>
    dsimp only
    rw [hsig, hun]
    exact hw.rest

/-! ### Bodies on an object -/

theorem beginIssue_src32 (e : Enc) (s : State) (o : Opnd) : src32 (beginIssue e s).g o 0 = src32 s.g o 0 :=
  (steady_src32 o 0).begin e s

theorem beginIssue_objAddr (e : Enc) (s : State) (a : Opnd) : objAddr (beginIssue e s).g a = objAddr s.g a :=
  congrArg BitVec.toNat (beginIssue_src32 e s a)

section OnObj

variable {i : Instr} {h : Hdr} {a : Opnd} {f : Nat → Enc → State → Act} {s : State} {e : Enc}

theorem onObj_idle (hact : s.g.active h.toGuard = 0) : onObj h a f e (beginIssue e s) = .ok (seqNext e (beginIssue e s)) := by
  rw [onObj, beginIssue_active, if_pos hact]

theorem onObj_bad {x : FaultInfo} (hact : s.g.active h.toGuard ≠ 0) (hx : objFault s.t (objAddr s.g a) false = some x) :
    onObj h a f e (beginIssue e s) = .fault x := by
  rw [onObj, beginIssue_active, if_neg hact]
  simp only [beginIssue_objAddr, beginIssue_t, hx]

theorem onObj_good (hact : s.g.active h.toGuard ≠ 0) (hx : objFault s.t (objAddr s.g a) false = none) :
    onObj h a f e (beginIssue e s) = f (objAddr s.g a) e (beginIssue e s) := by
  rw [onObj, beginIssue_active, if_neg hact]
  simp only [beginIssue_objAddr, beginIssue_t, hx]

/-- An instruction with such a body does nothing without an active lane, and raises what its address raises (R206, R214). -/
theorem objectGuard_of (hex : exec i s = issue i s (onObj h a f)) (hi : Issues i s e) : ObjectGuard i s h a := by
  refine ⟨fun hact => ⟨_, ?_, regFrame_seqNext e s⟩, fun x hact hx => ?_⟩
  · rw [hex, issue_eq hi, onObj_idle hact]
  · rw [hex, issue_eq hi, onObj_bad hact hx]

/-- Elsewhere it does what its body does with the object. -/
theorem exec_onObj_ok {t : State} (hex : exec i s = issue i s (onObj h a f)) (hi : Issues i s e)
    (hact : s.g.active h.toGuard ≠ 0) (hx : objFault s.t (objAddr s.g a) false = none)
    (hf : f (objAddr s.g a) e (beginIssue e s) = .ok t) : exec i s = .next t := by
  rw [hex, issue_eq hi, onObj_good hact hx, hf]

theorem exec_onObj_misuse (hex : exec i s = issue i s (onObj h a f)) (hi : Issues i s e)
    (hact : s.g.active h.toGuard ≠ 0) (hx : objFault s.t (objAddr s.g a) false = none)
    (hf : f (objAddr s.g a) e (beginIssue e s) = misuse) : exec i s = .next (takeFault { cause := cBARRIER } s) := by
  rw [hex, issue_eq hi, onObj_good hact hx, hf, misuse]

end OnObj

/-- Going on behind an instruction that has stored an object: the object stands there, and nothing else has changed. -/
theorem seqNext_stored {o : Nat} {ob : BObj} {s : State} {T : Team} (e : Enc) (hT : Stored o ob s.t T) :
    getObj (seqNext e { beginIssue e s with t := T }).t o = ob ∧
      AccessFrame s (seqNext e { beginIssue e s with t := T }) [] 0 (ObjBytes s o) := by
  obtain ⟨z, hz, hwalk⟩ := seqNext_spec e { beginIssue e s with t := T }
  rw [hz]
  exact ⟨hT.obj, accessFrame_stored hT ((wrote_beginIssue e s [] 0).trans (hwalk.wrote [] 0))⟩

/-! ### `bini` -/

theorem steady_waitsOn (o : Nat) : Steady (waitsOn · o) := fun _ _ _ _ _ _ _ _ => rfl

/-- What holds of a group of a team still does when an instruction begins. -/
theorem groupsOf_any_begin {p : Group → Bool} (hp : Steady p) (e : Enc) (s : State) (u : Nat) :
    (groupsOf (beginIssue e s) u).any p = (groupsOf s u).any p := by
  have hg : ((beginIssue e s).g.team == u && (beginIssue e s).g.uid != 0 && p (beginIssue e s).g) =
      (s.g.team == u && s.g.uid != 0 && p s.g) :=
    Steady.begin (f := fun x => x.team == u && x.uid != 0 && p x)
      (fun _ _ _ _ _ _ _ _ => congrArg (fun b => _ && b) (hp ..)) e s
  have hgs : (beginIssue e s).gs = s.gs := by
    obtain ⟨p, a, c, d, f, g, h, wd, we, ev, ob, fr, tl, wq, hb, hq⟩ := beginIssue_spec e s
    rw [hb]
  simp only [groupsOf, allGroups, List.any_filter, List.any_cons, hg, hgs]

/-- R204, R207, R214: `bini` stores a new object, unless its count is out of range or a group waits there. -/
theorem barrierInitResult : Claims.BarrierInitResult := by
  intro h a b c s e hi
  refine ⟨objectGuard_of rfl hi, fun hact hobj => ⟨fun hbad => ?_, fun hlow hhigh hwait => ?_⟩⟩
  · refine exec_onObj_misuse rfl hi hact hobj (if_pos ?_)
    rw [beginIssue_src32, beginIssue_t, groupsOf_any_begin (steady_waitsOn _)]
    exact hbad
  · have hgood : ¬ ((src32 s.g b 0).toNat = 0 ∨ 65535 < (src32 s.g b 0).toNat ∨
        (groupsOf s s.t.uid).any (waitsOn · (objAddr s.g a)) = true) := by
      simp only [hwait, Bool.false_eq_true, or_false]
      omega
    refine ⟨_, exec_onObj_ok rfl hi hact hobj (if_neg ?_), ?_⟩
    · rw [beginIssue_src32, beginIssue_t, groupsOf_any_begin (steady_waitsOn _)]
      exact hgood
    · rw [beginIssue_src32, beginIssue_src32, beginIssue_t]
      refine seqNext_stored e (((?_ : Stored ..).setCarrier ..).setCarrier ..)
      have hfit := stored_padWrite (objAddr s.g a)
        ⟨0, 0, (src32 s.g b 0).toNat, 0, (src32 s.g c 0).toNat % 2 ^ 16, 0x8000⟩ s.t
      rwa [BObj.fit, Nat.mod_mod, Nat.mod_eq_of_lt (show (src32 s.g b 0).toNat < 2 ^ 16 by omega)] at hfit

/-! ### An arrival -/

/-- The group at its arrival: its stores and loads are done, and its signature has gone to the object (R208, R318, R320). -/
def Group.released (x : Group) : Group := { x with unack := 0, pend := x.pend.filter (·.sfu), sig := 0 }

theorem wrote_released (e : Enc) (s : State) (ks : List Nat) (act : Mask) :
    Wrote { s.g with sig := 0, unack := 0 } (beginIssue e s).g.released ks act := by
  obtain ⟨p, a, c, d, f, g, h, wd, we, ev, ob, fr, tl, wq, hb, hq⟩ := beginIssue_spec e s
  rw [hb]
  exact .of_same ks act rfl rfl rfl rfl rfl rfl

theorem onBank_pend (x : Group) (f : Bank → Bank) : (x.onBank f).pend = x.pend := by
  unfold Group.onBank
  cases x.sh <;> rfl

theorem Walked.pend {x y : Group} (h : Walked x y) : y.pend = x.pend := by
  obtain ⟨stk, h⟩ := h
  rw [h]
  exact onBank_pend ..

theorem latchAll_pend (e : Enc) (f : Nat → Word) (m : Nat → Bool) (x : Group) : (latchAll e f m x).pend = x.pend := by
  obtain ⟨a, b, h⟩ := latchAll_spec e f m x
  rw [h]

/-- A uniform result of one register leaves what is in flight. -/
theorem wrG_pend (e : Enc) (d : Opnd) (act : Mask) (v : DWord) (s : State) : (wrG e d false act v s).g.pend = s.g.pend := by
  cases d with
  | g r =>
    simp only [wrG]
    split
    · exact latchAll_pend ..
    · refine (latchAll_pend ..).trans ?_
      split
      · rfl
      · exact onBank_pend ..
  | _ => rfl

/-- A uniform result of one register, and the end of its instruction. -/
theorem seqNext_wrG_spec {e : Enc} {d : Opnd} {s : State} (act : Mask) (v : DWord) (ho : destOpen s.g d 1) :
    ∃ z, seqNext e (wrG e d false act v s) = { s with g := z } ∧ Wrote s.g z (destKeys e d 1 act) act ∧ z.pend = s.g.pend ∧
      (nwb e = false → act ≠ 0 → ∀ r, d = .g r → z.gAt r.toNat = v.setWidth 32) := by
  obtain ⟨y, hy, hwrote, hval⟩ := wrG_spec e d false act v s ho
  obtain ⟨z, hz, hwalk⟩ := seqNext_spec e (wrG e d false act v s)
  have hpend := hwalk.pend.trans (wrG_pend ..)
  rw [hz]
  rw [hy] at hwalk ⊢
  exact ⟨z, rfl, hwrote.trans (hwalk.wrote _ _), hpend, fun hn ha r hd => (hwalk.reads.2.1 _).1.trans (hval hn ha r hd)⟩

/-- The state in which `arv` writes D: the group has been released, and its team is T. -/
def releasedWith (T : Team) (s : State) : State := { onG Group.released s with t := T }

section Arrival

variable {h : Hdr} {sc : Scope} {d a : Opnd} {s : State} {e : Enc} (hi : Issues (.arv h sc d a) s e)
include hi

/-- D of `arv` is open, and is a uniform register or the zero register (R37, R208). -/
theorem arrive_dest : destOpen s.g d 1 ∧ ((∃ r, d = .g r) ∨ d = .zero) := by
  have hfields : destFields (.arv h sc d a) = some (0x85, mk4 sc.code false, encSpec d) := rfl
  rw [destFields, hi.1, Option.map_some, Option.some_inj, Prod.mk.injEq, Prod.mk.injEq] at hfields
  obtain ⟨hopc, -, hd⟩ := hfields
  have hrow : (rowOf e.w.opc).map Row.d = some (.op Roles.accGz .one .wr) := by rw [hopc]; rfl
  refine ⟨destOpen_row hi hrow (by decide) hd, ?_⟩
  have htakes := (dest_takes hi hrow hd).1
  cases d with
  | g r => exact .inl ⟨r, rfl⟩
  | zero => exact .inr rfl
  | _ => cases htakes

variable (hact : s.g.active h.toGuard ≠ 0) (hobj : objFault s.t (objAddr s.g a) false = none)
  (hvalid : (getObj s.t (objAddr s.g a)).valid = true)
  (hcarr : (getObj s.t (objAddr s.g a)).carr ≠ (getObj s.t (objAddr s.g a)).xarr)
include hact hobj hvalid hcarr

/-- What `arv` does on an object that can take an arrival; a group that is being stopped parks behind it (R208, R339). -/
theorem exec_arv : ∃ sig, ∃ park : Bool, ∃ pc,
    exec (.arv h sc d a) s = .next (
      let ob := getObj s.t (objAddr s.g a)
      let t := seqNext e (wrG e d false (s.g.active h.toGuard) (BitVec.ofNat 64 ob.phase)
        (releasedWith (storeObj (objAddr s.g a) { ob with carr := ob.carr + 1 } sig s.t) (beginIssue e s)))
      if park then onG (fun x => { x with stat := .barrier pc }) t else t) := by
  rw [← beginIssue_t e s, ← beginIssue_active e s]
  refine ⟨_, _, _, exec_onObj_ok rfl hi hact hobj (if_neg ?_)⟩
  rw [beginIssue_t]
  simpa [hvalid] using hcarr

/-- The arrival: the object is stored, the group is released, D is written, and the group goes on or parks. -/
theorem arrive_spec :
    let ob := getObj s.t (objAddr s.g a)
    let act := s.g.active h.toGuard
    ∃ sig z,
      exec (.arv h sc d a) s = .next { beginIssue e s with
        g := z, t := storeObj (objAddr s.g a) { ob with carr := ob.carr + 1 } sig s.t } ∧
      Wrote (beginIssue e s).g.released z (destKeys e d 1 act) act ∧ z.pend = (beginIssue e s).g.released.pend ∧
      (nwb e = false → act ≠ 0 → ∀ r, d = .g r → z.gAt r.toNat = (BitVec.ofNat 64 ob.phase).setWidth 32) := by
  intro ob act
  obtain ⟨sig, park, pc, hexec⟩ := exec_arv hi hact hobj hvalid hcarr
  have hopen := (destOpen_congr (wrote_released e s [] 0).hidden d 1).2 (arrive_dest hi).1
  obtain ⟨z, hz, hwrote, hpend, hval⟩ := seqNext_wrG_spec act (BitVec.ofNat 64 ob.phase)
    (s := releasedWith (storeObj (objAddr s.g a) { ob with carr := ob.carr + 1 } sig s.t) (beginIssue e s)) hopen
  cases park with
  | false => exact ⟨sig, z, hexec.trans (congrArg Host.Outcome.next hz), hwrote, hpend, hval⟩
  | true =>
    exact ⟨sig, { z with stat := .barrier pc },
      hexec.trans (congrArg (fun t => Host.Outcome.next (onG (fun x => { x with stat := .barrier pc }) t)) hz),
      hwrote.trans ((walked_stat z _).wrote _ _), hpend, hval⟩

end Arrival

/-! ### `arv` and `xpct` -/

/-- R205, R206, R208, R318: `arv` counts an arrival on a valid object that still waits for one and gives D its phase; `xpct` adds
to the bytes that a valid object expects. -/
theorem arriveAndExpectResults : Claims.ArriveAndExpectResults := by
  refine ⟨?arv, ?xpct⟩
  case arv =>
    intro h sc d a s e hi
    refine ⟨objectGuard_of rfl hi, fun hact hobj => ⟨fun hbad => ?_, fun hvalid hcarr => ?_⟩⟩
    · refine exec_onObj_misuse rfl hi hact hobj (if_pos ?_)
      rw [beginIssue_t]
      simpa using hbad
    · have hdest := (arrive_dest hi).2
      obtain ⟨sig, z, hexec, hwrote, hpend, hval⟩ := arrive_spec hi hact hobj hvalid hcarr
      have hfinal := (wrote_released e s _ _).trans hwrote
      have hstored := stored_arrive ((getObj s.t (objAddr s.g a)).carr + 1) (objAddr s.g a) sig s.t
      refine ⟨_, hexec, hstored.obj, fun hn hact => ?_, congrArg Group.unack hfinal.rest, ?_, accessFrame_stored hstored hfinal⟩
      · rcases hdest with ⟨r, rfl⟩ | rfl
        · exact hval hn hact r rfl
        · trivial
      · rw [hpend]
        exact fun p hp => (List.mem_filter.1 hp).2
  case xpct =>
    intro h a b s e hi
    refine ⟨objectGuard_of rfl hi, fun hact hobj => ⟨fun hbad => ?_, fun hvalid hn => ?_⟩⟩
    · refine exec_onObj_misuse rfl hi hact hobj (if_pos ?_)
      rw [beginIssue_src32, beginIssue_t]
      simpa using hbad
    · refine ⟨_, exec_onObj_ok rfl hi hact hobj (if_neg ?_), ?_⟩
      · rw [beginIssue_src32, beginIssue_t]
        simpa [hvalid] using hn
      · rw [beginIssue_src32, beginIssue_t]
        exact seqNext_stored e (stored_expect hn _ _ _)

/-- Settles O18: each of `bini`, `arv` and `xpct` stores one object, whose 16 bytes read back as it was stored, or raises
BARRIER_MISUSE. -/
theorem barrierResults : Obligations.BarrierResults := ⟨barrierInitResult, arriveAndExpectResults⟩

end Sys2Proof.Machine
end

section
/-!
SUPPORT. Tiles that are cleared, returned and bound (spec/08 R242–R244, R251, R252): which tile a change reaches, what the
operations accepted earlier on a tile may change, and the tiles of a range. With them the statement TileResults.
-/
namespace Sys2Proof.Machine

/-! ### The tile of a reference -/

/-- Two references to one tile: a lease has one core, and a team's tile is named by its core too (R242). -/
@[reducible] def TileRef.Names (r q : TileRef) : Prop :=
  r.lease = q.lease ∧ r.name = q.name ∧ (r.lease = 0 → r.team = q.team ∧ r.core = q.core)

/-- The first entry that p picks, in a list of which f has changed some entries: all that p picks, or none of them. -/
theorem find?_map_ite {α : Type} {p : α → Bool} {c : α → Prop} [DecidablePred c] {f : α → α} {b : Prop} [Decidable b]
    (hf : ∀ x, p (f x) = p x) (hc : ∀ x, p x = true → (c x ↔ b)) (xs : List α) :
    (xs.map fun x => if c x then f x else x).find? p = (xs.find? p).map fun x => if b then f x else x := by
  have hp : (p ∘ fun x => if c x then f x else x) = p := by
    funext x
    by_cases hx : c x
    · simp [hx, hf]
    · simp [hx]
  rw [List.find?_map, hp]
  exact Option.map_congr fun x hx => by simp only [hc x (List.find?_some hx)]

theorem getTile_lease {r : TileRef} (h : r.lease ≠ 0) (s : State) :
    getTile s r = (s.leases.find? (·.handle == r.lease)).bind fun l => l.tiles.find? (·.name == r.name) := by
  rw [getTile, if_pos h]
  cases s.leases.find? (·.handle == r.lease) <;> rfl

theorem getTile_team {r : TileRef} (h : r.lease = 0) (s : State) :
    getTile s r = (findTeam s r.team).bind fun p => p.tiles.find? fun z => z.core == r.core && z.name == r.name := by
  rw [getTile, if_neg (not_not_intro h)]
  cases findTeam s r.team <;> rfl

theorem findTeam_updTeam {f : Team → Team} (hf : ∀ p, (f p).uid = p.uid) (u v : Nat) (s : State) :
    findTeam (updTeam u f s) v = (findTeam s v).map fun p => if u = v then f p else p := by
  unfold findTeam
  split
  · rfl
  · refine find?_map_ite (c := fun p : Team => p.uid = u) (fun p => by rw [hf]) (fun p hp => ?_) (allTeams s)
    rw [beq_iff_eq.1 hp, eq_comm]

section Change

variable {f : Tile → Tile} (hf : ∀ z, (f z).core = z.core ∧ (f z).name = z.name) {r q : TileRef}
include hf

theorem getTile_updTile_team (hr : r.lease = 0) (hq : q.lease = 0) (s : State) :
    getTile (updTile r f s) q = (getTile s q).map fun z => if r.Names q then f z else z := by
  have tile (xs : List Tile) := find?_map_ite (p := fun z : Tile => z.core == q.core && z.name == q.name)
    (c := fun z => z.core = r.core ∧ z.name = r.name) (b := r.core = q.core ∧ r.name = q.name) (f := f)
    (fun z => by rw [(hf z).1, (hf z).2])
    (fun z hz => by
      rw [Bool.and_eq_true, beq_iff_eq, beq_iff_eq] at hz
      rw [hz.1, hz.2]
      exact and_congr eq_comm eq_comm) xs
  have team := findTeam_updTeam
    (f := fun p => { p with tiles := p.tiles.map fun z => if z.core = r.core ∧ z.name = r.name then f z else z })
    (fun _ => rfl) r.team q.team s
  rw [updTile, if_neg (not_not_intro hr), getTile_team hq, getTile_team hq, team, Option.bind_map, Option.map_bind]
  refine congrArg _ (funext fun p => ?_)
  simp only [Function.comp_apply]
  by_cases hteam : r.team = q.team
  · simp only [hteam, if_true, tile, TileRef.Names, hr, hq, true_and, forall_const, and_comm]
  · simp [hteam, TileRef.Names, hr]

theorem getTile_updTile_lease (hr : r.lease ≠ 0) (hq : q.lease ≠ 0) (s : State) :
    getTile (updTile r f s) q = (getTile s q).map fun z => if r.Names q then f z else z := by
  have tile (xs : List Tile) := find?_map_ite (p := fun z : Tile => z.name == q.name) (c := fun z => z.name = r.name)
    (b := r.name = q.name) (f := f) (fun z => by rw [(hf z).2]) (fun z hz => by rw [beq_iff_eq.1 hz, eq_comm]) xs
  have lease := find?_map_ite (p := fun l : Lease => l.handle == q.lease) (c := fun l => l.handle = r.lease)
    (b := r.lease = q.lease) (f := fun l => { l with tiles := l.tiles.map fun z => if z.name = r.name then f z else z })
    (fun _ => rfl) (fun l hl => by rw [beq_iff_eq.1 hl, eq_comm]) s.leases
  rw [updTile, if_pos hr, getTile_lease hq, getTile_lease hq, lease, Option.bind_map, Option.map_bind]
  refine congrArg _ (funext fun l => ?_)
  simp only [Function.comp_apply]
  by_cases hlease : r.lease = q.lease
  · simp only [hlease, if_true, tile, TileRef.Names, hq, true_and, false_implies, and_true]
  · simp [hlease, TileRef.Names]

/-- A change of a tile reaches the references to it, and no other. -/
theorem getTile_updTile (r q : TileRef) (s : State) :
    getTile (updTile r f s) q = (getTile s q).map fun z => if r.Names q then f z else z := by
  by_cases hr : r.lease = 0 <;> by_cases hq : q.lease = 0
  · exact getTile_updTile_team hf hr hq s
  · have apart : ¬ r.Names q := fun h => hq (h.1 ▸ hr)
    simp only [if_neg apart, Option.map_id_fun', id_eq]
    rw [updTile, if_neg (not_not_intro hr), getTile_lease hq, getTile_lease hq]
    rfl
  · have apart : ¬ r.Names q := fun h => hr (h.1.trans hq)
    simp only [if_neg apart, Option.map_id_fun', id_eq]
    rw [updTile, if_pos hr, getTile_team hq, getTile_team hq]
    rfl
  · exact getTile_updTile_lease hf hr hq s

end Change

/-! ### Work on tiles -/

/-- From s to t only tiles, the progress of row transfers and the operations of the engines change (R243, R258). -/
structure TileOnly (s t : State) : Prop where
  device : t = { s with g := { s.g with zprog := t.g.zprog }, gs := t.gs, t := { s.t with tiles := t.t.tiles }, ts := t.ts,
                        leases := t.leases, ops := t.ops }
  teams : t.ts.map (fun p => { p with tiles := [] }) = s.ts.map (fun p => { p with tiles := [] })
  groups : t.gs.map (fun x => { x with zprog := [] }) = s.gs.map (fun x => { x with zprog := [] })

theorem TileOnly.refl (s : State) : TileOnly s s := ⟨rfl, rfl, rfl⟩

theorem TileOnly.trans {s t u : State} (h : TileOnly s t) (k : TileOnly t u) : TileOnly s u :=
  ⟨by rw [k.device, h.device], k.teams.trans h.teams, k.groups.trans h.groups⟩

theorem TileOnly.team {s t : State} (h : TileOnly s t) : t.t.uid = s.t.uid := (congrArg (·.t.uid) h.device :)

/-- The team in focus holds other tiles. -/
theorem tileOnly_tiles (s : State) (zs : List Tile) : TileOnly s { s with t := { s.t with tiles := zs } } := ⟨rfl, rfl, rfl⟩

theorem tileOnly_updTile (r : TileRef) (f : Tile → Tile) (s : State) : TileOnly s (updTile r f s) := by
  unfold updTile
  split
  · exact ⟨rfl, rfl, rfl⟩
  · refine ⟨?_, ?_, rfl⟩
    · simp only [updTeam, mapTeams]
      split <;> rfl
    · simp only [updTeam, mapTeams, List.map_map]
      exact List.map_congr_left fun p _ => by
        simp only [Function.comp_apply]
        split <;> rfl

theorem tileOnly_noteRows (o : EngOp) (n : Nat) (s : State) : TileOnly s (noteRows o n s) := by
  unfold noteRows
  split
  · exact .refl s
  · refine ⟨?_, rfl, ?_⟩
    · simp only [updGroup, mapGroups]
      split <;> rfl
    · simp only [updGroup, mapGroups, List.map_map]
      exact List.map_congr_left fun x _ => by
        simp only [Function.comp_apply]
        split <;> rfl

theorem getTile_noteRows (o : EngOp) (n : Nat) (s : State) (q : TileRef) : getTile (noteRows o n s) q = getTile s q := by
  unfold noteRows
  split <;> rfl

/-- Such a change that reaches no tile but that of r. -/
structure TileWork (r : TileRef) (s t : State) : Prop extends TileOnly s t where
  other : ∀ q, ¬ r.Names q → getTile t q = getTile s q

theorem TileWork.refl (r : TileRef) (s : State) : TileWork r s s := ⟨.refl s, fun _ _ => rfl⟩

theorem TileWork.trans {r : TileRef} {s t u : State} (h : TileWork r s t) (k : TileWork r t u) : TileWork r s u :=
  ⟨h.toTileOnly.trans k.toTileOnly, fun q hq => (k.other q hq).trans (h.other q hq)⟩

theorem tileWork_updTile {f : Tile → Tile} (hf : ∀ z, (f z).core = z.core ∧ (f z).name = z.name) (r : TileRef) (s : State) :
    TileWork r s (updTile r f s) := by
  refine ⟨tileOnly_updTile r f s, fun q hq => ?_⟩
  simp only [getTile_updTile hf, if_neg hq, Option.map_id_fun', id_eq]

theorem tileWork_updOp (r : TileRef) (u : Nat) (f : EngOp → EngOp) (s : State) : TileWork r s (updOp u f s) :=
  ⟨⟨rfl, rfl, rfl⟩, fun _ _ => rfl⟩

theorem tileWork_noteRows (r : TileRef) (o : EngOp) (n : Nat) (s : State) : TileWork r s (noteRows o n s) :=
  ⟨tileOnly_noteRows o n s, fun q _ => getTile_noteRows o n s q⟩

/-- A row of a `zld` reaches its tile alone (R253). -/
theorem tileWork_zldRow (o : EngOp) (r : TileRef) (pd : Nat) (s : State) : TileWork r s (zldRow o r pd s) := by
  unfold zldRow
  split
  · exact .refl r s
  · split
    · exact .refl r s
    · dsimp only
      split
      · exact (tileWork_updOp ..).trans (tileWork_noteRows ..)
      · refine ((tileWork_updTile ?_ r s).trans (tileWork_updOp ..)).trans (tileWork_noteRows ..)
        exact fun _ => ⟨rfl, rfl⟩

/-- The operations accepted earlier on a tile reach that tile alone (R243). -/
theorem tileWork_settleTile (r : TileRef) (s : State) : TileWork r s (settleTile r s) := by
  refine List.foldlRecOn s.ops _ (motive := TileWork r s) (.refl r s) fun t ht o _ => ht.trans ?_
  split
  · exact .refl r t
  · split
    · split
      · refine (tileWork_updTile ?_ r t).trans (tileWork_updOp ..)
        exact fun _ => ⟨rfl, rfl⟩
      · exact .refl r t
    · refine List.foldlRecOn _ _ (motive := TileWork r t) (.refl r t) fun u hu _ _ => hu.trans ?_
      split
      · exact tileWork_zldRow ..
      · exact .refl r u
    · exact .refl r t

/-- What was accepted earlier on the tiles of a range is applied (R243, R251). -/
def settleTiles (rs : List TileRef) (s : State) : State := rs.foldl (fun s r => settleTile r s) s

theorem tileOnly_settleTiles (rs : List TileRef) (s : State) : TileOnly s (settleTiles rs s) :=
  List.foldlRecOn rs _ (motive := TileOnly s) (.refl s) fun t ht r _ => ht.trans (tileWork_settleTile r t).toTileOnly

/-- The scratchpads read as before. -/
theorem TileOnly.pads {s t : State} (h : TileOnly s t) (team off : Nat) :
    (findTeam t team).map (fun p => peek p.pad off) = (findTeam s team).map (fun p => peek p.pad off) := by
  have teams : (allTeams t).map (fun p => { p with tiles := [] }) = (allTeams s).map (fun p => { p with tiles := [] }) :=
    List.cons_eq_cons.2 ⟨by rw [h.device], h.teams⟩
  have bare (u : State) : ((allTeams u).find? (·.uid == team)).map (fun p => peek p.pad off) =
      (((allTeams u).map fun p => { p with tiles := [] }).find? (·.uid == team)).map (fun p => peek p.pad off) := by
    rw [List.find?_map, Option.map_map]
    rfl
  unfold findTeam
  split
  · rfl
  · rw [bare, bare, teams]

theorem wrote_begin_zprog (e : Enc) (s : State) (ps : List ZProg) (ks : List Nat) (act : Mask) :
    Wrote { s.g with zprog := ps } { (beginIssue e s).g with zprog := ps } ks act := by
  obtain ⟨p, a, c, d, f, g, h, wd, we, ev, ob, fr, tl, wq, hb, -⟩ := beginIssue_spec e s
  rw [hb]
  exact .of_same ks act rfl rfl rfl rfl rfl rfl

/-- The frame of an instruction that works on tiles and writes registers. -/
theorem TileOnly.tileFrame {e : Enc} {s t : State} {y : Group} {ks : List Nat} {act : Mask} (h : TileOnly (beginIssue e s) t)
    (hw : Wrote t.g y ks act) : TileFrame s { t with g := y } ks act := by
  have hg : t.g = { (beginIssue e s).g with zprog := t.g.zprog } := congrArg State.g h.device
  have hzprog : y.zprog = t.g.zprog := (congrArg Group.zprog hw.rest :)
  have hwrote : Wrote { s.g with zprog := y.zprog } y ks act := by
    rw [hzprog]
    refine (wrote_begin_zprog e s _ ks act).trans ?_
    rw [← hg]
    exact hw
  have hbytes := (sameBytes_begin e s y).1
  have hpads := h.pads
  obtain ⟨hdevice, hteams, hgroups⟩ := h
  obtain ⟨p, a, c, d, f, g, k, wd, we, ev, ob, fr, tl, wq, hb, -⟩ := beginIssue_spec e s
  rw [hb] at hdevice hteams hgroups hpads hbytes
  refine ⟨?device, ⟨?mem, hpads⟩, ?teams, hgroups, hwrote.rest, hwrote.flags, hwrote.sameRegs⟩
  case device =>
    unfold SameDevice
    rw [hdevice]
  case mem =>
    rw [hdevice]
    exact hbytes
  case teams =>
    refine List.cons_eq_cons.2 ⟨?_, hteams⟩
    rw [hdevice]

/-! ### Clearing -/

/-- What `zclr` does with one tile of its range (R251). -/
def clearTile (r : TileRef) (s : State) : State := updTile r (fun z => { z with z := [], zm := [] }) (settleTile r s)

/-- The tile of a reference, if there is one, holds zeros without marks. -/
def Cleared (s : State) (q : TileRef) : Prop := ∀ z, getTile s q = some z → z.z = [] ∧ z.zm = []

theorem tileOnly_clearTile (r : TileRef) (s : State) : TileOnly s (clearTile r s) :=
  (tileWork_settleTile r s).toTileOnly.trans (tileOnly_updTile ..)

/-- A tile is cleared by its turn, and stays so at the others'. -/
theorem cleared_clearTile {r q : TileRef} {s : State} (h : r.Names q ∨ Cleared s q) : Cleared (clearTile r s) q := by
  intro z hz
  have htile := getTile_updTile (f := fun z => { z with z := [], zm := [] }) (fun _ => ⟨rfl, rfl⟩) r q (settleTile r s)
  obtain ⟨w, hw, rfl⟩ := Option.map_eq_some_iff.1 (htile.symm.trans hz)
  by_cases hn : r.Names q
  · rw [if_pos hn]
    exact ⟨rfl, rfl⟩
  · rw [if_neg hn]
    exact h.resolve_left hn w (((tileWork_settleTile r s).other q hn).symm.trans hw)

/-- What `zclr` does with the tiles of its range. -/
def clearTiles (rs : List TileRef) (s : State) : State := rs.foldl (fun s r => clearTile r s) s

theorem tileOnly_clearTiles (rs : List TileRef) (s : State) : TileOnly s (clearTiles rs s) :=
  List.foldlRecOn rs _ (motive := TileOnly s) (.refl s) fun t ht r _ => ht.trans (tileOnly_clearTile r t)

/-- All tiles of a range are cleared. -/
theorem cleared_clearTiles {rs : List TileRef} {q : TileRef} {s : State} (h : q ∈ rs ∨ Cleared s q) :
    Cleared (clearTiles rs s) q := by
  induction rs generalizing s with
  | nil => exact h.resolve_left List.not_mem_nil
  | cons r rs ih =>
    refine ih ?_
    rcases h with hmem | hclear
    · rcases List.mem_cons.1 hmem with rfl | hmem
      · exact .inr (cleared_clearTile (.inl ⟨rfl, rfl, fun _ => ⟨rfl, rfl⟩⟩))
      · exact .inl hmem
    · exact .inr (cleared_clearTile (.inr hclear))

/-! ### The tiles of a range -/

/-- A fold that stops at an error answers, where it answers, one element for each of the list. -/
theorem mem_foldr_except {ε α β : Type} {f : α → Except ε (List β) → Except ε (List β)} {P : α → β → Prop}
    (hf : ∀ x r ys, f x r = .ok ys → ∃ y zs, r = .ok zs ∧ ys = y :: zs ∧ P x y) {xs : List α} {ys : List β}
    (h : xs.foldr f (.ok []) = .ok ys) : ∀ y ∈ ys, ∃ x ∈ xs, P x y := by
  induction xs generalizing ys with
  | nil =>
    cases h
    exact fun _ hy => absurd hy List.not_mem_nil
  | cons x xs ih =>
    obtain ⟨z, zs, htail, rfl, hz⟩ := hf x _ ys h
    intro y hy
    rcases List.mem_cons.1 hy with rfl | hy
    · exact ⟨x, List.mem_cons_self, hz⟩
    · obtain ⟨x', hx', hP⟩ := ih htail y hy
      exact ⟨x', List.mem_cons_of_mem _ hx', hP⟩

/-- A range does not go past the names, and its tiles are those of the words that follow (R251). -/
theorem tileRange_ok {s : State} {v : Word} {n : Nat} {rs : List TileRef} (h : tileRange s v n = .ok rs) :
    bits v.toNat 0 9 + n ≤ 512 ∧ ∀ r ∈ rs, ∃ i ∈ List.range n, tileOf s (v + BitVec.ofNat 32 i) = .ok r := by
  unfold tileRange at h
  dsimp only at h
  split at h
  · split at h <;> cases h
  · next hle =>
    refine ⟨Nat.le_of_not_lt hle, mem_foldr_except (fun i r ts hstep => ?_) h⟩
    split at hstep
    · cases hstep
    · cases hstep
    · next htile => exact ⟨_, _, rfl, (Except.ok.inj hstep).symm, htile⟩

/-- A tile operand without a lease handle names a tile of the team in focus (R242). -/
theorem tileOf_own {s : State} {v : Word} {r : TileRef} (h : tileOf s v = .ok r) (hv : bits v.toNat 16 16 = 0) :
    r.lease = 0 ∧ r.team = s.t.uid := by
  unfold tileOf at h
  simp only [hv, ne_eq, not_true_eq_false, if_false] at h
  split at h
  · cases h
    exact ⟨rfl, rfl⟩
  · cases h

/-- The words of a range have the handle of the first. -/
theorem handle_add {v : Word} {n i : Nat} (hn : bits v.toNat 0 9 + n ≤ 512) (hi : i < n) :
    bits (v + BitVec.ofNat 32 i).toNat 16 16 = bits v.toNat 16 16 := by
  have hv := v.isLt
  simp only [bits, BitVec.toNat_add, BitVec.toNat_ofNat] at *
  omega

theorem tileRange_own {s : State} {v : Word} {n : Nat} {rs : List TileRef} (h : tileRange s v n = .ok rs)
    (hv : bits v.toNat 16 16 = 0) : ∀ r ∈ rs, r.lease = 0 ∧ r.team = s.t.uid := by
  obtain ⟨hn, hrs⟩ := tileRange_ok h
  intro r hr
  obtain ⟨i, hi, htile⟩ := hrs r hr
  exact tileOf_own htile ((handle_add hn (List.mem_range.1 hi)).trans hv)

/-- The tiles of the team in focus that no reference of a range names. -/
def keptTiles (rs : List TileRef) (s : State) : List Tile :=
  s.t.tiles.filter fun z => !rs.any fun r => r.core == z.core && r.name == z.name

/-- What `zfree` does with the tiles of its range (R251). -/
def freeTiles (rs : List TileRef) (s : State) : State :=
  let s := settleTiles rs s
  { s with t := { s.t with tiles := keptTiles rs s } }

theorem tileOnly_freeTiles (rs : List TileRef) (s : State) : TileOnly s (freeTiles rs s) :=
  (tileOnly_settleTiles rs s).trans (tileOnly_tiles ..)

/-- The tiles that the team in focus returns are gone. -/
theorem getTile_freeTiles {rs : List TileRef} {r : TileRef} (hr : r ∈ rs) (s : State) (hlease : r.lease = 0)
    (hteam : r.team = s.t.uid) : getTile (freeTiles rs s) r = none := by
  rw [getTile_team hlease, hteam, ← (tileOnly_freeTiles rs s).team]
  unfold findTeam
  split
  · rfl
  · simp only [allTeams, List.find?_cons, beq_self_eq_true, Option.bind_some, List.find?_eq_none]
    intro z hz hname
    simp only [freeTiles, keptTiles, List.mem_filter, Bool.not_eq_true', List.any_eq_false, Bool.and_eq_true, beq_iff_eq]
      at hz hname
    exact hz.2 r hr ⟨hname.1.symm, hname.2.symm⟩

/-! ### Bodies on a range of tiles -/

/-- The body of an instruction that works on the tiles of a range: it does nothing without an active lane or on no tile, and
raises what the range raises (R251). -/
def onRange (h : Hdr) (a b : Opnd) (f : List TileRef → Enc → State → Act) (e : Enc) (s : State) : Act :=
  let n := (src32 s.g b 0).toNat
  if s.g.active h.toGuard = 0 ∨ n = 0 then .ok (seqNext e s)
  else match tileRange s (tileWord s.g a) n with
    | .error c => .fault { cause := c }
    | .ok rs => f rs e s

theorem beginIssue_tileRange (e : Enc) (s : State) (v : Word) (n : Nat) : tileRange (beginIssue e s) v n = tileRange s v n := by
  obtain ⟨p, a, c, d, f, g, h, wd, we, ev, ob, fr, tl, wq, hb, -⟩ := beginIssue_spec e s
  rw [hb]
  rfl

theorem beginIssue_leaseHeld (e : Enc) (s : State) (tag : Nat) (v : Word) :
    leaseHeld (beginIssue e s) tag v = leaseHeld s tag v := by
  obtain ⟨p, a, c, d, f, g, h, wd, we, ev, ob, fr, tl, wq, hb, -⟩ := beginIssue_spec e s
  rw [hb]
  rfl

theorem beginIssue_tileWord (e : Enc) (s : State) (a : Opnd) : tileWord (beginIssue e s).g a = tileWord s.g a :=
  beginIssue_src32 e s a

section OnRange

variable {i : Instr} {h : Hdr} {a b : Opnd} {f : List TileRef → Enc → State → Act} {s : State} {e : Enc} {rs : List TileRef}

theorem onRange_good (hact : s.g.active h.toGuard ≠ 0) (hn : (src32 s.g b 0).toNat ≠ 0)
    (hrs : tileRange s (tileWord s.g a) (src32 s.g b 0).toNat = .ok rs) :
    onRange h a b f e (beginIssue e s) = f rs e (beginIssue e s) := by
  simp only [onRange, beginIssue_active, beginIssue_src32, if_neg (not_or.2 ⟨hact, hn⟩), beginIssue_tileWord,
    beginIssue_tileRange, hrs]

variable (hex : exec i s = issue i s (onRange h a b f)) (hi : Issues i s e)
include hex hi

theorem exec_onRange_idle (hidle : s.g.active h.toGuard = 0 ∨ (src32 s.g b 0).toNat = 0) :
    ∃ t, exec i s = .next t ∧ RegFrame s t [] 0 0 := by
  refine ⟨_, ?_, regFrame_seqNext e s⟩
  rw [hex, issue_eq hi, onRange, beginIssue_active, beginIssue_src32, if_pos hidle]

variable (hact : s.g.active h.toGuard ≠ 0) (hn : (src32 s.g b 0).toNat ≠ 0)
include hact hn

theorem exec_onRange_bad {c : Nat} (hc : tileRange s (tileWord s.g a) (src32 s.g b 0).toNat = .error c) :
    exec i s = .next (takeFault { cause := c } s) := by
  rw [hex, issue_eq hi, onRange, beginIssue_active, beginIssue_src32, if_neg (not_or.2 ⟨hact, hn⟩), beginIssue_tileWord,
    beginIssue_tileRange, hc]

variable (hrs : tileRange s (tileWord s.g a) (src32 s.g b 0).toNat = .ok rs)
include hrs

theorem exec_onRange_ok {t : State} (hf : f rs e (beginIssue e s) = .ok t) : exec i s = .next t := by
  rw [hex, issue_eq hi, onRange_good hact hn hrs, hf]

theorem exec_onRange_fault {x : FaultInfo} (hf : f rs e (beginIssue e s) = .fault x) : exec i s = .next (takeFault x s) := by
  rw [hex, issue_eq hi, onRange_good hact hn hrs, hf]

end OnRange

/-- Going on behind an instruction that has worked on tiles. -/
theorem tileFrame_seqNext {e : Enc} {s t : State} (h : TileOnly (beginIssue e s) t) : TileFrame s (seqNext e t) [] 0 := by
  obtain ⟨z, hz, hwalk⟩ := seqNext_spec e t
  rw [hz]
  exact h.tileFrame (hwalk.wrote [] 0)

/-! ### `zclr` and `zfree` -/

/-- The body of `zclr` on its tiles; `held` is the state it leaves where the lender holds it (R243, R450). -/
def clearBody (held : State) (a : Opnd) (rs : List TileRef) (e : Enc) (s : State) : Act :=
  .ok (if leaseHeld s s.t.tag (tileWord s.g a) then held else seqNext e (clearTiles rs s))

/-- The body of `zfree` on its tiles (R251). -/
def freeBody (a : Opnd) (rs : List TileRef) (e : Enc) (s : State) : Act :=
  if bits (tileWord s.g a).toNat 16 16 ≠ 0 then .fault { cause := cZTILE } else .ok (seqNext e (freeTiles rs s))

theorem exec_zclr (h : Hdr) (a b : Opnd) (s : State) :
    exec (.zclr h a b) s = issue (.zclr h a b) s (onRange h a b (clearBody s a)) := rfl

theorem exec_zfree (h : Hdr) (a b : Opnd) (s : State) :
    exec (.zfree h a b) s = issue (.zfree h a b) s (onRange h a b (freeBody a)) := rfl

section Bodies

variable {held s : State} {e : Enc} {a : Opnd} {rs : List TileRef}

theorem clearBody_held (hheld : leaseHeld s s.t.tag (tileWord s.g a) = true) :
    clearBody held a rs e (beginIssue e s) = .ok held := by
  rw [clearBody, beginIssue_t, beginIssue_tileWord, beginIssue_leaseHeld, if_pos hheld]

theorem clearBody_accepted (hfree : leaseHeld s s.t.tag (tileWord s.g a) = false) :
    clearBody held a rs e (beginIssue e s) = .ok (seqNext e (clearTiles rs (beginIssue e s))) := by
  rw [clearBody, beginIssue_t, beginIssue_tileWord, beginIssue_leaseHeld, if_neg (by rw [hfree]; exact Bool.false_ne_true)]

theorem freeBody_lease (hlease : bits (tileWord s.g a).toNat 16 16 ≠ 0) :
    freeBody a rs e (beginIssue e s) = .fault { cause := cZTILE } := by
  rw [freeBody, beginIssue_tileWord, if_pos hlease]

theorem freeBody_own (hown : bits (tileWord s.g a).toNat 16 16 = 0) :
    freeBody a rs e (beginIssue e s) = .ok (seqNext e (freeTiles rs (beginIssue e s))) := by
  rw [freeBody, beginIssue_tileWord, if_neg (not_not_intro hown)]

end Bodies

/-! ### `zgrow` -/

/-- The tiles that `zgrow` binds on the core of the group in focus under the names from k (R252). -/
def newTiles (s : State) (n k : Nat) : List Tile := (List.range n).map fun i => ⟨coreOf s.t s.g, k + i, [], []⟩

/-- The state with these tiles bound to the team in focus. -/
def grown (s : State) (n k : Nat) : State := { s with t := { s.t with tiles := s.t.tiles ++ newTiles s n k } }

/-- n tiles fit, and k is the lowest run of free names for them (R252). -/
def Fits (s : State) (n k : Nat) : Prop :=
  1 ≤ n ∧ n ≤ 512 ∧ freeNames s.t (coreOf s.t s.g) n = some k ∧ tilesUsed s (coreOf s.t s.g) + n ≤ 512 ∧
    tilesBeyond (grown s n k) (coreOf s.t s.g) ≤ 64

theorem beginIssue_fits (e : Enc) (s : State) (n k : Nat) : Fits (beginIssue e s) n k ↔ Fits s n k := by
  obtain ⟨p, a, c, d, f, g, h, wd, we, ev, ob, fr, tl, wq, hb, -⟩ := beginIssue_spec e s
  rw [hb]
  rfl

theorem tileOnly_grown (s : State) (n k : Nat) : TileOnly s (grown s n k) := tileOnly_tiles ..

theorem grown_tiles (e : Enc) (s : State) (n k : Nat) : (grown (beginIssue e s) n k).t.tiles = s.t.tiles ++ newTiles s n k := by
  obtain ⟨p, a, c, d, f, g, h, wd, we, ev, ob, fr, tl, wq, hb, -⟩ := beginIssue_spec e s
  rw [hb]
  rfl

section Grow

variable {h : Hdr} {d a : Opnd} {s : State} {e : Enc} (hi : Issues (.zgrow h d a) s e)
include hi

/-- D of `zgrow` is open, and is a uniform register (R37, R252). -/
theorem grow_dest : destOpen s.g d 1 ∧ gDest d := by
  have hfields : destFields (.zgrow h d a) = some (0xa7, 0, encSpec d) := rfl
  rw [destFields, hi.1, Option.map_some, Option.some_inj, Prod.mk.injEq, Prod.mk.injEq] at hfields
  obtain ⟨hopc, -, hd⟩ := hfields
  exact gOpen_of (wide := false) hi (w := .one) (dir := .wr) (by rw [hopc]; rfl) (by decide) hd rfl

theorem exec_zgrow_idle (hact : s.g.active h.toGuard = 0) :
    exec (.zgrow h d a) s = .next (seqNext e (wrG e d false 0 0 (beginIssue e s))) := by
  rw [show exec (.zgrow h d a) s = execZgrow h d a s from rfl, execZgrow, issue_eq hi]
  simp only [beginIssue_active, hact, if_true]

variable (hact : s.g.active h.toGuard ≠ 0)
include hact

theorem exec_zgrow_fits {k : Nat} (hfits : Fits s (src32 s.g a 0).toNat k) :
    exec (.zgrow h d a) s = .next (seqNext e (wrG e d false (s.g.active h.toGuard) (BitVec.ofNat 64 k)
      (grown (beginIssue e s) (src32 s.g a 0).toNat k))) := by
  obtain ⟨hlow, hhigh, hnames, hused, hbeyond⟩ := (beginIssue_fits e s _ k).2 hfits
  have hcount : ¬ ((src32 s.g a 0).toNat = 0 ∨ 512 < (src32 s.g a 0).toNat) := by omega
  rw [show exec (.zgrow h d a) s = execZgrow h d a s from rfl, execZgrow, issue_eq hi]
  simp only [beginIssue_active, beginIssue_src32, if_neg hact, if_neg hcount, hnames]
  rw [if_pos ⟨hused, hbeyond⟩]
  rfl

theorem exec_zgrow_none (hnone : ∀ k, ¬ Fits s (src32 s.g a 0).toNat k) :
    exec (.zgrow h d a) s = .next (seqNext e (wrG e d false (s.g.active h.toGuard) 0xFFFFFFFF (beginIssue e s))) := by
  rw [show exec (.zgrow h d a) s = execZgrow h d a s from rfl, execZgrow, issue_eq hi]
  simp only [beginIssue_active, beginIssue_src32, if_neg hact]
  by_cases hcount : (src32 s.g a 0).toNat = 0 ∨ 512 < (src32 s.g a 0).toNat
  · simp only [if_pos hcount]
  · simp only [if_neg hcount]
    cases hnames : freeNames (beginIssue e s).t (coreOf (beginIssue e s).t (beginIssue e s).g) (src32 s.g a 0).toNat with
    | none => rfl
    | some k =>
      dsimp only
      rw [if_neg]
      rintro ⟨hused, hbeyond⟩
      exact hnone k ((beginIssue_fits e s _ k).1 ⟨by omega, by omega, hnames, hused, hbeyond⟩)

omit hact in
/-- D is written in a state in which tiles have been bound, or nothing has happened. -/
theorem grow_result {t : State} (ht : TileOnly (beginIssue e s) t) (hg : t.g = (beginIssue e s).g) (act : Mask) (v : DWord) :
    UniResult e (seqNext e (wrG e d false act v t)) d false act v ∧
      (seqNext e (wrG e d false act v t)).t.tiles = t.t.tiles ∧
      TileFrame s (seqNext e (wrG e d false act v t)) (destKeys e d 1 act) act := by
  obtain ⟨hopen, hdest⟩ := grow_dest hi
  have hopen : destOpen t.g d 1 := by
    rw [hg]
    exact (beginIssue_open e s d 1).2 hopen
  obtain ⟨z, hz, hwrote, -, hval⟩ := seqNext_wrG_spec (e := e) act v hopen
  rw [hz]
  refine ⟨fun hn ha => ?_, rfl, ht.tileFrame hwrote⟩
  cases d with
  | g r => exact hval hn ha r rfl
  | _ => exact False.elim hdest

omit hact in
theorem grow_idle (hact : s.g.active h.toGuard = 0) : ∃ t, exec (.zgrow h d a) s = .next t ∧ RegFrame s t [] 0 0 := by
  obtain ⟨y, hy, hwrote, -⟩ := wrG_spec e d false 0 0 (beginIssue e s) ((beginIssue_open e s d 1).2 (grow_dest hi).1)
  have hkeys : destKeys e d 1 0 = [] := by simp [destKeys]
  rw [regsOf, if_neg Bool.false_ne_true, hkeys] at hwrote
  refine ⟨_, exec_zgrow_idle hi hact, regFrame_of (F := wrG e d false 0 0) ⟨y, hy, hwrote.rest, hwrote.sameRegs, ?_⟩⟩
  exact hwrote.flags.trans BitVec.or_zero.symm

end Grow

/-! ### The statement -/

/-- Settles O22: the tiles of a range are cleared one by one, and a change of one leaves the others; those that a team returns
are taken from its list, and those it gains are put at its end. -/
theorem tileResults : Obligations.TileResults := by
  refine ⟨?zclr, ?zfree, ?zgrow⟩
  case zclr =>
    intro h a b s e hi
    have hex := exec_zclr h a b s
    refine ⟨exec_onRange_idle hex hi, fun hact hn =>
      ⟨fun c => exec_onRange_bad hex hi hact hn, fun rs hrs hheld => ?held, fun rs hrs haccepted => ?accepted⟩⟩
    case held => exact exec_onRange_ok hex hi hact hn hrs (clearBody_held hheld)
    case accepted =>
      exact ⟨_, exec_onRange_ok hex hi hact hn hrs (clearBody_accepted haccepted),
        fun r hr => cleared_clearTiles (.inl hr), tileFrame_seqNext (tileOnly_clearTiles rs _)⟩
  case zfree =>
    intro h a b s e hi
    have hex := exec_zfree h a b s
    refine ⟨exec_onRange_idle hex hi, fun hact hn =>
      ⟨fun c => exec_onRange_bad hex hi hact hn, fun rs hrs => ⟨fun hlease => ?lease, fun hown => ?own⟩⟩⟩
    case lease => exact exec_onRange_fault hex hi hact hn hrs (freeBody_lease hlease)
    case own =>
      refine ⟨_, exec_onRange_ok hex hi hact hn hrs (freeBody_own hown), fun r hr => ?_,
        tileFrame_seqNext (tileOnly_freeTiles rs _)⟩
      obtain ⟨hlease, hteam⟩ := tileRange_own hrs hown r hr
      exact getTile_freeTiles hr _ hlease (hteam.trans (congrArg Team.uid (beginIssue_t e s).symm))
  case zgrow =>
    intro h d a s e hi
    refine ⟨grow_idle hi, fun k hact hfits => ?fits, fun hact hnone => ?none⟩
    case fits =>
      obtain ⟨hvalue, htiles, hframe⟩ := grow_result hi (tileOnly_grown (beginIssue e s) (src32 s.g a 0).toNat k) rfl
        (s.g.active h.toGuard) (BitVec.ofNat 64 k)
      exact ⟨_, exec_zgrow_fits hi hact hfits, hvalue, htiles.trans (grown_tiles e s _ k), hframe⟩
    case none =>
      obtain ⟨hvalue, htiles, hframe⟩ := grow_result hi (.refl (beginIssue e s)) rfl (s.g.active h.toGuard) 0xFFFFFFFF
      exact ⟨_, exec_zgrow_none hi hact hnone, hvalue, htiles.trans (by rw [beginIssue_t]), hframe⟩

end Sys2Proof.Machine
end
